-- ==== Sys2Proof/Word.lean ====
section
/-! DEFINITION. The words of the Uplink and the few names for widths that every file uses. -/

namespace Sys2Proof

/-- A word of the Uplink: 32 bits, bit 0 least significant (R212). -/
abbrev Word := BitVec 32

/-- An argument of two consecutive words, low word first (R212). -/
abbrev DWord := BitVec 64

/-- A byte of a frame record or of a list argument. -/
abbrev Byte := BitVec 8

/-- The system controller's label of a packet (section 10.1). -/
abbrev Tag := BitVec 8

/-- A pod, A to D as 0 to 3 (chapter 1). -/
abbrev Pod := Fin 4

/-- A decode lane (chapter 6). -/
abbrev LaneId := Fin 6

/-- A counter K0 to K3 (section 4.5). -/
abbrev CounterId := Fin 4

end Sys2Proof
end

