-- ==== Sys2Proof/Config.lean ====
section
/-! DEFINITION. What the part fixes (the figures of 00_scope.md section 6) and the free values: constants with no body,
one for each value the spec leaves unstated. -/

namespace Sys2Proof.Config

/-- Record slots of the capture DRAM (section 3.2). -/
abbrev recordSlots : Nat := 16777216

/-- Entries of the frame log area (section 7.3). -/
abbrev logEntries : Nat := 65536

/-- Records the writer queue holds before CHANGE and POD records are lost (R45). -/
abbrev writerQueueMax : Nat := 4096

/-- Writer queue length from which the writer is granted without rotation (R58). -/
abbrev watermark : Nat := 1024

/-- Entries the log write queue holds (R143). -/
abbrev logQueueMax : Nat := 64

/-- Records the frame stream queue holds (R148). -/
abbrev streamMax : Nat := 512

/-- Packets the Uplink input queue holds (R197). -/
abbrev inputQueueMax : Nat := 8

/-- The last capture tick (R25), also the greatest T0 and cursor time (R156, R167). -/
abbrev lastTick : Nat := 281474976710655

/-- The greatest column width Q (R156). -/
abbrev maxQ : Nat := 1099511627776

/-- Trace columns (R157). -/
abbrev columns : Nat := 720

/-- Grid ticks by which the level stream runs behind the delivery of the pods' entries: the least fixed delay that lets
glitch qualification look six ticks ahead (R14 with a width of 7). DESIGN CHOICE, log 2. -/
abbrev lookahead : Nat := 6

/-- Words of a RECORDS packet's fill, in records (R61). -/
abbrev recordsPerPacket : Nat := 255

/-- Payload words a FRAMES packet leaves for frame records after its one opening word (R149). -/
abbrev framesRoom : Nat := 1022

/-- FREE VALUE. The end time of a segment closed before any sample was ever stamped, of which R44 says only
"the last tick of the sampling" (log 13). -/
opaque endTimeNoSample : Nat

/-- FREE VALUE. The result word of a LOAD_FRAME_TABLE refused under case 4 of R107 for a declared entry count outside
1 to 32: no entry, front end, frame parameter or check is at fault (log 19). -/
opaque entryCountFault : Word → Word

/-- FREE VALUE. The levels of the sync outputs at a place of a frame, which the part fixes and section 9.1 does not give
(log 37). -/
opaque syncWave : Nat → Nat

end Sys2Proof.Config
end

