-- ==== Sys2Proof/Syntax.lean ====
section
/-! DEFINITION. The commands of the part: one constructor for each row of spec/opcode_table.json. A command carried by a
packet has the packet's tag and its argument words, in the order of section 11.2; a pod word has its pod and its content
(section 1.1); every other row is an event of the part itself. -/

namespace Sys2Proof

/-- The kind code of a training word (section 1.1). -/
inductive LinkKind where
  | standard
  | wide
  deriving DecidableEq, Repr

/-- A word received while a link trains: a good training word with its kind code, or a bad one (R2). -/
inductive TrainingWord where
  | good (kind : LinkKind)
  | bad
  deriving DecidableEq, Repr

/-- The dividers X and Y (R82). -/
inductive DividerId where
  | x
  | y
  deriving DecidableEq, Repr

/-- The steps of the part, in the order of spec/opcode_table.json. Argument words are as received: an out-of-range one is
clamped or refused by the meaning, as the command's rule says (R213). -/
inductive Instr where
  /-- POWER_ON_RESET (R210). -/
  | powerOnReset
  /-- POD_PRESENCE_SENSED (R1). -/
  | podPresenceSensed (p : Pod)
  /-- POD_REMOVED (R1). -/
  | podRemoved (p : Pod)
  /-- TRAINING_WORD_RECEIVED (R2). -/
  | trainingWordReceived (p : Pod) (w : TrainingWord)
  /-- TRAINING_GIVE_UP (R2). -/
  | trainingGiveUp (p : Pod) (w : TrainingWord)
  /-- SAMPLE_FRAME_RECEIVED (R4). -/
  | sampleFrameReceived (p : Pod) (samples : Vector Byte 16)
  /-- BAD_SAMPLE_FRAME (R5). -/
  | badSampleFrame (p : Pod)
  /-- STATUS_WORD_RECEIVED (R11). -/
  | statusWordReceived (p : Pod) (checkOk : Bool) (code : BitVec 8) (hyst : BitVec 2)
  /-- SETUP_FAIL (R11). -/
  | setupFail (p : Pod)
  /-- SET_POD (R10). -/
  | setPod (tag : Tag) (pod code hyst : Word)
  /-- RETRAIN (R8). -/
  | retrain (tag : Tag) (pod : Word)
  /-- SET_DESKEW (R12). -/
  | setDeskew (tag : Tag) (first : Word) (values : List Word)
  /-- SET_GLITCH (R12). -/
  | setGlitch (tag : Tag) (pod width : Word)
  /-- POD_STATUS (R16). -/
  | podStatus (tag : Tag) (pod : Word)
  /-- LEVEL_STREAM_SAMPLE (R17). -/
  | levelStreamSample (trigIn : Bool)
  /-- DIVIDER_OUTPUT (R82). -/
  | dividerOutput (d : DividerId)
  /-- COUNTER_MATCH (R78). -/
  | counterMatch (k : CounterId)
  /-- GAP_TIMEOUT (R125). -/
  | gapTimeout (l : LaneId)
  /-- TIME_LIMIT (R57). -/
  | timeLimit
  /-- POST_FILL_COMPLETION (R54). -/
  | postFillCompletion
  /-- ARBITER_GRANT (R58). -/
  | arbiterGrant
  /-- SECONDS_ADVANCE (R30). -/
  | secondsAdvance
  /-- CORRECTION_INTERVAL_END (R33). -/
  | correctionIntervalEnd
  /-- ROLL_REFRESH (R35). -/
  | rollRefresh
  /-- FRAME_END (R183). -/
  | frameEnd
  /-- BACKLIGHT_PERIOD_END (R193). -/
  | backlightPeriodEnd
  /-- SET_TIMEBASE (R21). -/
  | setTimebase (tag : Tag) (d mode chan edge mask value : Word)
  /-- TIMEBASE_STATUS (R29). -/
  | timebaseStatus (tag : Tag)
  /-- SET_CLOCK (R31). -/
  | setClock (tag : Tag) (seconds : Word)
  /-- SET_CORRECTION (R32). -/
  | setCorrection (tag : Tag) (dir amount interval : Word)
  /-- SET_ROLL_PERIOD (R35). -/
  | setRollPeriod (tag : Tag) (code : Word)
  /-- SET_CAPTURE (R37). -/
  | setCapture (tag : Tag) (mask count prefill postfill hold auto : Word)
  /-- RUN (R50). -/
  | run (tag : Tag)
  /-- MONITOR (R51). -/
  | monitor (tag : Tag)
  /-- STOP (R56). -/
  | stop (tag : Tag)
  /-- READ_SEGMENT (R59). -/
  | readSegment (tag : Tag) (seg : Word)
  /-- READ_RECORDS (R60). -/
  | readRecords (tag : Tag) (seg start count : Word)
  /-- CAPTURE_STATUS (R63). -/
  | captureStatus (tag : Tag)
  /-- ABORT_READ (R62). -/
  | abortRead (tag : Tag)
  /-- LOAD_TRIGGER (R66). -/
  | loadTrigger (tag : Tag) (image : List Word)
  /-- SET_ARM_TIME (R73). -/
  | setArmTime (tag : Tag) (present seconds : Word)
  /-- SET_COUNTER (R79). -/
  | setCounter (tag : Tag) (k value : Word)
  /-- SET_COMPARE (R80). -/
  | setCompare (tag : Tag) (k value : Word)
  /-- FORCE_TRIGGER (R88). -/
  | forceTrigger (tag : Tag)
  /-- TRIGGER_STATUS (R91). -/
  | triggerStatus (tag : Tag)
  /-- LOAD_FRAME_TABLE (R107). -/
  | loadFrameTable (tag : Tag) (lane : Word) (image : List Word)
  /-- UNLOAD_TABLE (R108). -/
  | unloadTable (tag : Tag) (lane : Word)
  /-- TABLE_STATUS (R110). -/
  | tableStatus (tag : Tag)
  /-- LANE_START (R113). -/
  | laneStart (tag : Tag) (lane : Word)
  /-- LANE_STOP_GRACEFUL (R114). -/
  | laneStopGraceful (tag : Tag) (lane : Word)
  /-- LANE_STOP_NOW (R115). -/
  | laneStopNow (tag : Tag) (lane : Word)
  /-- LANE_REPLAY (R116). -/
  | laneReplay (tag : Tag) (lane seg : Word) (fromTick toTick : DWord) (store : Word)
  /-- LANE_STATUS (R135). -/
  | laneStatus (tag : Tag) (lane : Word)
  /-- SET_STREAM (R147). -/
  | setStream (tag : Tag) (mask : Word)
  /-- READ_FRAMES (R150). -/
  | readFrames (tag : Tag) (seg mask : Word) (fromTick : DWord) (count : Word)
  /-- RECORD_PATH_STATUS (R153). -/
  | recordPathStatus (tag : Tag)
  /-- SET_VIEW (R162). -/
  | setView (tag : Tag) (seg : Word) (t0 q : DWord) (roll : Word)
  /-- ZOOM (R163). -/
  | zoom (tag : Tag) (pivot : Word) (q : DWord)
  /-- PAN (R164). -/
  | pan (tag : Tag) (count : Word)
  /-- FIT (R165). -/
  | fit (tag : Tag)
  /-- SET_CURSOR (R167). -/
  | setCursor (tag : Tag) (cursor present : Word) (time : DWord)
  /-- MEASURE (R175). -/
  | measure (tag : Tag) (seg chan : Word) (fromTime toTime : DWord)
  /-- READ_COLUMNS (R178). -/
  | readColumns (tag : Tag) (first count : Word)
  /-- VIEW_STATUS (R179). -/
  | viewStatus (tag : Tag)
  /-- SET_PANEL (R182). -/
  | setPanel (tag : Tag) (code : Word)
  /-- SET_ROW_MAP (R184). -/
  | setRowMap (tag : Tag) (entries : List Word)
  /-- SET_PALETTE (R186). -/
  | setPalette (tag : Tag) (first : Word) (colours : List Word)
  /-- OVERLAY_FILL (R191). -/
  | overlayFill (tag : Tag) (x y w h index : Word)
  /-- OVERLAY (R190). -/
  | overlay (tag : Tag) (x y w h : Word) (pixels : List Word)
  /-- SET_BACKLIGHT (R193). -/
  | setBacklight (tag : Tag) (level : Word)
  /-- PANEL_STATUS (R194). -/
  | panelStatus (tag : Tag)
  /-- CLEAR_EVENTS (R204). -/
  | clearEvents (tag : Tag) (block mask : Word)
  /-- SET_ENABLES (R205). -/
  | setEnables (tag : Tag) (block mask : Word)
  /-- EVENT_STATUS (R207). -/
  | eventStatus (tag : Tag)
  /-- IDENTIFY (R208). -/
  | identify (tag : Tag)
  /-- SOFT_RESET (R209). -/
  | softReset (tag : Tag)
  /-- PACKET_ARRIVAL (R196). -/
  | packetArrival (header : Word) (payload : List Word)
  /-- STRAY_PAYLOAD_WORD (R196). -/
  | strayPayloadWord (w : Word)
  /-- PACKET_DISPATCH (R198). -/
  | packetDispatch
  /-- TRANSMIT_GRANT (R201). -/
  | transmitGrant
  /-- UPSTREAM_PACKET_SENT (R201). -/
  | upstreamPacketSent
  /-- WALL_CLOCK_REFERENCE_COUNT (R30). -/
  | wallClockReferenceCount
  /-- PWM_STEP (R193). -/
  | pwmStep
  /-- RESET_N_ASSERTED (R210). -/
  | resetNAsserted
  /-- PASS_COLUMN_COMPUTED (R169). -/
  | passColumnComputed
  deriving DecidableEq, Repr

end Sys2Proof
end

