-- ==== Sys2Proof/Decode.lean ====
section
/-! DEFINITION. Commands spelled by the bits of the opcode table. The table gives no row of this part any bits: a command is
carried by a packet (`Machine.judgePacket` reads it, `Machine.encodePacket` writes it) or is an event of the part. -/

namespace Sys2Proof

/-- The command a table word spells: none, since no row gives bits. -/
def decodeTableWord (_nbits _w : Nat) : Option Instr := none

end Sys2Proof
end

