-- ==== Sys2Proof/Machine/State.lean ====
section
/-! DEFINITION. The state of the part, block by block as in 00_scope.md section 2.1, and its values after power-on reset.
Capture times, counts and indices are Nat (log 10); what software sees as bits is a BitVec. -/

namespace Sys2Proof.Machine

/-! ## Canonical sparse memories -/

/-- A memory as (address, value) pairs: addresses strictly rising, no entry equal to what an unlisted address reads as
(`Mem.wf`). The capture DRAM is keyed by slot, the overlay plane by pixel. -/
abbrev Mem (α : Type) := List (Nat × α)

/-! ## Chapter 1: pod links -/

/-- The state of a pod link (section 1.2). -/
inductive LinkState where
  | absent | training | up | fault
  deriving DecidableEq, Repr

/-- The pod kind (section 1.2). -/
inductive PodKind where
  | noPod | standard | wide
  deriving DecidableEq, Repr

/-- The kind of word the part last put on a pod link, beside the sample clock (section 1.1). -/
inductive DownWord where
  | idle
  | trainRequest
  | setup (code : BitVec 8) (hyst : BitVec 2)
  deriving DecidableEq, Repr

/-- One pod's entry for one sample tick (R9). -/
structure PodEntry where
  levels : BitVec 8
  valid : Bool
  deriving DecidableEq, Repr

/-- One pod link: link, training, shadow, held levels and glitch width (R1 to R12, R19). -/
structure PodLink where
  /-- the connector's presence sense (R1) -/
  sensed : Bool
  state : LinkState
  kind : PodKind
  lockRun : Nat
  /-- kind code of the previous word in the lock run (R2) -/
  runKind : PodKind
  words : Nat
  badRun : Nat
  code : BitVec 8
  hyst : BitVec 2
  confirmed : Bool
  wait : Option Nat
  held : BitVec 8
  /-- ticks covered by received frames and not yet delivered, oldest first (R9) -/
  due : List PodEntry
  sending : DownWord
  glitchWidth : Nat
  deriving DecidableEq, Repr

/-- The four pods' entries of one grid tick with the TRIG_IN level sampled with them (R9, R70). -/
structure GridTick where
  levels : BitVec 32
  valid : BitVec 4
  trig : Bool
  deriving DecidableEq, Repr

/-- One sample of the level stream (R17). `raw` holds the pod interface's levels of the same tick, which state mode
uses (R27). -/
structure Sample where
  levels : BitVec 32
  glitch : BitVec 32
  valid : BitVec 4
  trig : Bool
  raw : BitVec 32
  deriving DecidableEq, Repr

/-- The pod interface. -/
structure Pods where
  links : Vector PodLink 4
  /-- deskew of channels 0 to 31 (R12) -/
  deskew : List Nat
  /-- the delay lines, newest tick first: 6 ticks of lookahead, the tick delivered, 15 ticks of deskew (R13, R14) -/
  window : List GridTick
  /-- output levels of glitch qualification; none: the deskewed levels of the next tick (R14, R19) -/
  output : Option (BitVec 32)
  /-- per channel, the ticks left of a suppressed pulse (R14) -/
  skip : List Nat
  accumulator : BitVec 32
  deriving DecidableEq, Repr

/-! ## Chapter 2: timebase -/

/-- The sampling mode. -/
inductive Mode where
  | timing | state
  deriving DecidableEq, Repr

/-- An edge setting (R27, R69, R96). -/
inductive Edge where
  | rising | falling | both
  deriving DecidableEq, Repr

/-- The correction direction (R32). -/
inductive Direction where
  | plus | minus | none
  deriving DecidableEq, Repr

/-- The timebase and the wall clock. -/
structure Timebase where
  divider : Nat
  mode : Mode
  clockChan : Nat
  clockEdge : Edge
  qMask : Word
  qValue : Word
  /-- the mode the level stream runs in: `mode` as it stood at the last start of sampling or reset (R21, R22) -/
  modeInForce : Mode
  /-- RUNNING (true) or STOPPED -/
  sampling : Bool
  /-- sampling has started and no sample of it is stamped yet (R22) -/
  fresh : Bool
  tick : Option Nat
  /-- the latest sample of the level stream, stamped or not -/
  last : Sample
  seconds : Word
  subsecond : Nat
  corrDir : Direction
  corrAmount : Nat
  /-- correction interval 60 s (true) or 10 s -/
  corrLong : Bool
  intervalCount : Nat
  withheld : Nat
  /-- period code 0 to 4 for 1/16 s to 1 s (R35) -/
  rollPeriod : Nat
  deriving DecidableEq, Repr

/-! ## Chapter 3: capture store -/

/-- The kind of a record (section 11.4). -/
inductive RecordKind where
  | start | change | pod | overrun | close
  deriving DecidableEq, Repr

/-- A record of a segment ring: `extra` is the glitch mask, or the lost count of an OVERRUN record. -/
structure Record where
  kind : RecordKind
  pods : BitVec 4
  time : Nat
  levels : BitVec 32
  extra : BitVec 32
  deriving DecidableEq, Repr

/-- The state of the capture controller (R38). -/
inductive CaptureState where
  | idle | monitor
  | capturing (seg : Nat)
  | closing
  deriving DecidableEq, Repr

/-- The capture settings (R37). -/
structure CaptureSettings where
  mask : Word
  count : Nat
  prefill : Nat
  postfill : Nat
  hold : Bool
  auto : Bool
  deriving DecidableEq, Repr

/-- The state of a segment (R39). -/
inductive SegState where
  | empty | filling | postFill | closing | done | stopped
  deriving DecidableEq, Repr

/-- The cause of a trigger (R87, R88). -/
inductive Cause where
  | sequencer | field | force
  deriving DecidableEq, Repr

/-- What the trigger writes into the descriptor (R52). -/
structure TriggerFacts where
  time : Nat
  cause : Cause
  wall : Word
  counters : Vector Word 4
  deriving DecidableEq, Repr

/-- The flags of a segment descriptor (section 3.2). -/
structure SegFlags where
  wrapped : Bool
  overrun : Bool
  podFault : Bool
  timeLimit : Bool
  logOverflow : Bool
  triggerTrimmed : Bool
  deriving DecidableEq, Repr

/-- A pending overrun: the time of the first lost record, and the records lost since the last OVERRUN record (R46). -/
structure Overrun where
  first : Nat
  lost : Nat
  deriving DecidableEq, Repr

/-- A segment: its descriptor (section 3.2), its reference (R40) and its pending overrun (R46). -/
structure Segment where
  state : SegState
  /-- close kind: STOPPED (true) or DONE -/
  closeStopped : Bool
  size : Nat
  retained : Nat
  startTime : Nat
  endTime : Option Nat
  oldest : Option Nat
  newest : Option Nat
  trigger : Option TriggerFacts
  trigIndex : Option Nat
  wallStart : Word
  produced : Nat
  written : Nat
  lost : Nat
  postCount : Nat
  flags : SegFlags
  mask : Word
  mode : Mode
  divider : Nat
  refLevels : BitVec 32
  refPods : BitVec 4
  overrun : Option Overrun
  deriving DecidableEq, Repr

/-- A record waiting in the writer queue, with its segment and whether it is a post-trigger record (R45, R52). -/
structure Queued where
  seg : Nat
  record : Record
  post : Bool
  deriving DecidableEq, Repr

/-- A requester of the memory port (section 3.8). -/
inductive Requester where
  | writer | readout | view
  | lane (l : LaneId)
  deriving DecidableEq, Repr

/-- A record readout in flight (R60 to R62). -/
structure RecordReadout where
  tag : Tag
  seg : Nat
  /-- index of the next record to read -/
  next : Nat
  /-- records still to read -/
  remaining : Nat
  /-- index of the first record of `held` -/
  first : Nat
  /-- records read and not yet sent -/
  held : List Record
  /-- the final packet is on the link -/
  finalSent : Bool
  deriving DecidableEq, Repr

/-- The capture store. -/
structure Capture where
  ctl : CaptureState
  stored : CaptureSettings
  inForce : CaptureSettings
  layout : Nat
  segs : List Segment
  /-- the current segment has not produced its START record (R40) -/
  needStart : Bool
  dram : Mem Record
  queue : List Queued
  rotation : Requester
  /-- readout turn: FRAMES (true) or RECORDS -/
  turnFrames : Bool
  readout : Option RecordReadout
  deriving DecidableEq, Repr

/-! ## Chapter 4: trigger sequencer -/

/-- The source of a term (section 4.1). -/
inductive TermSource where
  | pattern (n : Fin 8)
  | edge (n : Fin 8)
  | glitch
  | external
  | counter (n : CounterId)
  | field (n : Fin 4)
  | always
  deriving DecidableEq, Repr

/-- A term: a source and a negate flag. -/
structure Term where
  source : TermSource
  negate : Bool
  deriving DecidableEq, Repr

/-- A condition: 0 to 4 terms combined by OR (`any`) or by AND. -/
structure Condition where
  terms : List Term
  any : Bool
  deriving DecidableEq, Repr

/-- The target of a transition. -/
inductive Target where
  | stage (n : Nat)
  | trigger
  deriving DecidableEq, Repr

/-- A counter action of a stage (R76). -/
inductive Action where
  | keep | clear | run | halt
  deriving DecidableEq, Repr

/-- A stage of the trigger program. -/
structure Stage where
  advance : Condition
  advanceTo : Target
  alternate : Option (Condition × Target)
  actions : Vector Action 4
  restartX : Bool
  restartY : Bool
  watch : Bool
  deriving DecidableEq, Repr

/-- A defined pattern unit (R68). -/
structure PatternUnit where
  mask : Word
  value : Word
  entered : Bool
  deriving DecidableEq, Repr

/-- A defined edge unit (R69). -/
structure EdgeUnit where
  mask : Word
  edge : Edge
  deriving DecidableEq, Repr

/-- The source of a counter (R77). -/
inductive CounterSource where
  | sample | divX | divY
  | term (t : TermSource)
  deriving DecidableEq, Repr

/-- A counter (section 4.5). -/
structure Counter where
  value : Word
  running : Bool
  hold : Bool
  source : CounterSource
  active : Word
  staged : Word
  matched : Bool
  latch : Bool
  suppress : Bool
  deriving DecidableEq, Repr

/-- A divider (R82). -/
structure DividerUnit where
  ratio : Nat
  phase : Nat
  deriving DecidableEq, Repr

/-- The comparison of a unit-count item (R83). -/
inductive Comparison where
  | eq | ge | le
  deriving DecidableEq, Repr

/-- The data item of a field comparator (R83). -/
structure DataItem where
  offset : Nat
  length : Nat
  value : Word
  mask : Word
  deriving DecidableEq, Repr

/-- A defined field comparator: its lane and its enabled items (R83). -/
structure Comparator where
  lane : LaneId
  kindTag : Option (BitVec 4)
  codes : Option (BitVec 7)
  address : Option (Word × Word)
  data : Option DataItem
  units : Option (Comparison × Nat)
  deriving DecidableEq, Repr

/-- The state of the sequencer (section 4.3). -/
inductive SeqState where
  | idle | waitArm | running | triggered
  deriving DecidableEq, Repr

/-- Values of the pattern, edge, glitch and external terms at one evaluated sample (R68 to R70). -/
structure TermValues where
  pattern : BitVec 8
  edge : BitVec 8
  glitch : Bool
  external : Bool
  deriving DecidableEq, Repr

/-- The trigger sequencer. -/
structure Trigger where
  state : SeqState
  stage : Nat
  stages : List Stage
  patterns : Vector (Option PatternUnit) 8
  edges : Vector (Option EdgeUnit) 8
  glitchUnit : Option Word
  counters : Vector Counter 4
  divX : DividerUnit
  divY : DividerUnit
  comps : Vector (Option Comparator) 4
  latches : Vector (Option Nat) 4
  /-- the previous evaluated sample (section 4.2) -/
  prev : Sample
  prevTerms : TermValues
  armTime : Option Word
  force : Bool
  trigOut : Bool
  deriving DecidableEq, Repr

/-! ## Chapter 5: frame tables -/

/-- Parity of a START-STOP character (R95). -/
inductive Parity where
  | none | even | odd | mark | space
  deriving DecidableEq, Repr

/-- Stop bits of a START-STOP character: 1, 1.5 or 2 (R95). -/
inductive StopBits where
  | one | oneHalf | two
  deriving DecidableEq, Repr

/-- START-STOP parameters (R95). -/
structure StartStop where
  chan : Nat
  idle : Bool
  period : Nat
  dataBits : Nat
  parity : Parity
  stop : StopBits
  msbFirst : Bool
  deriving DecidableEq, Repr

/-- STROBED parameters (R96). -/
structure Strobed where
  clock : Nat
  edge : Edge
  select : Option Nat
  active : Bool
  data : List Nat
  width : Nat
  deriving DecidableEq, Repr

/-- TWO-WIRE parameters (R97). -/
structure TwoWire where
  clock : Nat
  data : Nat
  keepAck : Bool
  deriving DecidableEq, Repr

/-- The front end of a frame table. -/
inductive FrontEnd where
  | startStop (p : StartStop)
  | strobed (p : Strobed)
  | twoWire (p : TwoWire)
  deriving DecidableEq, Repr

/-- The role of a field entry (R99). -/
inductive Role where
  | address | command | length | data | check | other
  deriving DecidableEq, Repr

/-- The repeat of a field entry (R100). -/
inductive Repeat where
  | once
  | fixed (n : Nat)
  | byLength (ref : Nat) (offset : Int)
  | toEnd
  deriving DecidableEq, Repr

/-- A branch (R101). -/
structure Branch where
  mask : Word
  value : Word
  tag : Nat
  target : Nat
  deriving DecidableEq, Repr

/-- A field entry (R99). -/
structure Entry where
  name : Nat
  width : Nat
  lsbFirst : Bool
  role : Role
  rep : Repeat
  inCheck : Bool
  branch : Option Branch
  deriving DecidableEq, Repr

/-- The check kind (R102). -/
inductive CheckKind where
  | none | xor8 | sum8 | crc8 | crc16
  deriving DecidableEq, Repr

/-- The check parameters (R102). -/
structure Check where
  kind : CheckKind
  poly : Nat
  init : Nat
  xorOut : Nat
  reflectIn : Bool
  reflectOut : Bool
  deriving DecidableEq, Repr

/-- A frame table. -/
structure FrameTable where
  front : FrontEnd
  unitsLimit : Nat
  gap : Nat
  endOnLast : Bool
  check : Check
  entries : List Entry
  deriving DecidableEq, Repr

/-- Amounts of the decode pool: field entries, branch comparators, check units (R106). -/
structure Charge where
  entries : Nat
  branches : Nat
  checks : Nat
  deriving DecidableEq, Repr

/-- A table slot: EMPTY or LOADED, with its charge record (R94). -/
structure Slot where
  table : Option FrameTable
  charge : Charge
  deriving DecidableEq, Repr

/-- The frame tables and the decode pool. -/
structure Tables where
  slots : Vector Slot 6
  free : Charge
  deriving DecidableEq, Repr

/-! ## Chapter 6: decode lanes -/

/-- The state of a lane (R112). -/
inductive LaneState where
  | off | hunt | inFrame | draining
  deriving DecidableEq, Repr

/-- A START-STOP character in progress: its start tick, the samples taken and the levels sampled after the start bit. -/
structure CharState where
  start : Nat
  taken : Nat
  bits : List Bool
  deriving DecidableEq, Repr

/-- Front-end state of a lane. -/
structure FrontState where
  char : Option CharState
  /-- ticks the START-STOP line has been idle up to the last tick taken (R120) -/
  idleRun : Nat
  /-- unit in progress of STROBED and TWO-WIRE, first bit first -/
  unitBits : List Bool
  unitStart : Nat
  /-- the open frame's last sampling edge (R125) or last activity (R127) -/
  lastEdge : Nat
  /-- the tick from which the quiet time of a STROBED front end without select is counted: the lane's first tick or its last
  ignored edge, whichever is later; none once an edge that was not ignored has come after it (R124) -/
  quietFrom : Option Nat
  deriving DecidableEq, Repr

/-- Extraction position: the current entry and its takings left (none: TO_END) (R129). -/
structure Extract where
  entry : Nat
  left : Option Nat
  deriving DecidableEq, Repr

/-- A partial frame (section 6.1). -/
structure PartialFrame where
  start : Nat
  units : Nat
  tag : Nat
  fields : List (Nat × Word)
  data : List Byte
  truncated : Bool
  /-- end tick of the last complete unit -/
  lastEnd : Option Nat
  framing : Bool
  timeout : Bool
  checkFailed : Bool
  long : Bool
  /-- the first value of role ADDRESS (R83) -/
  address : Option Word
  /-- values of the LENGTH entries taken, by entry index (R100) -/
  lengths : List (Nat × Nat)
  deriving DecidableEq, Repr

/-- Replay context (R116 to R118). -/
structure Replay where
  seg : Nat
  nextTick : Nat
  toTick : Nat
  store : Bool
  /-- index of the next record to read -/
  nextIndex : Nat
  levels : BitVec 32
  /-- tick of an OVERRUN record read and not yet taken -/
  overrunAt : Option Nat
  deriving DecidableEq, Repr

/-- A decode lane. -/
structure Lane where
  state : LaneState
  /-- source REPLAY (true) or LIVE -/
  isReplay : Bool
  resync : Bool
  prev : Option (BitVec 32)
  front : FrontState
  lastTick : Nat
  gatherer : List Bool
  pos : Extract
  frame : Option PartialFrame
  acc : Nat
  errors : Nat
  replay : Option Replay
  deriving DecidableEq, Repr

/-! ## Chapter 7: record path -/

/-- The condition code of a frame (R131). -/
inductive FrameCode where
  | good | short | long | check | timeout | framing | abandoned
  deriving DecidableEq, Repr

/-- A frame record (R138). -/
structure FrameRecord where
  lane : LaneId
  isReplay : Bool
  tag : Nat
  code : FrameCode
  start : Nat
  endTick : Nat
  units : Nat
  fields : List (Nat × Word)
  data : List Byte
  truncated : Bool
  droppedBefore : Nat
  deriving DecidableEq, Repr

/-- A frame readout in flight (R150 to R152). -/
structure FrameReadout where
  tag : Tag
  seg : Nat
  mask : BitVec 6
  fromTick : Nat
  /-- matching entries still to read; none: all -/
  remaining : Option Nat
  /-- place in the log of the next entry to read -/
  pos : Nat
  sent : Nat
  /-- records read and not yet sent -/
  held : List FrameRecord
  /-- no further entry is read -/
  ended : Bool
  /-- the final packet is on the link -/
  finalSent : Bool
  deriving DecidableEq, Repr

/-- The record path. -/
structure RecordPath where
  logs : List (List FrameRecord)
  logQueue : List (Nat × FrameRecord)
  mask : BitVec 6
  stream : List FrameRecord
  dropped : Vector Nat 6
  readout : Option FrameReadout
  /-- FRAMES turn: READOUT (true) or STREAM -/
  turnReadout : Bool
  deriving DecidableEq, Repr

/-! ## Chapter 8: view engine -/

/-- What a row of the row map shows (R184). -/
inductive RowKind where
  | channel (k : Nat)
  | lane (l : Nat)
  | blank
  deriving DecidableEq, Repr

/-- A row map entry. -/
structure RowEntry where
  kind : RowKind
  height : Nat
  deriving DecidableEq, Repr

/-- The class of a trace cell (R159). -/
inductive TraceClass where
  | noData | low | high | rise | fall | busy
  deriving DecidableEq, Repr

/-- The class of a decode cell (R160). -/
inductive DecodeClass where
  | noData | none | good | error | multi
  deriving DecidableEq, Repr

/-- A cell: of a CHANNEL row, of a LANE row, or none in a BLANK row. -/
inductive Cell where
  | trace (cls : TraceClass) (level : Bool) (density : Nat) (glitch : Bool)
  | decode (cls : DecodeClass) (error start : Bool)
  | blank
  deriving DecidableEq, Repr

/-- A snapshot of the viewport and the cursors (R168). -/
structure Snapshot where
  seg : Nat
  t0 : Nat
  q : Nat
  roll : Bool
  cursorA : Option Nat
  cursorB : Option Nat
  deriving DecidableEq, Repr

/-- Where a pass stands in reading records: not begun, bisecting between two record numbers, or reading forward from one
with the time of the last record read (R170). A record number counts the segment's written records from 0. -/
inductive PassReader where
  | idle
  | bisect (lo hi : Nat)
  | reading (next : Nat) (last : Option Nat)
  deriving DecidableEq, Repr

/-- A pass in flight (R169 to R171). -/
structure Pass where
  snap : Snapshot
  rows : List RowEntry
  trigTime : Option Nat
  col : Nat
  /-- the NODATA test of the column when the pass began it (R171) -/
  noData : Bool
  reader : PassReader
  /-- log entries read for the column -/
  logRead : Nat
  deriving DecidableEq, Repr

/-- A buffer of the frame store: the columns of cells, one cell per row of `rows`. -/
structure FrameBuffer where
  passNo : Word
  snap : Option Snapshot
  rows : List RowEntry
  cols : List (List Cell)
  colA : Option Nat
  colB : Option Nat
  colTrig : Option Nat
  deriving DecidableEq, Repr

/-- The results of a measurement (R176). -/
structure MeasureResult where
  rises : Nat
  falls : Nat
  high : Nat
  low : Nat
  highPulse : Option (Nat × Nat)
  lowPulse : Option (Nat × Nat)
  overtaken : Bool
  deriving DecidableEq, Repr

/-- A running measurement: the results so far and its place. -/
structure MeasureRun where
  tag : Tag
  seg : Nat
  chan : Nat
  toTime : Nat
  /-- record number of the next record to read -/
  next : Nat
  /-- the level after the last record read, and the tick up to which ticks are counted -/
  level : Option Bool
  upTo : Nat
  lastRise : Option Nat
  lastFall : Option Nat
  result : MeasureResult
  deriving DecidableEq, Repr

/-- The measurement (section 8.6). -/
inductive Measurement where
  | none
  | running (m : MeasureRun)
  | waiting (tag : Tag) (r : MeasureResult)
  deriving DecidableEq, Repr

/-- A column readout in flight (R178). -/
structure ColumnReadout where
  tag : Tag
  next : Nat
  left : Nat
  finalSent : Bool
  deriving DecidableEq, Repr

/-- The view engine. -/
structure View where
  seg : Nat
  t0 : Nat
  q : Nat
  roll : Bool
  cursorA : Option Nat
  cursorB : Option Nat
  pending : Option Snapshot
  pass : Option Pass
  front : FrameBuffer
  back : FrameBuffer
  ready : Bool
  passCount : Word
  meas : Measurement
  columns : Option ColumnReadout
  deriving DecidableEq, Repr

/-! ## Chapter 9: panel output -/

/-- What the frame being scanned draws from: the front buffer and the rows placed, as at the frame's start (R183, R185). -/
structure Scan where
  front : FrameBuffer
  rows : List RowEntry
  deriving DecidableEq, Repr

/-- The panel output. -/
structure Panel where
  running : Bool
  frameCount : Word
  rowMap : List RowEntry
  written : Vector (BitVec 16) 16
  active : Vector (BitVec 16) 16
  overlay : Mem (BitVec 4)
  level : BitVec 8
  staged : BitVec 8
  step : BitVec 8
  scan : Option Scan
  deriving DecidableEq, Repr

/-! ## Chapter 10: Uplink -/

/-- An event set with its enables and its notice-due flag (R202). -/
structure EventSet where
  events : Word
  enables : Word
  due : Bool
  deriving DecidableEq, Repr

/-- A downstream packet of the input queue. -/
structure Packet where
  header : Word
  payload : List Word
  truncated : Bool
  deriving DecidableEq, Repr

/-- The receiver (R196, R209). -/
inductive Receiver where
  | idle
  /-- a packet being assembled into its slot; `discard`: begun before a SOFT_RESET took effect (R209) -/
  | receiving (header : Word) (words : List Word) (discard : Bool)
  /-- a packet that found no slot: its payload words still to drop -/
  | dropping (left : Nat)
  deriving DecidableEq, Repr

/-- A response code (R200). -/
inductive RespCode where
  | ok | busy | wrongState | badArgument | noResource | laneActive | unknownCommand | badLength
  deriving DecidableEq, Repr

/-- A RESPONSE waiting in the response slot (R200). -/
structure Response where
  tag : Tag
  /-- type of the packet answered -/
  ptype : BitVec 4
  /-- command code or table kind, or 0 -/
  code : BitVec 8
  rc : RespCode
  words : List Word
  deriving DecidableEq, Repr

/-- Where the packet being sent came from (R201). -/
inductive TxSource where
  | response
  | notice
  | stream
  | frames (final : Bool)
  | measure
  | records (final : Bool)
  | columns (final : Bool)
  deriving DecidableEq, Repr

/-- The upstream packet being sent: header word, then payload. -/
structure TxPacket where
  words : List Word
  source : TxSource
  deriving DecidableEq, Repr

/-- The Uplink. -/
structure Uplink where
  rx : Receiver
  queue : List Packet
  slot : Option Response
  tx : Option TxPacket
  noticePtr : Fin 7
  resetPending : Bool
  deriving DecidableEq, Repr

/-! ## The whole part -/

/-- The state of the part. -/
structure State where
  /-- commands waiting, first in first out (the model's own) -/
  pending : List Instr
  /-- the level of RESET_N: high (true) or low (R210) -/
  resetN : Bool
  pods : Pods
  time : Timebase
  capture : Capture
  trigger : Trigger
  tables : Tables
  lanes : Vector Lane 6
  rpath : RecordPath
  view : View
  panel : Panel
  /-- event blocks POD, CAPTURE, TRIGGER, DECODE, RECORD_PATH, VIEW, LINK (section 10.5) -/
  events : Vector EventSet 7
  uplink : Uplink
  deriving DecidableEq, Repr

/-- Why the part stops. -/
inductive Fault where
  /-- Raised by a ring write (R48) to a slot at or above 2^24, which the capture DRAM does not have (section 3.2). Safe:
  no layout a RUN can bring into force has such a slot. -/
  | dramSlotAbsent
  deriving DecidableEq, Repr

/-- Why the model gives a command no meaning. -/
inductive Refusal where
  /-- Raised by exec for a row not modelled yet, by name. Safe: no state follows. -/
  | notModelled (mnemonic : String)
  deriving DecidableEq, Repr

/-! ## Values after power-on reset -/

/-- A pod link after power-on reset (R19). -/
def PodLink.reset : PodLink where
  sensed := false
  state := .absent
  kind := .noPod
  lockRun := 0
  runKind := .noPod
  words := 0
  badRun := 0
  code := 156
  hyst := 1
  confirmed := false
  wait := none
  held := 0
  due := []
  sending := .idle
  glitchWidth := 0

/-- A grid tick on which every pod delivered held levels of 0 (R19). -/
def GridTick.zero : GridTick := ⟨0, 0, false⟩

/-- A level-stream sample of such a tick. -/
def Sample.zero : Sample := ⟨0, 0, 0, false, 0⟩

/-- The pod interface after power-on reset (R19). -/
def Pods.reset : Pods where
  links := Vector.replicate 4 PodLink.reset
  deskew := List.replicate 32 0
  window := List.replicate 22 GridTick.zero
  output := none
  skip := List.replicate 32 0
  accumulator := 0

/-- The timebase after power-on reset (R36). -/
def Timebase.reset : Timebase where
  divider := 1
  mode := .timing
  clockChan := 0
  clockEdge := .rising
  qMask := 0
  qValue := 0
  modeInForce := .timing
  sampling := false
  fresh := false
  tick := none
  last := Sample.zero
  seconds := 0
  subsecond := 0
  corrDir := .none
  corrAmount := 0
  corrLong := false
  intervalCount := 0
  withheld := 0
  rollPeriod := 2

/-- The capture settings after either reset (R65). -/
def CaptureSettings.reset : CaptureSettings := ⟨0xFFFFFFFF, 1, 0, 8388608, false, false⟩

/-- An EMPTY segment of a layout with `count` segments (section 3.2). -/
def Segment.empty (count : Nat) : Segment where
  state := .empty
  closeStopped := false
  size := Config.recordSlots / count
  retained := 0
  startTime := 0
  endTime := none
  oldest := none
  newest := none
  trigger := none
  trigIndex := none
  wallStart := 0
  produced := 0
  written := 0
  lost := 0
  postCount := 0
  flags := ⟨false, false, false, false, false, false⟩
  mask := 0
  mode := .timing
  divider := 0
  refLevels := 0
  refPods := 0
  overrun := none

/-- The blank record: what an unlisted DRAM slot reads as (log 8). -/
def Record.blank : Record := ⟨.start, 0, 0, 0, 0⟩

/-- The capture store after either reset (R65). -/
def Capture.reset : Capture where
  ctl := .idle
  stored := CaptureSettings.reset
  inForce := CaptureSettings.reset
  layout := 1
  segs := [Segment.empty 1]
  needStart := false
  dram := []
  queue := []
  rotation := .lane 5
  turnFrames := false
  readout := none

/-- The stage of the cleared program (R93). -/
def Stage.cleared : Stage where
  advance := ⟨[], false⟩
  advanceTo := .stage 0
  alternate := none
  actions := Vector.replicate 4 .keep
  restartX := false
  restartY := false
  watch := false

/-- A counter after either reset (R93). -/
def Counter.reset : Counter := ⟨0, false, false, .sample, 0, 0, false, false, false⟩

/-- Term values that are all false (R93). -/
def TermValues.none : TermValues := ⟨0, 0, false, false⟩

/-- The trigger sequencer after either reset (R93). -/
def Trigger.reset : Trigger where
  state := .idle
  stage := 0
  stages := [Stage.cleared]
  patterns := Vector.replicate 8 none
  edges := Vector.replicate 8 none
  glitchUnit := none
  counters := Vector.replicate 4 Counter.reset
  divX := ⟨1, 0⟩
  divY := ⟨1, 0⟩
  comps := Vector.replicate 4 none
  latches := Vector.replicate 4 none
  prev := Sample.zero
  prevTerms := TermValues.none
  armTime := none
  force := false
  trigOut := false

/-- An EMPTY table slot (R94). -/
def Slot.empty : Slot := ⟨none, ⟨0, 0, 0⟩⟩

/-- The frame tables after either reset: every slot EMPTY, the pool full (R111). -/
def Tables.reset : Tables := ⟨Vector.replicate 6 Slot.empty, ⟨96, 12, 4⟩⟩

/-- Front-end state with nothing in progress. -/
def FrontState.empty : FrontState := ⟨none, 0, [], 0, 0, none⟩

/-- A lane after either reset (R137). -/
def Lane.reset : Lane where
  state := .off
  isReplay := false
  resync := false
  prev := none
  front := FrontState.empty
  lastTick := 0
  gatherer := []
  pos := ⟨0, some 0⟩
  frame := none
  acc := 0
  errors := 0
  replay := none

/-- The record path after either reset (R155). -/
def RecordPath.reset : RecordPath where
  logs := [[]]
  logQueue := []
  mask := 0
  stream := []
  dropped := Vector.replicate 6 0
  readout := none
  turnReadout := false

/-- The reset picture: no rows, pass number 0, every column off-screen (R181). -/
def FrameBuffer.reset : FrameBuffer := ⟨0, none, [], [], none, none, none⟩

/-- The view engine after either reset (R181). -/
def View.reset : View where
  seg := 0
  t0 := 0
  q := 256
  roll := false
  cursorA := none
  cursorB := none
  pending := none
  pass := none
  front := FrameBuffer.reset
  back := FrameBuffer.reset
  ready := false
  passCount := 0
  meas := .none
  columns := none

/-- The colours of the table in section 9.3. -/
def Panel.defaultPalette : Vector (BitVec 16) 16 :=
  #v[0x0000, 0x4208, 0x03E0, 0x07E0, 0x07E0, 0x3CE7, 0x7FE0, 0xFFE0,
     0xF81F, 0x07FF, 0xF800, 0x041F, 0xFFFF, 0xFC00, 0x867F, 0xFD20]

/-- CHANNEL 0 to CHANNEL 15, each 30 pixels high (R195). -/
def Panel.defaultRows : List RowEntry := (List.range 16).map fun k => ⟨.channel k, 30⟩

/-- The panel output after power-on reset (R195). -/
def Panel.reset : Panel where
  running := false
  frameCount := 0
  rowMap := Panel.defaultRows
  written := Panel.defaultPalette
  active := Panel.defaultPalette
  overlay := []
  level := 0
  staged := 0
  step := 0
  scan := none

/-- The Uplink after either reset: the NOTICE pointer names LINK (R210). -/
def Uplink.reset : Uplink := ⟨.idle, [], none, none, 6, false⟩

/-- The machine right after power-on reset, RESET_N released and no pod sensed (R19, R36, R65, R93, R111, R137, R155,
R181, R195, R210). -/
def State.reset : State where
  pending := []
  resetN := true
  pods := Pods.reset
  time := Timebase.reset
  capture := Capture.reset
  trigger := Trigger.reset
  tables := Tables.reset
  lanes := Vector.replicate 6 Lane.reset
  rpath := RecordPath.reset
  view := View.reset
  panel := Panel.reset
  events := Vector.replicate 7 ⟨0, 0, false⟩
  uplink := Uplink.reset

end Sys2Proof.Machine
end

