-- ==== Sys2Proof/Machine/Operands.lean ====
section
/-! DEFINITION. How operands are read: bit fields of words, indices and codes of argument words, clamps, and the words a
value takes in a RESPONSE (R212, R213). -/

namespace Sys2Proof.Machine

/-! ## Fields and words -/

/-- The number in bits `lo` to `lo + len - 1` of a word; the other bits are unread (R213). -/
def field (w : Word) (lo len : Nat) : Nat := (w.toNat >>> lo) % 2 ^ len

/-- Bit `i` of a word. -/
def flag (w : Word) (i : Nat) : Bool := w.getLsbD i

/-- Byte `i` of a word, byte 0 least significant (R212). -/
def byteOf (w : Word) (i : Nat) : Byte := BitVec.ofNat 8 (field w (8 * i) 8)

/-- A two-word argument, low word first (R212). -/
def dword (lo hi : Word) : DWord := hi ++ lo

/-- A number as one word. -/
def word (n : Nat) : Word := BitVec.ofNat 32 n

/-- A flag as a word: 1 when set (R212). -/
def flagWord (b : Bool) : Word := if b then 1 else 0

/-- A capture time or a 48-bit count as two words, low word first (R212). -/
def timeWords (n : Nat) : List Word := [word n, word (n % 2 ^ 48 / 2 ^ 32)]

/-- An optional time: presence word, then the value or 0 (R212). -/
def optTimeWords (o : Option Nat) : List Word :=
  match o with
  | none => [0, 0, 0]
  | some n => 1 :: timeWords n

/-- An optional one-word item: presence word, then the value or 0 (R212). -/
def optWord (o : Option Word) : List Word :=
  match o with
  | none => [0, 0]
  | some w => [1, w]

/-- The nearest value in `[lo, hi]`. -/
def clamp (lo hi x : Nat) : Nat := max lo (min x hi)

/-- A two's complement argument word as an integer (section 11.2). -/
def signed (w : Word) : Int := w.toInt

/-- The presence word of a "none or value" argument, and a flag argument: bit 0 (log 21). -/
def present (w : Word) : Bool := flag w 0

/-! ## Indices -/

/-- A pod index 0 to 3. -/
def podOf (w : Word) : Option Pod := if h : w.toNat < 4 then some ⟨w.toNat, h⟩ else none

/-- A lane index 0 to 5. -/
def laneOf (w : Word) : Option LaneId := if h : w.toNat < 6 then some ⟨w.toNat, h⟩ else none

/-- A counter index 0 to 3. -/
def counterOf (w : Word) : Option CounterId := if h : w.toNat < 4 then some ⟨w.toNat, h⟩ else none

/-- An event block code 0 to 6 (section 10.5). -/
def blockOf (w : Word) : Option (Fin 7) := if h : w.toNat < 7 then some ⟨w.toNat, h⟩ else none

/-! ## Codes: the place in the list where the owning rule defines them (R212) -/

/-- TIMING, STATE. -/
def modeOf (n : Nat) : Option Mode :=
  match n with
  | 0 => some .timing
  | 1 => some .state
  | _ => none

def Mode.code (m : Mode) : Word :=
  match m with
  | .timing => 0
  | .state => 1

/-- RISING, FALLING, BOTH. -/
def edgeOf (n : Nat) : Option Edge :=
  match n with
  | 0 => some .rising
  | 1 => some .falling
  | 2 => some .both
  | _ => none

def Edge.code (e : Edge) : Word :=
  match e with
  | .rising => 0
  | .falling => 1
  | .both => 2

/-- PLUS, MINUS, NONE (R32). -/
def directionOf (n : Nat) : Option Direction :=
  match n with
  | 0 => some .plus
  | 1 => some .minus
  | 2 => some .none
  | _ => none

def Direction.code (d : Direction) : Word :=
  match d with
  | .plus => 0
  | .minus => 1
  | .none => 2

/-- A two-valued code: off 0 and on 1, OFF 0 and RUNNING 1, A 0 and B 1, 10 s 0 and 60 s 1. -/
def switchOf (w : Word) : Option Bool :=
  if w = 0 then some false else if w = 1 then some true else none

def LinkState.code (l : LinkState) : Word :=
  match l with
  | .absent => 0
  | .training => 1
  | .up => 2
  | .fault => 3

def PodKind.code (k : PodKind) : Word :=
  match k with
  | .noPod => 0
  | .standard => 1
  | .wide => 2

/-- The pod kind a kind code of a training word stands for. -/
def podKindOf (k : LinkKind) : PodKind :=
  match k with
  | .standard => .standard
  | .wide => .wide

def CaptureState.code (c : CaptureState) : Word :=
  match c with
  | .idle => 0
  | .monitor => 1
  | .capturing _ => 2
  | .closing => 3

def SegState.code (c : SegState) : Nat :=
  match c with
  | .empty => 0
  | .filling => 1
  | .postFill => 2
  | .closing => 3
  | .done => 4
  | .stopped => 5

def Cause.code (c : Cause) : Word :=
  match c with
  | .sequencer => 0
  | .field => 1
  | .force => 2

def Requester.code (r : Requester) : Nat :=
  match r with
  | .writer => 0
  | .readout => 1
  | .view => 2
  | .lane l => 3 + l.val

def SeqState.code (s : SeqState) : Word :=
  match s with
  | .idle => 0
  | .waitArm => 1
  | .running => 2
  | .triggered => 3

def CounterSource.code (c : CounterSource) : Word :=
  match c with
  | .sample => 0
  | .divX => 1
  | .divY => 2
  | .term _ => 3

def LaneState.code (l : LaneState) : Word :=
  match l with
  | .off => 0
  | .hunt => 1
  | .inFrame => 2
  | .draining => 3

def FrameCode.code (c : FrameCode) : Nat :=
  match c with
  | .good => 0
  | .short => 1
  | .long => 2
  | .check => 3
  | .timeout => 4
  | .framing => 5
  | .abandoned => 6

def FrontEnd.code (f : FrontEnd) : Word :=
  match f with
  | .startStop _ => 0
  | .strobed _ => 1
  | .twoWire _ => 2

def CheckKind.code (k : CheckKind) : Word :=
  match k with
  | .none => 0
  | .xor8 => 1
  | .sum8 => 2
  | .crc8 => 3
  | .crc16 => 4

def RecordKind.code (k : RecordKind) : Nat :=
  match k with
  | .start => 0
  | .change => 1
  | .pod => 2
  | .overrun => 3
  | .close => 4

def RespCode.code (r : RespCode) : Nat :=
  match r with
  | .ok => 0
  | .busy => 1
  | .wrongState => 2
  | .badArgument => 3
  | .noResource => 4
  | .laneActive => 5
  | .unknownCommand => 6
  | .badLength => 7

def Measurement.code (m : Measurement) : Word :=
  match m with
  | .none => 0
  | .running _ => 1
  | .waiting _ _ => 2

end Sys2Proof.Machine
end

