-- ==== Sys2Proof/Machine/Flags.lean ====
section
/-! DEFINITION. Event flags: raising, clearing and enabling events of the seven event blocks, their notice-due flags and
ATTN (section 10.5, R202 to R206). -/

namespace Sys2Proof.Machine

/-! ## Event blocks and masks (sections 10.5 and 11.1) -/

abbrev blkPod : Fin 7 := 0
abbrev blkCapture : Fin 7 := 1
abbrev blkTrigger : Fin 7 := 2
abbrev blkDecode : Fin 7 := 3
abbrev blkRecord : Fin 7 := 4
abbrev blkView : Fin 7 := 5
abbrev blkLink : Fin 7 := 6

/-- Number of events of a block (section 10.5). -/
def eventCount (b : Fin 7) : Nat :=
  match b with
  | 0 => 20
  | 1 => 5
  | 2 => 3
  | 3 => 24
  | 4 => 1
  | 5 => 2
  | 6 => 1

/-- Event `k` of a block as a mask. -/
def bitMask (k : Nat) : Word := 1#32 <<< k

def evPodUp (p : Pod) : Word := bitMask (5 * p.val)
def evPodDown (p : Pod) : Word := bitMask (5 * p.val + 1)
def evPodFault (p : Pod) : Word := bitMask (5 * p.val + 2)
def evSetupFail (p : Pod) : Word := bitMask (5 * p.val + 3)
def evFrameError (p : Pod) : Word := bitMask (5 * p.val + 4)

def evSegmentDone : Word := bitMask 0
def evCaptureComplete : Word := bitMask 1
def evOverrun : Word := bitMask 2
def evTimeLimit : Word := bitMask 3
def evReadDone : Word := bitMask 4

def evArmTimeReached : Word := bitMask 0
def evTriggered : Word := bitMask 1
def evStageWatch : Word := bitMask 2

def evSyncLost (l : LaneId) : Word := bitMask (4 * l.val)
def evLaneStopped (l : LaneId) : Word := bitMask (4 * l.val + 1)
def evReplayDone (l : LaneId) : Word := bitMask (4 * l.val + 2)
def evFramesDropped (l : LaneId) : Word := bitMask (4 * l.val + 3)

def evLogOverflow : Word := bitMask 0
def evPassDone : Word := bitMask 0
def evMeasureDone : Word := bitMask 1
def evBadPacket : Word := bitMask 0

/-! ## Operations -/

/-- The pending events of a block: set and enabled. -/
def EventSet.pendingEvents (e : EventSet) : Word := e.events &&& e.enables

/-- Raising events: they become set; the flag is set when an enabled event that was clear is among them (R202). -/
def EventSet.raise (e : EventSet) (mask : Word) : EventSet :=
  ⟨e.events ||| mask, e.enables, e.due || (mask &&& ~~~e.events &&& e.enables) != 0⟩

/-- CLEAR_EVENTS: the named events become clear; the flag falls when no pending event is left (R204). -/
def EventSet.clear (e : EventSet) (mask : Word) : EventSet :=
  let ev := e.events &&& ~~~mask
  ⟨ev, e.enables, e.due && (ev &&& e.enables) != 0⟩

/-- SET_ENABLES: the mask is taken whole; a set event newly enabled sets the flag; the flag falls when no pending event is
left (R205). -/
def EventSet.enable (e : EventSet) (mask : Word) : EventSet :=
  let due := e.due || (e.events &&& mask &&& ~~~e.enables) != 0
  ⟨e.events, mask, due && (e.events &&& mask) != 0⟩

/-- Raise events of block `b`. -/
def raise (b : Fin 7) (mask : Word) (s : State) : State :=
  { s with events := s.events.set b (s.events[b].raise mask) }

/-- Raise events of block `b` when `c` holds. -/
def raiseIf (c : Bool) (b : Fin 7) (mask : Word) (s : State) : State :=
  if c then raise b mask s else s

/-- ATTN: some block holds a pending event; low while RESET_N is low (R206, R210). -/
def attn (s : State) : Bool :=
  s.resetN && s.events.toList.any fun e => e.pendingEvents != 0

end Sys2Proof.Machine
end

