-- ==== Sys2Proof/Machine/Ops.lean ====
section
/-! DEFINITION. Shared operations: canonical memories, the taking of a command and its RESPONSE (R198, R200), and updates of
one pod, lane, counter or segment. -/

namespace Sys2Proof.Machine

/-! ## Canonical memories -/

/-- What address `a` holds; `d` where it is unlisted. -/
def Mem.read {α : Type} (d : α) (m : Mem α) (a : Nat) : α :=
  match m with
  | [] => d
  | (k, v) :: rest => if k = a then v else Mem.read d rest a

/-- List `v` at `a`. -/
def Mem.insert {α : Type} (m : Mem α) (a : Nat) (v : α) : Mem α :=
  match m with
  | [] => [(a, v)]
  | (k, w) :: rest =>
    if a < k then (a, v) :: (k, w) :: rest
    else if a = k then (a, v) :: rest
    else (k, w) :: Mem.insert rest a v

/-- Take `a` off the list. -/
def Mem.erase {α : Type} (m : Mem α) (a : Nat) : Mem α :=
  match m with
  | [] => []
  | (k, w) :: rest => if k = a then rest else (k, w) :: Mem.erase rest a

/-- Write `v` at `a`; writing what an unlisted address reads as removes the entry. -/
def Mem.write {α : Type} [DecidableEq α] (d : α) (m : Mem α) (a : Nat) (v : α) : Mem α :=
  if v = d then Mem.erase m a else Mem.insert m a v

/-- The canonical form: addresses strictly rising from `from`, no entry equal to the default. -/
def Mem.wfFrom {α : Type} [DecidableEq α] (d : α) (m : Mem α) (start : Nat) : Bool :=
  match m with
  | [] => true
  | (k, v) :: rest => decide (start ≤ k) && !(decide (v = d)) && Mem.wfFrom d rest (k + 1)

/-- The canonical form of a memory. -/
def Mem.wf {α : Type} [DecidableEq α] (d : α) (m : Mem α) : Bool := Mem.wfFrom d m 0

/-! ## Outcomes and RESPONSEs -/

abbrev Outcome := Host.Outcome State Fault Refusal

/-- What a block answers: a response code and the result words (R200). -/
structure Reply where
  rc : RespCode
  words : List Word
  deriving DecidableEq, Repr

/-- A command as its block takes it. -/
abbrev Command := State → Reply × State

/-- Taken: OK with result words. -/
def accept (words : List Word) (s : State) : Reply × State := (⟨.ok, words⟩, s)

/-- Refused: a code, no result words, the state as it was. -/
def refuse (rc : RespCode) (s : State) : Reply × State := (⟨rc, []⟩, s)

/-- The head packet may be dispatched: RESET_N high, response slot empty, no SOFT_RESET pending (R198, R210). -/
def canDispatch (s : State) : Bool :=
  s.resetN && s.uplink.slot.isNone && !s.uplink.resetPending

/-- Place a RESPONSE in the response slot. -/
def placeResponse (r : Response) (s : State) : State :=
  { s with uplink := { s.uplink with slot := some r } }

/-- Packet types of section 11.1. -/
abbrev typeCommand : BitVec 4 := 1
abbrev typeTable : BitVec 4 := 2
abbrev typeOverlay : BitVec 4 := 3

/-- A block takes a command, and its RESPONSE goes into the response slot (R198). -/
def take (tag : Tag) (ptype : BitVec 4) (code : BitVec 8) (f : Command) (s : State) : State :=
  let out := f s
  placeResponse ⟨tag, ptype, code, out.1.rc, out.1.words⟩ out.2

/-- The step of a command row: taken when a packet may be dispatched, and otherwise the command still waits and nothing
changes (R198, log 1). -/
def runCommand (tag : Tag) (ptype : BitVec 4) (code : BitVec 8) (f : Command) (s : State) : Outcome :=
  .next (if canDispatch s then take tag ptype code f s else s)

/-! ## Updates of one element -/

/-- Change one pod link. -/
def modLink (p : Pod) (f : PodLink → PodLink) (s : State) : State :=
  { s with pods := { s.pods with links := s.pods.links.set p (f s.pods.links[p]) } }

/-- Change one lane. -/
def setLane (l : LaneId) (ln : Lane) (s : State) : State :=
  { s with lanes := s.lanes.set l ln }

/-- The segment at an index; an EMPTY one where the index is not below the layout count. -/
def segAt (s : State) (i : Nat) : Segment := s.capture.segs.getD i (Segment.empty s.capture.layout)

/-- Change one segment. -/
def modSeg (i : Nat) (f : Segment → Segment) (s : State) : State :=
  { s with capture := { s.capture with segs := s.capture.segs.set i (f (segAt s i)) } }

/-- The frame log of a segment. -/
def logAt (s : State) (i : Nat) : List FrameRecord := s.rpath.logs.getD i []

/-- A segment that READ_RECORDS, READ_FRAMES and LANE_REPLAY may read: DONE or STOPPED. -/
def Segment.closed (d : Segment) : Bool := d.state == .done || d.state == .stopped

/-- The current segment, present in CAPTURING (R38). -/
def currentSeg (s : State) : Option Nat :=
  match s.capture.ctl with
  | .capturing i => some i
  | _ => none

/-- The view limit of a segment; none while no record is written (R158). -/
def Segment.viewLimit (d : Segment) : Option Nat :=
  match d.newest with
  | none => none
  | some t => some (d.endTime.getD t)

/-! ## The ring of a segment (section 3.2, R48) -/

/-- The slot of a segment's `n`-th written record. -/
def ringSlot (i : Nat) (d : Segment) (n : Nat) : Nat := i * d.size + n % d.size

/-- The `n`-th written record of segment `i`, as the DRAM holds it. -/
def recordNumber (s : State) (i n : Nat) : Record :=
  Mem.read Record.blank s.capture.dram (ringSlot i (segAt s i) n)

/-- The number of the oldest retained record. -/
def Segment.base (d : Segment) : Nat := d.written - d.retained

/-- The retained record at an index counted from the oldest (R49). -/
def recordAt (s : State) (i j : Nat) : Record := recordNumber s i ((segAt s i).base + j)

/-- The retained records of a segment, oldest first (R49). -/
def retainedRecords (s : State) (i : Nat) : List Record :=
  (List.range (segAt s i).retained).map (recordAt s i)

/-- How many retained records come before the first one at or after a time (R49: times do not fall). -/
def indexAtOrAfter (s : State) (i t : Nat) : Nat :=
  ((retainedRecords s i).takeWhile fun r => r.time < t).length

end Sys2Proof.Machine
end

