-- ==== Sys2Proof/Machine/Formats.lean ====
section
/-! DEFINITION. Layouts of chapter 11: packet headers, records, descriptors, frame records, cells, measurements and row map
entries as words (R212, R214). -/

namespace Sys2Proof.Machine

/-! ## Headers (section 11.1) -/

/-- A header word: length in bits 0 to 9, tag in 16 to 23, type in 24 to 27. -/
def headerWord (ptype : Nat) (tag : Tag) (length : Nat) : Word :=
  word (length % 1024 + tag.toNat * 2 ^ 16 + ptype * 2 ^ 24)

def headerLength (h : Word) : Nat := field h 0 10
def headerTag (h : Word) : Tag := BitVec.ofNat 8 (field h 16 8)
def headerType (h : Word) : BitVec 4 := BitVec.ofNat 4 (field h 24 4)

/-- A whole upstream packet: header, then payload. -/
def packetWords (ptype : Nat) (tag : Tag) (payload : List Word) : List Word :=
  headerWord ptype tag payload.length :: payload

/-- The payload of a RESPONSE (section 11.1). -/
def responsePayload (r : Response) : List Word :=
  word (r.code.toNat + r.rc.code * 2 ^ 8 + r.ptype.toNat * 2 ^ 12) :: r.words

/-- Packet types of the upstream half (section 11.1). -/
abbrev typeResponse : Nat := 8
abbrev typeNotice : Nat := 9
abbrev typeRecords : Nat := 10
abbrev typeFrames : Nat := 11
abbrev typeColumns : Nat := 12
abbrev typeMeasure : Nat := 13

/-! ## Records (section 11.4) -/

def recordWords (r : Record) : List Word :=
  [word (r.kind.code + r.pods.toNat * 2 ^ 4 + r.time % 2 ^ 48 / 2 ^ 32 * 2 ^ 16), word r.time, r.levels, r.extra]

/-- The payload of a RECORDS packet. -/
def recordsPayload (seg first : Nat) (final : Bool) (rs : List Record) : List Word :=
  word (seg % 256 + final.toNat * 2 ^ 31) :: word first :: word rs.length :: rs.flatMap recordWords

/-! ## The segment descriptor (section 11.5) -/

def optTwo (o : Option Nat) : List Word :=
  match o with
  | none => [0, 0]
  | some t => timeWords t

/-- The 31 result words of READ_SEGMENT. -/
def descriptorWords (i : Nat) (d : Segment) (logCount : Nat) : List Word :=
  let w0 := i % 256 + d.state.code * 2 ^ 8 + d.closeStopped.toNat * 2 ^ 11
    + d.flags.wrapped.toNat * 2 ^ 16 + d.flags.overrun.toNat * 2 ^ 17 + d.flags.podFault.toNat * 2 ^ 18
    + d.flags.timeLimit.toNat * 2 ^ 19 + d.flags.logOverflow.toNat * 2 ^ 20 + d.flags.triggerTrimmed.toNat * 2 ^ 21
    + d.mode.code.toNat * 2 ^ 24 + d.endTime.isSome.toNat * 2 ^ 25 + d.oldest.isSome.toNat * 2 ^ 26
    + d.newest.isSome.toNat * 2 ^ 27 + d.trigger.isSome.toNat * 2 ^ 28 + d.trigIndex.isSome.toNat * 2 ^ 29
  let trig : List Word :=
    match d.trigger with
    | none => [0, 0, 0, 0, 0, 0, 0, 0]
    | some f => timeWords f.time ++ [f.cause.code, f.wall] ++ f.counters.toList
  [word w0, word d.size, word d.retained] ++ timeWords d.startTime ++ optTwo d.endTime ++ optTwo d.oldest
    ++ optTwo d.newest ++ trig ++ [word (d.trigIndex.getD 0), d.wallStart] ++ timeWords d.produced
    ++ timeWords d.written ++ timeWords d.lost ++ [word d.postCount, d.mask, word d.divider, word logCount]

/-! ## Frame records (section 11.6) -/

/-- A number as `n` bytes, least significant first. -/
def bytesOf (n x : Nat) : List Byte :=
  match n with
  | 0 => []
  | m + 1 => BitVec.ofNat 8 x :: bytesOf m (x / 256)

def fieldBytes (f : Nat × Word) : List Byte := BitVec.ofNat 8 f.1 :: bytesOf 4 f.2.toNat

def frameBytes (r : FrameRecord) : List Byte :=
  bytesOf 4 (r.lane.val + r.isReplay.toNat * 2 ^ 3 + r.tag % 16 * 2 ^ 4 + r.code.code * 2 ^ 8 + r.truncated.toNat * 2 ^ 11
      + r.fields.length % 32 * 2 ^ 12 + r.data.length % 128 * 2 ^ 17 + r.droppedBefore % 256 * 2 ^ 24)
    ++ bytesOf 6 r.start ++ bytesOf 6 r.endTick ++ bytesOf 2 r.units ++ [0, 0]
    ++ r.fields.flatMap fieldBytes ++ r.data

/-- Four bytes as a word, byte 0 least significant (R212). -/
def wordOfBytes (a b c d : Byte) : Word := d ++ c ++ b ++ a

/-- Bytes packed into words, padded with 0 to a whole word (R214). -/
def packBytes (bs : List Byte) : List Word :=
  match bs with
  | [] => []
  | [a] => [wordOfBytes a 0 0 0]
  | [a, b] => [wordOfBytes a b 0 0]
  | [a, b, c] => [wordOfBytes a b c 0]
  | a :: b :: c :: d :: rest => wordOfBytes a b c d :: packBytes rest

def frameWords (r : FrameRecord) : List Word := packBytes (frameBytes r)

/-- Words a frame record takes in a FRAMES packet. -/
def frameWordCount (r : FrameRecord) : Nat := (20 + 5 * r.fields.length + r.data.length + 3) / 4

/-- The longest head of a list of frame records that fits in `room` words (R149). -/
def fitFrames (room : Nat) (rs : List FrameRecord) : List FrameRecord :=
  match rs with
  | [] => []
  | r :: rest => if frameWordCount r ≤ room then r :: fitFrames (room - frameWordCount r) rest else []

/-- The payload of a FRAMES packet (section 11.1). -/
def framesPayload (isReadout : Bool) (seg : Nat) (final : Bool) (rs : List FrameRecord) : List Word :=
  word (isReadout.toNat + seg % 256 * 2 ^ 8 + rs.length % 256 * 2 ^ 16 + final.toNat * 2 ^ 31) :: rs.flatMap frameWords

/-! ## Cells, measurements and row map entries -/

def TraceClass.code (c : TraceClass) : Nat :=
  match c with
  | .noData => 0
  | .low => 1
  | .high => 2
  | .rise => 3
  | .fall => 4
  | .busy => 5

def DecodeClass.code (c : DecodeClass) : Nat :=
  match c with
  | .noData => 0
  | .none => 1
  | .good => 2
  | .error => 3
  | .multi => 4

/-- The 16 bits of a cell (section 11.6). -/
def cellBits (c : Cell) : Nat :=
  match c with
  | .trace cls level density glitch => cls.code + level.toNat * 2 ^ 3 + glitch.toNat * 2 ^ 4 + density % 256 * 2 ^ 8
  | .decode cls error start => cls.code + error.toNat * 2 ^ 5 + start.toNat * 2 ^ 6
  | .blank => 0

/-- Two cells to a word, the even column in the low half. -/
def packCells (cs : List Cell) : List Word :=
  match cs with
  | [] => []
  | [a] => [word (cellBits a)]
  | a :: b :: rest => word (cellBits a + cellBits b * 2 ^ 16) :: packCells rest

def RowKind.code (k : RowKind) : Nat :=
  match k with
  | .channel _ => 0
  | .lane _ => 1
  | .blank => 2

/-- The payload of a COLUMNS packet. -/
def columnsPayload (row : Nat) (kind : RowKind) (final : Bool) (passNo : Word) (cells : List Cell) : List Word :=
  word (row % 32 + kind.code * 2 ^ 5 + final.toNat * 2 ^ 31) :: passNo :: packCells cells

/-- A row map entry as SET_ROW_MAP carries it (section 11.2). -/
def rowWord (r : RowEntry) : Word :=
  match r.kind with
  | .channel k => word (k * 2 ^ 8 + r.height * 2 ^ 16)
  | .lane l => word (1 + l * 2 ^ 8 + r.height * 2 ^ 16)
  | .blank => word (2 + r.height * 2 ^ 16)

/-- The 17 words of a MEASURE packet (section 11.6). -/
def measureWords (r : MeasureResult) : List Word :=
  let hp := r.highPulse.getD (0, 0)
  let lp := r.lowPulse.getD (0, 0)
  word (r.highPulse.isSome.toNat + r.lowPulse.isSome.toNat * 2 + r.overtaken.toNat * 4)
    :: (timeWords r.rises ++ timeWords r.falls ++ timeWords r.high ++ timeWords r.low
      ++ timeWords hp.1 ++ timeWords hp.2 ++ timeWords lp.1 ++ timeWords lp.2)

end Sys2Proof.Machine
end

