-- ==== Sys2Proof/Machine/LaneStep.lean ====
section
/-! DEFINITION. Chapter 6, one lane and one tick: front ends, units, field extraction, checks and frame ends (R119 to R133),
as functions of a frame table and a lane. -/

namespace Sys2Proof.Machine

/-! ## Channels of a table -/

/-- The channels a front end names (R94). -/
def FrontEnd.channels (f : FrontEnd) : List Nat :=
  match f with
  | .startStop p => [p.chan]
  | .strobed p => p.clock :: (p.select.toList ++ p.data)
  | .twoWire p => [p.clock, p.data]

/-- A list of channels as a channel mask. -/
def maskOf (chans : List Nat) : Word := chans.foldl (fun m k => m ||| bitMask k) 0

/-- The channel set of a table as a mask (R94). -/
def FrameTable.channelMask (t : FrameTable) : Word := maskOf t.front.channels

/-! ## Checks (R102, R130) -/

/-- Width of the check register. -/
def CheckKind.width (k : CheckKind) : Nat :=
  match k with
  | .none => 0
  | .xor8 => 8
  | .sum8 => 8
  | .crc8 => 8
  | .crc16 => 16

/-- The lowest `w` bits of `x` in reverse order. -/
def reverseBits (w x : Nat) : Nat :=
  match w with
  | 0 => 0
  | m + 1 => (x % 2) * 2 ^ m + reverseBits m (x / 2)

/-- One bit into a CRC register of width `w` (R102). -/
def crcBit (w poly reg : Nat) (b : Bool) : Nat :=
  let top := reg.testBit (w - 1)
  let shifted := reg * 2 % 2 ^ w
  if top != b then shifted ^^^ poly else shifted

/-- The eight bits of a byte in the order they are fed (R102). -/
def feedOrder (reflectIn : Bool) (byte : Nat) : List Bool :=
  if reflectIn then (List.range 8).map byte.testBit else (List.range 8).map fun i => byte.testBit (7 - i)

/-- The accumulator when a frame opens (R130). -/
def Check.start (c : Check) : Nat :=
  match c.kind with
  | .none => 0
  | .xor8 => 0
  | .sum8 => 0
  | .crc8 => c.init
  | .crc16 => c.init

/-- One byte into the accumulator (R102). -/
def Check.feed (c : Check) (acc byte : Nat) : Nat :=
  match c.kind with
  | .none => acc
  | .xor8 => acc ^^^ byte
  | .sum8 => (acc + byte) % 256
  | .crc8 => (feedOrder c.reflectIn byte).foldl (crcBit 8 c.poly) acc
  | .crc16 => (feedOrder c.reflectIn byte).foldl (crcBit 16 c.poly) acc

/-- The check value of an accumulator (R102, R130). -/
def Check.value (c : Check) (acc : Nat) : Nat :=
  match c.kind with
  | .none => 0
  | .xor8 => acc
  | .sum8 => (256 - acc) % 256
  | .crc8 => (if c.reflectOut then reverseBits 8 acc else acc) ^^^ c.xorOut
  | .crc16 => (if c.reflectOut then reverseBits 16 acc else acc) ^^^ c.xorOut

/-! ## Field extraction (R99 to R101, R128, R129) -/

/-- The value of bits taken from the gatherer's head (R99). -/
def valueOf (lsbFirst : Bool) (bits : List Bool) : Nat :=
  if lsbFirst then bits.foldr (fun b n => 2 * n + b.toNat) 0 else bits.foldl (fun n b => 2 * n + b.toNat) 0

/-- A value as `n` bytes, most significant first (R99). -/
def bytesMsb (n x : Nat) : List Byte :=
  match n with
  | 0 => []
  | m + 1 => BitVec.ofNat 8 (x / 2 ^ (8 * m)) :: bytesMsb m x

/-- Bytes of a value of `width` bits: ceil(width / 8) (R99). -/
def valueBytes (width x : Nat) : List Byte := bytesMsb ((width + 7) / 8) x

/-- Times an entry is taken, formed when extraction reaches it; none for TO_END (R100). -/
def takings (lengths : List (Nat × Nat)) (e : Entry) : Option Nat :=
  match e.rep with
  | .once => some 1
  | .fixed n => some n
  | .byLength ref off =>
    let n : Int := ((lengths.lookup ref).getD 0 : Nat) + off
    some (min n.toNat 256)
  | .toEnd => none

/-- Extraction reaches entry `i`; entries with a count of 0 or below are passed at once (R100, R129). `fuel` is at least the
number of entries from `i` on. -/
def reach (entries : List Entry) (lengths : List (Nat × Nat)) (fuel i : Nat) : Extract :=
  match fuel with
  | 0 => ⟨i, some 0⟩
  | f + 1 =>
    match entries[i]? with
    | none => ⟨i, some 0⟩
    | some e =>
      match takings lengths e with
      | none => ⟨i, none⟩
      | some 0 => reach entries lengths f (i + 1)
      | some (n + 1) => ⟨i, some (n + 1)⟩

/-- Extraction has passed the last entry. -/
def FrameTable.passed (t : FrameTable) (x : Extract) : Bool := decide (t.entries.length ≤ x.entry)

/-- Extraction has finished the entry list: passed the last entry, or stands on a last entry of TO_END (R129). -/
def FrameTable.finished (t : FrameTable) (x : Extract) : Bool :=
  t.passed x || (decide (x.entry + 1 = t.entries.length) && x.left.isNone)

/-- Where a taken value goes by the entry's role (R99, R102, R130). `acc` is the accumulator before the value is fed. -/
def PartialFrame.store (f : PartialFrame) (c : Check) (acc i : Nat) (e : Entry) (v : Nat) : PartialFrame :=
  let listed := { f with fields := f.fields ++ [(e.name, word v)] }
  match e.role with
  | .data =>
    let bytes := f.data ++ valueBytes e.width v
    { f with data := bytes.take 64, truncated := f.truncated || decide (64 < bytes.length) }
  | .address => { listed with address := some (f.address.getD (word v)) }
  | .length => { listed with lengths := (i, v) :: f.lengths }
  | .check =>
    { listed with checkFailed := f.checkFailed || (decide (c.kind ≠ .none) && decide (c.value acc ≠ v)) }
  | .command => listed
  | .other => listed

/-- The branch of a taken entry, where it is taken (R101). -/
def Entry.branchTaken (e : Entry) (v : Nat) : Option Branch :=
  match e.branch with
  | none => none
  | some b => if word v &&& b.mask = b.value &&& b.mask then some b else none

/-- One taking of the current entry `e`, its bits at the head of the gatherer (R99, R101, R129). -/
def takeEntry (t : FrameTable) (ln : Lane) (f : PartialFrame) (e : Entry) : Lane :=
  let i := ln.pos.entry
  let v := valueOf e.lsbFirst (ln.gatherer.take e.width)
  let f1 := f.store t.check ln.acc i e v
  let acc := if e.inCheck then (valueBytes e.width v).foldl (fun a b => t.check.feed a b.toNat) ln.acc else ln.acc
  let fuel := t.entries.length + 1
  let after : PartialFrame × Extract :=
    match e.branchTaken v with
    | some b => ({ f1 with tag := b.tag }, reach t.entries f1.lengths fuel b.target)
    | none =>
      match ln.pos.left with
      | none => (f1, ln.pos)
      | some n => (f1, if n ≤ 1 then reach t.entries f1.lengths fuel (i + 1) else ⟨i, some (n - 1)⟩)
  { ln with gatherer := ln.gatherer.drop e.width, frame := some after.1, acc := acc, pos := after.2 }

/-- Take entries for as long as the gatherer holds the current entry's width (R129). Every taking removes at least one bit,
so `fuel` of the gatherer's length and one is enough. -/
def extract (t : FrameTable) (fuel : Nat) (ln : Lane) : Lane :=
  match fuel with
  | 0 => ln
  | n + 1 =>
    match ln.frame, t.entries[ln.pos.entry]? with
    | some f, some e => if e.width ≤ ln.gatherer.length then extract t n (takeEntry t ln f e) else ln
    | _, _ => ln

/-- A completed unit: counted, delivered within the limit, and its entries taken (R128, R129). `first` and `last` are the
unit's start and end ticks. -/
def deliverUnit (t : FrameTable) (bits : List Bool) (first last : Nat) (ln : Lane) : Lane :=
  match ln.frame with
  | none => ln
  | some f =>
    let beyond := decide (t.unitsLimit < f.units + 1)
    let surplus := t.passed ln.pos
    let f1 : PartialFrame :=
      { f with
        units := min (f.units + 1) 65535
        start := if f.lastEnd.isNone then first else f.start
        lastEnd := some last
        long := f.long || beyond || surplus }
    if beyond || surplus then { ln with frame := some f1 }
    else
      let ln1 := { ln with frame := some f1, gatherer := ln.gatherer ++ bits }
      extract t (ln1.gatherer.length + 1) ln1

/-! ## Frames: opening and ending (R121, R131 to R133) -/

/-- A frame opens at a tick: everything begun afresh (R121). -/
def openFrame (t : FrameTable) (tick : Nat) (ln : Lane) : Lane :=
  { ln with
    state := .inFrame
    gatherer := []
    pos := reach t.entries [] (t.entries.length + 1) 0
    acc := t.check.start
    frame := some ⟨tick, 0, 0, [], [], false, none, false, false, false, false, none, []⟩ }

/-- What a lane hands over when a frame ends. -/
structure Ended where
  record : FrameRecord
  address : Option Word
  deriving DecidableEq, Repr

/-- A lane after something that may end a frame: the frame handed over, SYNC_LOST, and entry to OFF. -/
structure LaneOut where
  lane : Lane
  frame : Option Ended
  sync : Bool
  off : Bool
  deriving DecidableEq, Repr

/-- Nothing ended. -/
def LaneOut.quiet (ln : Lane) : LaneOut := ⟨ln, none, false, false⟩

/-- Entry to OFF (R112). -/
def Lane.toOff (ln : Lane) : Lane := { Lane.reset with isReplay := ln.isReplay }

/-- The character and the unit in progress discarded; the line's history is kept (R120, R133). -/
def FrontState.discard (f : FrontState) : FrontState := { f with char := none, unitBits := [] }

/-- A unit in progress of a STROBED or TWO-WIRE front end (R125, R127). -/
def Lane.unitInProgress (ln : Lane) : Bool := !ln.front.unitBits.isEmpty

/-- The condition code of a frame at its end: the first mark set in the order of R131. -/
def frameCode (t : FrameTable) (ln : Lane) (f : PartialFrame) (abandoned : Bool) : FrameCode :=
  if abandoned then .abandoned
  else if f.framing then .framing
  else if f.timeout then .timeout
  else if f.checkFailed then .check
  else if f.long || ln.unitInProgress || !ln.gatherer.isEmpty then .long
  else if !t.finished ln.pos then .short
  else .good

/-- The frame ends at `tick`: judged, handed over (an abandoned one only with a complete unit), counted, and the lane's next
state taken. `off`: the rule that ends it takes the lane OFF. `resync`: the rule sets the flag (R118, R131 to R133). With no
frame open a START-STOP character whose start bit is not judged yet is dropped (DESIGN CHOICE for the OVERRUN tick of R118:
log 40). -/
def endFrame (t : FrameTable) (l : LaneId) (tick : Nat) (abandoned off resync : Bool) (ln : Lane) : LaneOut :=
  let goesOff := off || decide (ln.state = .draining)
  match ln.frame with
  | none =>
    if goesOff then ⟨ln.toOff, none, false, true⟩
    else LaneOut.quiet { ln with state := .hunt, front := ln.front.discard, resync := ln.resync || resync }
  | some f =>
    let code := frameCode t ln f abandoned
    let handed := !abandoned || f.lastEnd.isSome
    let count := if !handed then ln.errors else if code = .good then 0 else ln.errors + 1
    let sync := decide (3 ≤ count)
    let record : FrameRecord :=
      ⟨l, ln.isReplay, f.tag, code, f.start, f.lastEnd.getD tick, f.units, f.fields, f.data, f.truncated, 0⟩
    let next :=
      if goesOff then ln.toOff
      else
        { ln with
          state := .hunt, frame := none, gatherer := [], pos := ⟨0, some 0⟩, acc := 0
          front := ln.front.discard
          errors := if sync then 0 else count
          resync := ln.resync || resync || sync }
    ⟨next, if handed then some ⟨record, f.address⟩ else none, sync, goesOff⟩

/-- Set marks of the open frame. -/
def Lane.mark (ln : Lane) (f : PartialFrame → PartialFrame) : Lane := { ln with frame := ln.frame.map f }

/-- After a delivery: the frame ends at once when end-on-last-entry is on and the last entry is passed (R129). -/
def afterUnit (t : FrameTable) (l : LaneId) (tick : Nat) (ln : Lane) : LaneOut :=
  if ln.frame.isSome ∧ t.endOnLast ∧ t.passed ln.pos then endFrame t l tick false false false ln else LaneOut.quiet ln

/-! ## START-STOP (R120 to R123) -/

/-- Character time C in ticks (R120). -/
def StartStop.charTime (p : StartStop) : Nat :=
  let stop :=
    match p.stop with
    | .one => 2
    | .oneHalf => 3
    | .two => 4
  let h := 2 * (1 + p.dataBits + (if p.parity = .none then 0 else 1)) + stop
  (h * p.period + 511) / 512

/-- Tick offset at which bit `i` is sampled (R121). -/
def StartStop.offset (p : StartStop) (i : Nat) : Nat := (2 * i + 1) * p.period / 512

/-- Index of the first stop-bit sample (R122). -/
def StartStop.firstStop (p : StartStop) : Nat := 1 + p.dataBits + (if p.parity = .none then 0 else 1)

/-- Index of the last stop-bit sample (R122). -/
def StartStop.lastStop (p : StartStop) : Nat := p.firstStop + (if p.stop = .two then 1 else 0)

/-- The parity rule of R95 over the data bits and the parity bit. -/
def StartStop.parityOk (p : StartStop) (data : List Bool) (parity : Bool) : Bool :=
  let ones := (data.filter id).length + parity.toNat
  match p.parity with
  | .none => true
  | .even => ones % 2 == 0
  | .odd => ones % 2 == 1
  | .mark => parity
  | .space => !parity

/-- A good character becomes a unit, least significant data bit first (R95, R122). -/
def charUnit (t : FrameTable) (p : StartStop) (c : CharState) (tick : Nat) (ln : Lane) : Lane :=
  let data := c.bits.take p.dataBits
  let ok := p.parityOk data (c.bits.getD p.dataBits false)
  let ln1 := ln.mark fun f => { f with checkFailed := f.checkFailed || !ok }
  deliverUnit t (if p.msbFirst then data.reverse else data) c.start tick ln1

/-- A tick with a character in progress (R121, R122). -/
def charTick (t : FrameTable) (p : StartStop) (l : LaneId) (tick : Nat) (v : Bool) (c : CharState) (ln : Lane) :
    LaneOut :=
  if tick ≠ c.start + p.offset c.taken then LaneOut.quiet ln
  else
    let idle := { ln with front := { ln.front with char := none } }
    let go := fun (bits : List Bool) (x : Lane) =>
      { x with front := { x.front with char := some ⟨c.start, c.taken + 1, bits⟩ } }
    if c.taken = 0 then
      if v = p.idle then LaneOut.quiet idle
      else LaneOut.quiet (go [] (if ln.state = .hunt then openFrame t c.start ln else ln))
    else if c.taken < p.firstStop then LaneOut.quiet (go (c.bits ++ [v]) ln)
    else if v ≠ p.idle then endFrame t l tick false false false (idle.mark fun f => { f with framing := true })
    else if c.taken < p.lastStop then LaneOut.quiet (go c.bits ln)
    else afterUnit t l tick (charUnit t p c tick idle)

/-- A tick with no character in progress: a start edge that counts begins one (R120). -/
def edgeTick (p : StartStop) (tick : Nat) (v was : Bool) (ln : Lane) : Lane :=
  if v ≠ p.idle ∧ was = p.idle ∧ (ln.resync = false ∨ p.charTime ≤ ln.front.idleRun) then
    { ln with resync := false, front := { ln.front with char := some ⟨tick, 0, []⟩ } }
  else ln

/-- The line's idle run after a tick (R120). -/
def FrontState.countIdle (f : FrontState) (idle : Bool) : FrontState :=
  { f with idleRun := if idle then f.idleRun + 1 else 0 }

/-- One START-STOP tick. -/
def startStopTick (t : FrameTable) (p : StartStop) (l : LaneId) (tick : Nat) (was now : BitVec 32) (ln : Lane) :
    LaneOut :=
  let v := now.getLsbD p.chan
  let out :=
    match ln.front.char with
    | some c => charTick t p l tick v c ln
    | none => LaneOut.quiet (edgeTick p tick v (was.getLsbD p.chan) ln)
  if out.off then out
  else { out with lane := { out.lane with front := out.lane.front.countIdle (v == p.idle) } }

/-! ## STROBED (R124, R125) -/

/-- Select is at its active level, or there is no select channel. -/
def Strobed.selected (p : Strobed) (now : BitVec 32) : Bool :=
  match p.select with
  | none => true
  | some k => now.getLsbD k == p.active

/-- The clock channel changes in the direction of the setting (R124). -/
def clockEdge (e : Edge) (was now : Bool) : Bool :=
  match e with
  | .rising => !was && now
  | .falling => was && !now
  | .both => was != now

/-- Sampling edges per unit (R96). -/
def Strobed.edgesPerUnit (p : Strobed) : Nat := p.width / p.data.length

/-- A sampling edge in an open frame: one bit from each data channel, and the unit when it is complete (R124). -/
def strobeBits (t : FrameTable) (p : Strobed) (l : LaneId) (tick : Nat) (now : BitVec 32) (ln : Lane) : LaneOut :=
  let bits := ln.front.unitBits ++ p.data.map now.getLsbD
  let first := if ln.front.unitBits.isEmpty then tick else ln.front.unitStart
  if p.width ≤ bits.length then
    afterUnit t l tick
      (deliverUnit t bits first tick { ln with front := { ln.front with unitBits := [], unitStart := first, lastEdge := tick } })
  else LaneOut.quiet { ln with front := { ln.front with unitBits := bits, unitStart := first, lastEdge := tick } }

/-- With no select channel: the tick comes G ticks after the later of the lane's first tick and its last ignored edge, with no
edge between (R124; log 17). DESIGN CHOICE (log 43): where the flag is set at a tick that is already G ticks or more after
that, it clears at that same tick. -/
def FrontState.quiet (f : FrontState) (gap tick : Nat) : Bool :=
  match f.quietFrom with
  | none => false
  | some q => decide (q + gap ≤ tick)

/-- One STROBED tick (R124, R125). An edge that is not ignored ends the quiet time of R124 until one is. -/
def strobedTick (t : FrameTable) (p : Strobed) (l : LaneId) (tick : Nat) (was now : BitVec 32) (ln : Lane) : LaneOut :=
  if !p.selected now then
    let ln1 := { ln with resync := false }
    if ln.frame.isSome then endFrame t l tick false false false ln1 else LaneOut.quiet ln1
  else
    let ln0 := { ln with resync := ln.resync && !(p.select.isNone && ln.front.quiet t.gap tick) }
    if clockEdge p.edge (was.getLsbD p.clock) (now.getLsbD p.clock) then
      let ln1 := { ln0 with front := { ln0.front with quietFrom := if ln0.resync then some tick else none } }
      if ln1.resync then LaneOut.quiet ln1
      else strobeBits t p l tick now (if ln1.frame.isSome then ln1 else openFrame t tick ln1)
    else LaneOut.quiet ln0

/-! ## TWO-WIRE (R126, R127) -/

/-- A start condition opens a frame (R126). -/
def openTwoWire (t : FrameTable) (tick : Nat) (ln : Lane) : Lane :=
  openFrame t tick { ln with front := { ln.front with unitBits := [], unitStart := tick, lastEdge := tick } }

/-- A rising edge in an open frame: one bit, and the unit at the ninth (R97, R126). -/
def twoWireBit (t : FrameTable) (p : TwoWire) (l : LaneId) (tick : Nat) (b : Bool) (ln : Lane) : LaneOut :=
  let bits := ln.front.unitBits ++ [b]
  let noUnit := match ln.frame with
    | some f => f.units == 0
    | none => true
  let first := if ln.front.unitBits.isEmpty && !noUnit then tick else ln.front.unitStart
  if 9 ≤ bits.length then
    afterUnit t l tick
      (deliverUnit t (if p.keepAck then bits else bits.take 8) first tick
        { ln with front := { ln.front with unitBits := [], unitStart := first, lastEdge := tick } })
  else LaneOut.quiet { ln with front := { ln.front with unitBits := bits, unitStart := first, lastEdge := tick } }

/-- One TWO-WIRE tick (R126, R127). -/
def twoWireTick (t : FrameTable) (p : TwoWire) (l : LaneId) (tick : Nat) (was now : BitVec 32) (ln : Lane) : LaneOut :=
  let clkWas := was.getLsbD p.clock
  let clk := now.getLsbD p.clock
  let dWas := was.getLsbD p.data
  let d := now.getLsbD p.data
  if clkWas && clk && dWas && !d then
    if ln.frame.isSome then
      let out := endFrame t l tick false false false ln
      if out.off || out.sync then out else { out with lane := openTwoWire t tick out.lane }
    else if ln.resync then LaneOut.quiet ln
    else LaneOut.quiet (openTwoWire t tick ln)
  else if clkWas && clk && !dWas && d then
    if ln.frame.isSome then endFrame t l tick false false false ln else LaneOut.quiet { ln with resync := false }
  else if !clkWas && clk && ln.frame.isSome then twoWireBit t p l tick d ln
  else LaneOut.quiet ln

/-! ## One tick, and the gap -/

/-- The first tick a lane takes with no previous levels: they are only recorded (R119). -/
def firstTick (t : FrameTable) (tick : Nat) (now : BitVec 32) (ln : Lane) : Lane :=
  let idle :=
    match t.front with
    | .startStop p => now.getLsbD p.chan == p.idle
    | .strobed _ => false
    | .twoWire _ => false
  { ln with front := { FrontState.empty with quietFrom := some tick }.countIdle idle }

/-- The lane judges one tick by its front end, the gap apart (R119). -/
def judgeTick (t : FrameTable) (l : LaneId) (tick : Nat) (now : BitVec 32) (ln : Lane) : LaneOut :=
  match ln.prev with
  | none => LaneOut.quiet (firstTick t tick now ln)
  | some was =>
    match t.front with
    | .startStop p => startStopTick t p l tick was now ln
    | .strobed p => strobedTick t p l tick was now ln
    | .twoWire p => twoWireTick t p l tick was now ln

/-- The lane takes one tick; the tick's levels of the channel set become its previous levels (R119). -/
def laneTick (t : FrameTable) (l : LaneId) (tick : Nat) (levels : BitVec 32) (ln : Lane) : LaneOut :=
  let now := levels &&& t.channelMask
  let out := judgeTick t l tick now ln
  if out.off then out else { out with lane := { out.lane with prev := some now, lastTick := tick } }

/-- The tick from which the gap of the open frame is counted (R123, R125, R127). -/
def gapFrom (t : FrameTable) (ln : Lane) (f : PartialFrame) : Nat :=
  match t.front with
  | .startStop _ => f.lastEnd.getD f.start
  | .strobed _ => ln.front.lastEdge
  | .twoWire _ => ln.front.lastEdge

/-- A gap of G ticks has run out at the last tick taken and the frame is still open (R123, R125, R127). -/
def gapDue (t : FrameTable) (ln : Lane) : Bool :=
  match ln.frame with
  | none => false
  | some f => ln.front.char.isNone && decide (gapFrom t ln f + t.gap ≤ ln.lastTick)

/-- A STROBED gap with select, or any TWO-WIRE gap, is a timeout (R125, R127). -/
def gapTimesOut (t : FrameTable) (ln : Lane) : Bool :=
  match t.front with
  | .startStop _ => false
  | .strobed p => p.select.isSome && (ln.unitInProgress || !t.finished ln.pos)
  | .twoWire _ => true

/-- The gap ends the open frame, when it is due (R123, R125, R127). -/
def endByGap (t : FrameTable) (l : LaneId) (ln : Lane) : LaneOut :=
  if gapDue t ln then
    endFrame t l ln.lastTick false false false
      (if gapTimesOut t ln then ln.mark fun f => { f with timeout := true } else ln)
  else LaneOut.quiet ln

end Sys2Proof.Machine
end

