-- ==== Sys2Proof/Machine/TriggerOps.lean ====
section
/-! DEFINITION. Chapter 4: terms and conditions, counters and dividers, stage entry, field comparators and the trigger
(R68 to R90). -/

namespace Sys2Proof.Machine

/-! ## Terms and conditions -/

/-- Eight bits, bit 0 first. -/
def eightBits (bits : List Bool) : BitVec 8 := BitVec.ofNat 8 (bits.foldr (fun b n => 2 * n + b.toNat) 0)

/-- The match of a pattern unit: every channel of the mask has the level of the value (R68). -/
def PatternUnit.holds (u : PatternUnit) (levels : BitVec 32) : Bool := (levels ^^^ u.value) &&& u.mask == 0

/-- The term PATTERN n (R68). -/
def patternTerm (u : Option PatternUnit) (prev now : BitVec 32) : Bool :=
  match u with
  | none => false
  | some u => u.holds now && (!u.entered || !u.holds prev)

/-- Channels that changed in the direction of an edge setting (R27, R69). -/
def changed (e : Edge) (prev now : BitVec 32) : BitVec 32 :=
  match e with
  | .rising => now &&& ~~~prev
  | .falling => prev &&& ~~~now
  | .both => prev ^^^ now

/-- The term EDGE n (R69). -/
def edgeTerm (u : Option EdgeUnit) (prev now : BitVec 32) : Bool :=
  match u with
  | none => false
  | some u => changed u.edge prev now &&& u.mask != 0

/-- The term GLITCH (R69). -/
def glitchTerm (u : Option Word) (flags : BitVec 32) : Bool :=
  match u with
  | none => false
  | some m => flags &&& m != 0

/-- Term values of an evaluated sample against the previous one (R68 to R70). -/
def Trigger.termValues (t : Trigger) (now : Sample) : TermValues where
  pattern := eightBits (t.patterns.toList.map fun u => patternTerm u t.prev.levels now.levels)
  edge := eightBits (t.edges.toList.map fun u => edgeTerm u t.prev.levels now.levels)
  glitch := glitchTerm t.glitchUnit now.glitch
  external := now.trig

/-- The value of a pattern, edge, glitch or external source; false for the others. -/
def TermValues.unit (v : TermValues) (src : TermSource) : Bool :=
  match src with
  | .pattern n => v.pattern.getLsbD n
  | .edge n => v.edge.getLsbD n
  | .glitch => v.glitch
  | .external => v.external
  | .counter _ => false
  | .field _ => false
  | .always => false

/-- The value of a term's source, counters and latches as they stand (R70, R81, R85). -/
def Trigger.sourceTrue (t : Trigger) (v : TermValues) (src : TermSource) : Bool :=
  match src with
  | .counter n => t.counters[n].matched || t.counters[n].latch
  | .field n => (t.latches[n]).isSome
  | .always => true
  | .pattern n => v.unit (.pattern n)
  | .edge n => v.unit (.edge n)
  | .glitch => v.unit .glitch
  | .external => v.unit .external

/-- A condition: never true with 0 terms; AND or OR of the contributed values (R71). -/
def Trigger.conditionTrue (t : Trigger) (v : TermValues) (c : Condition) : Bool :=
  match c.terms with
  | [] => false
  | terms =>
    if c.any then terms.any fun tm => t.sourceTrue v tm.source != tm.negate
    else terms.all fun tm => t.sourceTrue v tm.source != tm.negate

/-! ## Counters and dividers -/

/-- One count step (R78). -/
def Counter.step (c : Counter) : Counter :=
  if c.suppress then { c with value := c.value + 1, suppress := false }
  else if c.value + 1 = c.active then
    if c.hold then { c with value := c.value + 1, running := false, matched := true }
    else { c with value := 0, latch := true }
  else { c with value := c.value + 1 }

/-- The next step of the counter is a match (R78). -/
def Counter.matchDue (c : Counter) : Bool := c.running && !c.suppress && c.value + 1 == c.active

/-- One tick of a divider: the phase after it, and whether it gives an output (R82). -/
def DividerUnit.tick (d : DividerUnit) : DividerUnit × Bool :=
  if d.ratio ≤ d.phase + 1 then ({ d with phase := 0 }, true) else ({ d with phase := d.phase + 1 }, false)

/-- Change every counter. -/
def Trigger.mapCounters (t : Trigger) (f : Counter → Counter) : Trigger :=
  { t with counters := #v[f t.counters[0], f t.counters[1], f t.counters[2], f t.counters[3]] }

/-- A counter's source fires at the tick (R77). -/
def Counter.fires (c : Counter) (evaluated xOut yOut : Bool) (v prev : TermValues) : Bool :=
  c.running &&
    match c.source with
    | .sample => evaluated
    | .divX => xOut
    | .divY => yOut
    | .term src => evaluated && v.unit src && !prev.unit src

/-- Steps of a tick from every source but field matches (R74 steps 2 and 3). -/
def Trigger.tickSteps (t : Trigger) (evaluated : Bool) (v : TermValues) : Trigger :=
  let x := t.divX.tick
  let y := t.divY.tick
  { t with divX := x.1, divY := y.1 }.mapCounters fun c =>
    if c.fires evaluated x.2 y.2 v t.prevTerms then c.step else c

/-- Step every running counter with a given source. -/
def Trigger.stepSource (t : Trigger) (src : CounterSource) : Trigger :=
  t.mapCounters fun c => if c.running && decide (c.source = src) then c.step else c

/-- A counter at RUN and at re-arm (R72, R90). -/
def Counter.zero (c : Counter) : Counter :=
  { c with value := 0, running := false, matched := false, latch := false, suppress := false }

/-- A stage's action on a counter, after its staged compare is committed (R76). -/
def Counter.enter (c : Counter) (a : Action) : Counter :=
  let c1 := { c with active := c.staged }
  match a with
  | .keep => c1
  | .clear => { c1 with value := 0, matched := false, latch := false, suppress := false }
  | .run => { c1 with running := true }
  | .halt => { c1 with running := false }

/-- Both dividers at phase 0 (R82). -/
def Trigger.holdDividers (t : Trigger) : Trigger :=
  { t with divX := { t.divX with phase := 0 }, divY := { t.divY with phase := 0 } }

/-- Every field latch emptied. -/
def Trigger.emptyField (t : Trigger) : Trigger := { t with latches := Vector.replicate 4 none }

/-- Every counter match latch and field latch emptied (R74 step 6). -/
def Trigger.emptyLatches (t : Trigger) : Trigger := t.emptyField.mapCounters fun c => { c with latch := false }

/-! ## States -/

/-- Entering a stage: commit, counter actions, divider restarts (R76). -/
def Trigger.enterStage (t : Trigger) (n : Nat) : Trigger :=
  let st := t.stages.getD n Stage.cleared
  { t with
    stage := n
    counters := #v[t.counters[0].enter st.actions[0], t.counters[1].enter st.actions[1],
      t.counters[2].enter st.actions[2], t.counters[3].enter st.actions[3]]
    divX := if st.restartX then { t.divX with phase := 0 } else t.divX
    divY := if st.restartY then { t.divY with phase := 0 } else t.divY }

/-- The watch flag of a stage. -/
def Trigger.watches (t : Trigger) (n : Nat) : Bool := (t.stages.getD n Stage.cleared).watch

/-- Change the sequencer. -/
def setTrigger (t : Trigger) (s : State) : State := { s with trigger := t }

/-- A stage is entered, with STAGE_WATCH where it is watched (R76). -/
def enterStage (n : Nat) (s : State) : State :=
  raiseIf (s.trigger.watches n) blkTrigger evStageWatch (setTrigger (s.trigger.enterStage n) s)

/-- Entry to RUNNING at stage 0, dividers released at phase 0 (R72, R73, R90). -/
def enterRunning (s : State) : State :=
  enterStage 0 (setTrigger { s.trigger.holdDividers with state := .running } s)

/-- Entry to IDLE: force pending cleared, every latch emptied, dividers held (R89). -/
def Trigger.toIdle (t : Trigger) : Trigger :=
  { t.emptyLatches.holdDividers with state := .idle, force := false }

/-- Counters zero, field latches empty, force cleared, as at RUN and at re-arm (R72, R90). -/
def Trigger.fresh (t : Trigger) : Trigger := { (t.mapCounters Counter.zero).emptyField with force := false }

/-- The start asked for by RUN (R72). -/
def startSequencer (s : State) : State :=
  let t := { s.trigger.fresh with stage := 0 }
  match t.armTime with
  | some a =>
    if s.time.seconds < a then setTrigger { t.holdDividers with state := .waitArm } s
    else enterRunning (setTrigger t s)
  | none => enterRunning (setTrigger t s)

/-- Re-arm into the next segment (R90). -/
def rearm (s : State) : State := enterRunning (setTrigger s.trigger.fresh s)

/-- The wall seconds have changed: WAIT_ARM is left when they reach the arm time (R73). -/
def secondsChanged (s : State) : State :=
  match s.trigger.state, s.trigger.armTime with
  | .waitArm, some a =>
    if a ≤ s.time.seconds then raise blkTrigger evArmTimeReached (enterRunning s) else s
  | _, _ => s

/-! ## Field comparators -/

/-- Byte `i` of the data matches under the data item's mask. -/
def DataItem.byteMatches (d : DataItem) (data : List Byte) (i : Nat) : Bool :=
  let m := byteOf d.mask i
  data.getD (d.offset + i) 0 &&& m == byteOf d.value i &&& m

/-- A frame matches every enabled item of a comparator (R83, R84). -/
def Comparator.accepts (c : Comparator) (r : FrameRecord) (address : Option Word) : Bool :=
  (match c.kindTag with
    | none => true
    | some k => r.tag == k.toNat)
  && (match c.codes with
    | none => true
    | some set => set.getLsbD r.code.code)
  && (match c.address with
    | none => true
    | some (v, m) =>
      match address with
      | none => false
      | some a => a &&& m == v &&& m)
  && (match c.data with
    | none => true
    | some d => decide (d.offset + d.length ≤ r.data.length) && (List.range d.length).all (d.byteMatches r.data))
  && (match c.units with
    | none => true
    | some (.eq, n) => r.units == n
    | some (.ge, n) => decide (n ≤ r.units)
    | some (.le, n) => decide (r.units ≤ n))

/-- A match of comparator `n`: the latch keeps the earliest end tick, and counters that count the comparator step (R84). -/
def Trigger.fieldMatch (t : Trigger) (n : Fin 4) (endTick : Nat) : Trigger :=
  let tick :=
    match t.latches[n] with
    | none => endTick
    | some e => min e endTick
  { t with latches := t.latches.set n (some tick) }.stepSource (.term (.field n))

/-- The frame offered to comparator `n` (R84). -/
def Trigger.offerTo (t : Trigger) (n : Fin 4) (r : FrameRecord) (address : Option Word) : Trigger :=
  match t.comps[n] with
  | none => t
  | some c => if c.lane = r.lane ∧ c.accepts r address then t.fieldMatch n r.endTick else t

/-- A completed LIVE frame offered to the comparators while the sequencer is RUNNING (R84, R140). -/
def Trigger.offer (t : Trigger) (r : FrameRecord) (address : Option Word) : Trigger :=
  if t.state = .running ∧ r.isReplay = false then
    (((t.offerTo 0 r address).offerTo 1 r address).offerTo 2 r address).offerTo 3 r address
  else t

/-! ## The trigger -/

/-- Taking the trigger at an evaluated sample (R86): the facts go to the current segment, which enters POST_FILL (R52). Force
pending falls here, as the force it stands for is taken (DEDUCED: log 38). -/
def takeTrigger (time : Nat) (cause : Cause) (s : State) : State :=
  let facts : TriggerFacts :=
    ⟨time, cause, s.time.seconds,
      #v[s.trigger.counters[0].value, s.trigger.counters[1].value, s.trigger.counters[2].value,
        s.trigger.counters[3].value]⟩
  let s1 :=
    match currentSeg s with
    | none => s
    | some i => modSeg i (fun d => { d with state := .postFill, trigger := some facts, postCount := 0 }) s
  raise blkTrigger evTriggered
    (setTrigger { s.trigger.holdDividers with state := .triggered, trigOut := true, force := false } s1)

/-- End ticks of the true, not negated FIELD terms of a condition (R87). -/
def Trigger.fieldTicks (t : Trigger) (c : Condition) : List Nat :=
  c.terms.filterMap fun tm =>
    match tm.source with
    | .field n => if tm.negate then none else t.latches[n]
    | _ => none

/-- The trigger time and cause of a transition taken at `tick` (R87). -/
def Trigger.timeAndCause (t : Trigger) (c : Condition) (tick : Nat) : Nat × Cause :=
  match t.fieldTicks c with
  | [] => (tick, .sequencer)
  | e :: rest => (rest.foldl min e, .field)

/-- The current segment's prefill is satisfied (R53); false with no current segment, which CAPTURE_STATUS reports as 0 with no
presence word (R63; DESIGN CHOICE: log 22). -/
def prefillSatisfied (s : State) : Bool :=
  match currentSeg s with
  | none => false
  | some i => decide (s.capture.inForce.prefill ≤ (segAt s i).written)

/-- A transition whose target is TRIGGER is blocked by prefill hold (R75). -/
def holdBlocks (s : State) (target : Target) : Bool :=
  decide (target = .trigger) && s.capture.inForce.hold && !prefillSatisfied s

/-- A condition is true and its transition may be taken (R75). -/
def mayTake (v : TermValues) (c : Condition) (target : Target) (s : State) : Bool :=
  s.trigger.conditionTrue v c && !holdBlocks s target

/-- A transition (R75, R86). -/
def transition (c : Condition) (target : Target) (tick : Nat) (s : State) : State :=
  match target with
  | .stage n => enterStage n s
  | .trigger =>
    let tc := s.trigger.timeAndCause c tick
    takeTrigger tc.1 tc.2 s

/-- At most one transition of the current stage (R74 step 5, R75). -/
def judge (v : TermValues) (tick : Nat) (s : State) : State :=
  let st := s.trigger.stages.getD s.trigger.stage Stage.cleared
  if mayTake v st.advance st.advanceTo s then transition st.advance st.advanceTo tick s
  else
    match st.alternate with
    | none => s
    | some (c, target) => if mayTake v c target s then transition c target tick s else s

/-- The previous evaluated sample and its term values (R68). -/
def keepPrevious (sm : Sample) (v : TermValues) (s : State) : State :=
  setTrigger { s.trigger with prev := sm, prevTerms := v } s

/-- Steps 4 to 6 of R74 at an evaluated sample. -/
def judgeSample (v : TermValues) (tick : Nat) (s : State) : State :=
  let s1 := if s.trigger.force then takeTrigger tick .force s else judge v tick s
  setTrigger s1.trigger.emptyLatches s1

/-- The sequencer's work at one stamped sample (R74). -/
def sequencerSample (sm : Sample) (evaluated : Bool) (tick : Nat) (s : State) : State :=
  let v := s.trigger.termValues sm
  match s.trigger.state with
  | .running =>
    let s1 := setTrigger (s.trigger.tickSteps evaluated v) s
    if evaluated then keepPrevious sm v (judgeSample v tick s1) else s1
  | .waitArm =>
    if evaluated then
      keepPrevious sm v (if s.trigger.force then judgeSample v tick s else s)
    else s
  | .idle => if evaluated then keepPrevious sm v s else s
  | .triggered => if evaluated then keepPrevious sm v s else s

/-- Term values taken before capture tick 0, with edge units false (R68). The term of an ENTERED pattern, which needs a sample
before the unstamped one as an edge does, is false too (DESIGN CHOICE: log 39). -/
def Trigger.primed (t : Trigger) (last : Sample) : Trigger :=
  { t with
    prev := last
    prevTerms := { { t with prev := last }.termValues last with edge := 0 } }

end Sys2Proof.Machine
end

