-- ==== Sys2Proof/Machine/RecordOps.lean ====
section
/-! DEFINITION. Chapter 7: the taking of a completed frame, frame logs and their trimming, the frame stream and the frame
readout (R139 to R152). -/

namespace Sys2Proof.Machine

/-- Change the record path. -/
def setPath (p : RecordPath) (s : State) : State := { s with rpath := p }

/-! ## Frame logs -/

/-- Entries a frame log has room for (section 7.3). -/
def logRoom (s : State) : Nat := Config.logEntries / s.capture.layout

/-- The LOG_OVERFLOW flag of a segment and its event (R143, R144, R154). -/
def logOverflow (i : Nat) (s : State) : State :=
  raise blkRecord evLogOverflow (modSeg i (fun d => { d with flags := { d.flags with logOverflow := true } }) s)

/-- Data bytes a log entry has space for (R139). -/
def logSpace (r : FrameRecord) : Nat := min 64 (108 - 5 * r.fields.length)

/-- The copy of a frame record that a log entry holds (R139). -/
def logCopy (r : FrameRecord) : FrameRecord :=
  { r with
    data := r.data.take (logSpace r)
    truncated := r.truncated || decide (logSpace r < r.data.length)
    droppedBefore := 0 }

/-- The start-tick test of R141. -/
def Segment.logs (d : Segment) (r : FrameRecord) : Bool := decide (d.oldest.getD d.startTime ≤ r.start)

/-- A frame placed in the log write queue for segment `i`, where its start tick allows (R141 to R143). -/
def placeInLog (i : Nat) (r : FrameRecord) (s : State) : State :=
  if !(segAt s i).logs r then s
  else if s.rpath.logQueue.length < Config.logQueueMax then
    setPath { s.rpath with logQueue := s.rpath.logQueue ++ [(i, logCopy r)] } s
  else logOverflow i s

/-- A frame readout after entries before its place have gone; its end is passed when its place reaches the log's end
(R151). -/
def FrameReadout.afterRemoval (r : FrameReadout) (gone length : Nat) : FrameReadout :=
  { r with pos := r.pos - gone, ended := r.ended || decide (length ≤ r.pos - gone) }

/-- Keep only some entries of segment `i`'s log; a frame readout keeps its place among them (R142, R144, R145, R151). -/
def keepInLog (i : Nat) (keep : FrameRecord → Bool) (s : State) : State :=
  let log := logAt s i
  let kept := log.filter keep
  let readout := s.rpath.readout.map fun r =>
    if r.seg = i then r.afterRemoval ((log.take r.pos).filter (fun e => !keep e)).length kept.length else r
  setPath { s.rpath with logs := s.rpath.logs.set i kept, readout := readout } s

/-- Keep only some entries of the log write queue, each with the segment it waits for. -/
def keepInLogQueue (keep : Nat × FrameRecord → Bool) (s : State) : State :=
  setPath { s.rpath with logQueue := s.rpath.logQueue.filter keep } s

/-- The oldest time of segment `i` has advanced: its entries that start before it go, from its log and from the log write queue
(R145). -/
def trimLog (i oldest : Nat) (s : State) : State :=
  let keep := fun (r : FrameRecord) => decide (oldest ≤ r.start)
  keepInLogQueue (fun e => e.1 != i || keep e.2) (keepInLog i keep s)

/-- A stored replay begins: every entry of its lane goes from the segment's log and from the log write queue, whatever segment
it waits for there (R142). DEDUCED (log 41): only a removal from the log lowers the segment's frame log count. -/
def dropLaneEntries (i : Nat) (l : LaneId) (s : State) : State :=
  let keep := fun (r : FrameRecord) => decide (r.lane ≠ l)
  keepInLogQueue (fun e => keep e.2) (keepInLog i keep s)

/-- The oldest entry of a full log is dropped (R144). -/
def dropOldestEntry (i : Nat) (s : State) : State :=
  let log := (logAt s i).tail
  let readout := s.rpath.readout.map fun r =>
    if r.seg = i then r.afterRemoval (min r.pos 1) (log.length + 1) else r
  logOverflow i (setPath { s.rpath with logs := s.rpath.logs.set i log, readout := readout } s)

/-- An entry joins a log at its end (R143, R144). -/
def joinLog (i : Nat) (r : FrameRecord) (s : State) : State :=
  let s1 := if logRoom s ≤ (logAt s i).length then dropOldestEntry i s else s
  setPath { s1.rpath with logs := s1.rpath.logs.set i (logAt s1 i ++ [r]) } s1

/-- A writer grant with an empty writer queue: the head of the log write queue is judged once more and joins its log, or is
discarded (R143). -/
def writeLogEntry (s : State) : State :=
  match s.rpath.logQueue with
  | [] => s
  | (i, r) :: rest =>
    let s1 := setPath { s.rpath with logQueue := rest } s
    if (segAt s i).logs r then joinLog i r s1 else s1

/-! ## The frame stream -/

/-- A frame record for the stream: it enters, or is dropped with its lane's count and event (R148). -/
def streamFrame (r : FrameRecord) (s : State) : State :=
  if s.rpath.stream.length < Config.streamMax then
    setPath { s.rpath with
      stream := s.rpath.stream ++ [{ r with droppedBefore := s.rpath.dropped[r.lane] }]
      dropped := s.rpath.dropped.set r.lane 0 } s
  else
    raise blkDecode (evFramesDropped r.lane)
      (setPath { s.rpath with dropped := s.rpath.dropped.set r.lane (min (s.rpath.dropped[r.lane] + 1) 255) } s)

/-- The record path takes a completed frame: comparators, log and stream (R140). `seg` is the segment the frame is
associated with, where it is to be logged (R141, R142). -/
def takeFrame (seg : Option Nat) (e : Ended) (s : State) : State :=
  let s1 := setTrigger (s.trigger.offer e.record e.address) s
  let s2 :=
    match seg with
    | none => s1
    | some i => placeInLog i e.record s1
  if s2.rpath.mask.getLsbD e.record.lane then streamFrame e.record s2 else s2

/-! ## Frame readout (R150 to R152) -/

/-- An entry matches a readout's lane mask and from tick (R150). -/
def entryMatches (mask : BitVec 6) (fromTick : Nat) (r : FrameRecord) : Bool :=
  mask.getLsbD r.lane && decide (fromTick ≤ r.start)

/-- The packet being assembled is filled: the log's next entry matches and does not fit beside the records held (R151;
log 26). -/
def FrameReadout.filled (r : FrameReadout) (log : List FrameRecord) : Bool :=
  match log[r.pos]? with
  | none => false
  | some e =>
    entryMatches r.mask r.fromTick e
      && decide ((fitFrames Config.framesRoom (r.held ++ [e])).length ≤ r.held.length)

/-- The readout has a packet to offer: a filled one, or its final one (R151). -/
def FrameReadout.packetReady (r : FrameReadout) (log : List FrameRecord) : Bool :=
  !r.finalSent && (r.ended || r.filled log)

/-- The readout has a read waiting (R58, R151; log 26). -/
def FrameReadout.readWaiting (r : FrameReadout) (log : List FrameRecord) : Bool := !r.ended && !r.filled log

/-- One entry read from the log (R151). -/
def FrameReadout.read (r : FrameReadout) (log : List FrameRecord) : FrameReadout :=
  match log[r.pos]? with
  | none => { r with ended := true }
  | some e =>
    let next := { r with pos := r.pos + 1, ended := decide (log.length ≤ r.pos + 1) }
    if entryMatches r.mask r.fromTick e then
      { next with
        held := r.held ++ [e]
        remaining := r.remaining.map (· - 1)
        ended := next.ended || decide (r.remaining = some 1) }
    else next

/-- A readout grant that serves the frame readout. -/
def readFrameEntry (s : State) : State :=
  match s.rpath.readout with
  | none => s
  | some r => setPath { s.rpath with readout := some (r.read (logAt s r.seg)) } s

/-- The number of entries of a log that match (R150). -/
def matchCount (mask : BitVec 6) (fromTick : Nat) (log : List FrameRecord) : Nat :=
  (log.filter (entryMatches mask fromTick)).length

end Sys2Proof.Machine
end

