-- ==== Sys2Proof/Machine/LaneOps.lean ====
section
/-! DEFINITION. Chapter 6, the lanes in the part: frames completed and lanes stopped, live ticks, gaps, the start and stop of
sampling, and replay (R112, R117 to R119, R132 to R134). -/

namespace Sys2Proof.Machine

/-- Change the lane `l` and take what it hands over: the frame to the record path, SYNC_LOST, and the event of an entry to
OFF by the lane's source (R112, R132). `seg`: the segment a frame is to be logged in. -/
def applyLane (l : LaneId) (seg : Option Nat) (out : LaneOut) (s : State) : State :=
  let s1 := setLane l out.lane s
  let s2 :=
    match out.frame with
    | none => s1
    | some e => takeFrame seg e s1
  let s3 := raiseIf out.sync blkDecode (evSyncLost l) s2
  raiseIf out.off blkDecode (if out.lane.isReplay then evReplayDone l else evLaneStopped l) s3

/-- The table of a lane's slot (R94). -/
def tableOf (l : LaneId) (s : State) : Option FrameTable := (s.tables.slots[l]).table

/-- The segment in which a lane's frames are to be logged: for a REPLAY lane its own when the replay is stored, for a LIVE
lane the current one (R141, R142). -/
def logTarget (l : LaneId) (s : State) : Option Nat :=
  match (s.lanes[l]).replay with
  | some r => if r.store then some r.seg else none
  | none => currentSeg s

/-- A lane that takes live ticks: not OFF, source LIVE (R112). -/
def Lane.live (ln : Lane) : Bool := decide (ln.state ≠ .off) && !ln.isReplay

/-- A lane that replays: not OFF, source REPLAY (R112). -/
def Lane.replays (ln : Lane) : Bool := decide (ln.state ≠ .off) && ln.isReplay

/-- Do something for lanes 0 to 5 in turn (log 33). -/
def forLanes (f : LaneId → State → State) (s : State) : State :=
  f 5 (f 4 (f 3 (f 2 (f 1 (f 0 s)))))

/-! ## Live lanes -/

/-- The gap of a live lane's open frame, where it has run out (R123, R125, R127; log 4). -/
def settleGap (l : LaneId) (s : State) : State :=
  match tableOf l s with
  | none => s
  | some t =>
    let ln := s.lanes[l]
    if ln.live && gapDue t ln then applyLane l (logTarget l s) (endByGap t l ln) s else s

/-- The gaps of all live lanes. -/
def settleGaps (s : State) : State := forLanes settleGap s

/-- A live lane takes a stamped sample (R119). -/
def liveLaneTick (tick : Nat) (levels : BitVec 32) (l : LaneId) (s : State) : State :=
  match tableOf l s with
  | none => s
  | some t =>
    let ln := s.lanes[l]
    if ln.live then applyLane l (logTarget l s) (laneTick t l tick levels ln) s else s

/-- All live lanes take a stamped sample (R119). -/
def liveTick (tick : Nat) (levels : BitVec 32) (s : State) : State := forLanes (liveLaneTick tick levels) s

/-- A live lane in HUNT at a start of sampling: no previous levels; the flag is kept (R119). -/
def Lane.sampleStart (ln : Lane) : Lane :=
  if ln.live && decide (ln.state = .hunt) then { ln with prev := none, front := FrontState.empty } else ln

/-- The lanes at a start of sampling (R119). -/
def lanesStart (s : State) : State :=
  forLanes (fun l s => setLane l (s.lanes[l]).sampleStart s) s

/-- A live lane at a stop of sampling: an open frame is closed as abandoned (R134). `seg` is the segment that was current at
the last tick (R141). -/
def laneSampleStop (seg : Option Nat) (l : LaneId) (s : State) : State :=
  match tableOf l s with
  | none => s
  | some t =>
    let ln := s.lanes[l]
    if ln.live && ln.frame.isSome then applyLane l seg (endFrame t l ln.lastTick true false false ln) s else s

/-- The live lanes at a stop of sampling (R134). -/
def lanesStop (seg : Option Nat) (s : State) : State := forLanes (laneSampleStop seg) s

/-! ## Replay -/

/-- The index a replay begins to read from: the first record of the from tick, or, with none at that tick, the latest before
it (R117, R118; log 28). -/
def replayStart (s : State) (seg fromTick : Nat) : Nat :=
  let at_ := indexAtOrAfter s seg fromTick
  if at_ < (segAt s seg).retained ∧ (recordAt s seg at_).time = fromTick then at_ else at_ - 1

/-- The lane's frame closed as abandoned by an OVERRUN record's tick (R118). -/
def replayOverrun (t : FrameTable) (l : LaneId) (tick : Nat) (s : State) : State :=
  applyLane l (logTarget l s) (endFrame t l tick true false true s.lanes[l]) s

/-- The gap of a replaying lane at the tick just taken. -/
def replayGap (t : FrameTable) (l : LaneId) (s : State) : State :=
  let ln := s.lanes[l]
  if ln.replays && gapDue t ln then applyLane l (logTarget l s) (endByGap t l ln) s else s

/-- A replaying lane moves on to the next tick of its range. -/
def Lane.nextReplayTick (ln : Lane) : Lane :=
  { ln with replay := ln.replay.map fun r => { r with nextTick := r.nextTick + 1, overrunAt := none } }

/-- A replaying lane takes its next tick: an OVERRUN record's effect first, then the levels, then the gap (R117, R118). -/
def replayTick (t : FrameTable) (l : LaneId) (s : State) : State :=
  match (s.lanes[l]).replay with
  | none => s
  | some r =>
    let s1 := if r.overrunAt = some r.nextTick then replayOverrun t l r.nextTick s else s
    if (s1.lanes[l]).replays then
      let s2 := applyLane l (logTarget l s1) (laneTick t l r.nextTick r.levels s1.lanes[l]) s1
      let s3 := replayGap t l s2
      if (s3.lanes[l]).replays then setLane l (s3.lanes[l]).nextReplayTick s3 else s3
    else s1

/-- A replaying lane takes up to `n` ticks, as long as it is not OFF. -/
def replayTicks (t : FrameTable) (l : LaneId) (n : Nat) (s : State) : State :=
  match n with
  | 0 => s
  | m + 1 => if (s.lanes[l]).replays then replayTicks t l m (replayTick t l s) else s

/-- The end of a replay: a frame still open is closed as abandoned, and the lane enters OFF (R118). -/
def replayEnd (t : FrameTable) (l : LaneId) (tick : Nat) (s : State) : State :=
  let ln := s.lanes[l]
  if ln.replays then applyLane l (logTarget l s) (endFrame t l tick true true false ln) s else s

/-- The lane's context once a record has been read (R117, R118). -/
def Replay.take (r : Replay) (record : Record) : Replay :=
  { r with
    nextIndex := r.nextIndex + 1
    levels := record.levels
    overrunAt := if record.kind = .overrun then some record.time else r.overrunAt }

/-- A grant to a replaying lane reads one record: the ticks before its time are taken with the levels that stood, and the
last record, or one after the to tick, lets the replay end (R117, R118). -/
def replayRead (l : LaneId) (s : State) : State :=
  match tableOf l s, (s.lanes[l]).replay with
  | some t, some r =>
    let record := recordAt s r.seg r.nextIndex
    let d := segAt s r.seg
    if r.toTick < record.time then
      replayEnd t l r.toTick (replayTicks t l (r.toTick + 1 - r.nextTick) s)
    else
      let s1 := replayTicks t l (record.time - r.nextTick) s
      let ln := s1.lanes[l]
      if ln.replays then
        let s2 := setLane l { ln with replay := ln.replay.map fun q => q.take record } s1
        if d.retained ≤ r.nextIndex + 1 then
          replayEnd t l r.toTick (replayTicks t l (r.toTick + 1 - max r.nextTick record.time) s2)
        else s2
      else s1
  | _, _ => s

end Sys2Proof.Machine
end

