-- ==== Sys2Proof/Machine/LevelStream.lean ====
section
/-! DEFINITION. The making of one level-stream sample: the pods' entries of a grid tick, deskew and glitch qualification
(R9, R13 to R15, R17). -/

namespace Sys2Proof.Machine

/-- A list of bits, bit 0 first, as a word. -/
def ofBits (bits : List Bool) : BitVec 32 := BitVec.ofNat 32 (bits.foldr (fun b n => 2 * n + b.toNat) 0)

/-- The pod's entry of the tick: the next tick its frames cover, or held levels with bit 0 (R9). -/
def PodLink.entry (k : PodLink) : PodEntry := k.due.head?.getD ⟨k.held, false⟩

/-- The link once the tick is delivered. -/
def PodLink.deliver (k : PodLink) : PodLink := { k with due := k.due.tail }

/-- The four pods' entries joined, with the TRIG_IN level of the tick (R9, R17, R70). -/
def joinEntries (links : Vector PodLink 4) (trigIn : Bool) : GridTick where
  levels := links[3].entry.levels ++ links[2].entry.levels ++ links[1].entry.levels ++ links[0].entry.levels
  valid := BitVec.ofNat 4 (links[0].entry.valid.toNat + 2 * links[1].entry.valid.toNat
    + 4 * links[2].entry.valid.toNat + 8 * links[3].entry.valid.toNat)
  trig := trigIn

/-- The delay lines after one more grid tick, newest first. -/
def pushTick (window : List GridTick) (g : GridTick) : List GridTick := (g :: window).take 22

/-- The grid tick `ahead` ticks after the one delivered, or before it with a greater `back`. -/
def windowAt (window : List GridTick) (ahead back : Nat) : GridTick :=
  window.getD (Config.lookahead - ahead + back) GridTick.zero

/-- The deskewed level of channel `k`, `ahead` ticks after the tick delivered (R13). -/
def deskewed (p : Pods) (k ahead : Nat) : Bool :=
  (windowAt p.window ahead (p.deskew.getD k 0)).levels.getLsbD k

/-- The glitch width of the pod that carries channel `k`. -/
def widthOf (p : Pods) (k : Nat) : Nat := (p.links[k / 8 % 4]'(Nat.mod_lt _ (by decide))).glitchWidth

/-- What qualification gives for one channel at one tick. -/
structure Qualified where
  level : Bool
  skip : Nat
  glitch : Bool
  deriving DecidableEq, Repr

/-- Glitch qualification of one channel: `look j` is the deskewed level `j` ticks ahead, `out` the output level, `skip` the
ticks left of a suppressed pulse, `w` the glitch width (R14). -/
def qualify (look : Nat → Bool) (w : Nat) (out : Bool) (skip : Nat) : Qualified :=
  if 0 < skip then ⟨out, skip - 1, false⟩
  else if look 0 = out then ⟨out, 0, false⟩
  else
    match (List.range w).find? fun j => decide (1 ≤ j) && look j == out with
    | some j => ⟨out, j - 1, true⟩
    | none => ⟨look 0, 0, false⟩

/-- The output level of channel `k` before the tick: after a reset, its deskewed level (R19). -/
def outputBefore (p : Pods) (k : Nat) : Bool :=
  match p.output with
  | none => deskewed p k 0
  | some o => o.getLsbD k

/-- Qualification of all 32 channels at one tick (R14). -/
def qualifyAll (p : Pods) : List Qualified :=
  (List.range 32).map fun k => qualify (deskewed p k) (widthOf p k) (outputBefore p k) (p.skip.getD k 0)

/-- The pod interface after one grid tick has been delivered into the delay lines (R9, R13). -/
def deliverTick (trigIn : Bool) (p : Pods) : Pods :=
  { p with
    links := #v[p.links[0].deliver, p.links[1].deliver, p.links[2].deliver, p.links[3].deliver]
    window := pushTick p.window (joinEntries p.links trigIn) }

/-- The level-stream sample of the tick delivered, in the mode in force (R17). -/
def streamSample (m : Mode) (p : Pods) : Sample :=
  let g := windowAt p.window 0 0
  match m with
  | .timing =>
    let q := qualifyAll p
    ⟨ofBits (q.map (·.level)), ofBits (q.map (·.glitch)), g.valid, g.trig, g.levels⟩
  | .state => ⟨g.levels, 0, g.valid, g.trig, g.levels⟩

/-- The qualification state after the tick; state mode leaves it and the accumulator as they are (R15, R17). -/
def qualifiedPods (m : Mode) (p : Pods) : Pods :=
  match m with
  | .timing =>
    let q := qualifyAll p
    { p with
      output := some (ofBits (q.map (·.level)))
      skip := q.map (·.skip)
      accumulator := p.accumulator ||| ofBits (q.map (·.glitch)) }
  | .state => p

end Sys2Proof.Machine
end

