-- ==== Sys2Proof/Machine/ViewOps.lean ====
section
/-! DEFINITION. Chapter 8: columns, cells, view requests, passes and measurements (R156 to R177). -/

namespace Sys2Proof.Machine

/-- Change the view engine. -/
def setView (v : View) (s : State) : State := { s with view := v }

/-! ## Columns (R156, R157, R161) -/

/-- A T0 formed exactly, then clamped (R156). -/
def clampT0 (x : Int) : Nat := min x.toNat Config.lastTick

/-- A Q formed exactly, then clamped (R156). -/
def clampQ (x : Nat) : Nat := clamp 1 Config.maxQ x

/-- a_c, the start of column `c`; b_c is the start of the next (R157). -/
def columnStart (t0 q c : Nat) : Nat := t0 + c * q / 256

/-- The column of a capture time; none when off-screen (R161). -/
def columnOf (t0 q t : Nat) : Option Nat :=
  let c := (256 * (t - t0 + 1) - 1) / q
  if t < t0 ∨ Config.columns ≤ c then none else some c

/-- A snapshot's start of column `c`. -/
def Snapshot.start (n : Snapshot) (c : Nat) : Nat := columnStart n.t0 n.q c

/-! ## Cells (R158 to R160) -/

/-- A column that starts at `a` shows no data of the segment (R158). -/
def Segment.noData (d : Segment) (a : Nat) : Bool :=
  match d.oldest, d.viewLimit with
  | some oldest, some limit => decide (Config.lastTick < a) || decide (a < oldest) || decide (limit ≤ a)
  | _, _ => true

/-- L0: the level of channel `k` in the latest of the records before `a`, or in the oldest (R159). -/
def levelBefore (rs : List Record) (a k : Nat) : Bool :=
  match (rs.takeWhile fun r => r.time < a).getLast? with
  | some r => r.levels.getLsbD k
  | none =>
    match rs with
    | [] => false
    | r :: _ => r.levels.getLsbD k

/-- Records in [a, b) whose level of `k` differs from that of the record just before (R159). `prev` is the record before the
list. -/
def changesAfter (a b k : Nat) (prev : Record) (rs : List Record) : Nat :=
  match rs with
  | [] => 0
  | r :: rest =>
    (if a ≤ r.time ∧ r.time < b ∧ r.levels.getLsbD k ≠ prev.levels.getLsbD k then 1 else 0)
      + changesAfter a b k r rest

/-- n of R159; the oldest retained record has none before it and is no change. -/
def changeCount (rs : List Record) (a b k : Nat) : Nat :=
  match rs with
  | [] => 0
  | r :: rest => changesAfter a b k r rest

/-- A START, CHANGE or POD record in [a, b) has the glitch bit of `k` (R159). -/
def glitchIn (rs : List Record) (a b k : Nat) : Bool :=
  rs.any fun r =>
    decide (a ≤ r.time) && decide (r.time < b) && r.extra.getLsbD k
      && (decide (r.kind = .start) || decide (r.kind = .change) || decide (r.kind = .pod))

/-- The class of a trace cell from L0 and n (R159). -/
def traceClass (level : Bool) (n : Nat) : TraceClass :=
  match n with
  | 0 => if level then .high else .low
  | 1 => if level then .fall else .rise
  | _ => .busy

/-- A trace cell that is not NODATA (R159). -/
def traceCell (rs : List Record) (a b k : Nat) : Cell :=
  let l0 := levelBefore rs a k
  let n := changeCount rs a b k
  .trace (traceClass l0 n) (if n % 2 = 0 then l0 else !l0) (min n 255) (glitchIn rs a b k)

/-- The entries of lane `l` that a column shows (R160). -/
def entriesIn (log : List FrameRecord) (a b l : Nat) : List FrameRecord :=
  if a = b then [] else log.filter fun e => decide (e.lane.val = l) && decide (e.start ≤ b - 1) && decide (a ≤ e.endTick)

/-- A decode cell that is not NODATA (R160). DESIGN CHOICE (log 44): a cell of class ERROR has its ERROR flag clear, which R160
sets in MULTI cells. -/
def decodeCell (log : List FrameRecord) (a b l : Nat) : Cell :=
  let start := log.any fun e => decide (e.lane.val = l) && decide (a ≤ e.start) && decide (e.start < b)
  match entriesIn log a b l with
  | [] => .decode .none false start
  | [e] => .decode (if e.code = .good then .good else .error) false start
  | es => .decode .multi (es.any fun e => decide (e.code ≠ .good)) start

/-- The NODATA cell of a row (R158). -/
def noDataCell (k : RowKind) : Cell :=
  match k with
  | .channel _ => .trace .noData false 0 false
  | .lane _ => .decode .noData false false
  | .blank => .blank

/-- The cell of a row in a column [a, b) (R158 to R160). -/
def rowCell (d : Segment) (rs : List Record) (log : List FrameRecord) (a b : Nat) (k : RowKind) : Cell :=
  match k with
  | .channel c => if d.mask.getLsbD c then traceCell rs a b c else noDataCell (.channel c)
  | .lane l => decodeCell log a b l
  | .blank => .blank

/-! ## Passes (R168 to R173) -/

/-- A snapshot of the viewport and both cursors (R168). -/
def View.snapshot (v : View) : Snapshot := ⟨v.seg, v.t0, v.q, v.roll, v.cursorA, v.cursorB⟩

/-- A measurement is running. -/
def View.measuring (v : View) : Bool :=
  match v.meas with
  | .running _ => true
  | .none => false
  | .waiting _ _ => false

/-- The pass begins its column: the tests of R158 are made (R171). -/
def beginColumn (p : Pass) (s : State) : State :=
  let noData := (segAt s p.snap.seg).noData (p.snap.start p.col)
  setView { s.view with pass := some { p with noData := noData, logRead := 0 } } s

/-- A pass starts with a snapshot (R169). -/
def beginPass (n : Snapshot) (s : State) : State :=
  let p : Pass := ⟨n, s.panel.rowMap, (segAt s n.seg).trigger.map (·.time), 0, false, .idle, 0⟩
  beginColumn p
    (setView { s.view with pending := none, ready := false, back := { s.view.back with cols := [] } } s)

/-- A pending request starts its pass when no pass is in flight and no measurement is running (R168, R169). -/
def startPass (s : State) : State :=
  match s.view.pending with
  | none => s
  | some n => if s.view.pass.isSome || s.view.measuring then s else beginPass n s

/-- A view request (R168). -/
def viewRequest (s : State) : State :=
  if (segAt s s.view.seg).state = .empty then s
  else startPass (setView { s.view with pending := some s.view.snapshot } s)

/-- The swap (R173). -/
def View.swap (v : View) : View := { v with front := v.back, back := v.front, ready := false }

/-- The swap where the back buffer is ready. -/
def View.swapReady (v : View) : View := if v.ready then v.swap else v

/-- The next pass number: 2^32 - 1 wraps to 1 (R172). -/
def nextPassNo (n : Word) : Word := if n = 0xFFFFFFFF then 1 else n + 1

/-- The pass finishes: numbered, the back buffer complete and ready, and swapped at once while the panel is OFF (R172,
R173). -/
def finishPass (p : Pass) (s : State) : State :=
  let n := nextPassNo s.view.passCount
  let col := fun (t : Option Nat) => t.bind (columnOf p.snap.t0 p.snap.q)
  let back : FrameBuffer :=
    ⟨n, some p.snap, p.rows, s.view.back.cols, col p.snap.cursorA, col p.snap.cursorB, col p.trigTime⟩
  let v := { s.view with pass := none, back := back, ready := true, passCount := n }
  startPass (raise blkView evPassDone (setView (if s.panel.running then v else v.swapReady) s))

/-- A column has been computed for every row: a pending request restarts the pass; else it goes on or finishes (R169,
R172; log 27). -/
def columnBoundary (p : Pass) (s : State) : State :=
  match s.view.pending with
  | some n => beginPass n s
  | none =>
    if Config.columns ≤ p.col + 1 then finishPass p s else beginColumn { p with col := p.col + 1 } s

/-- The cells of the pass's column, from the ring and the log as they stand at its end (R171). -/
def columnCells (p : Pass) (s : State) : List Cell :=
  let d := segAt s p.snap.seg
  let a := p.snap.start p.col
  if p.noData || decide (a < d.oldest.getD (a + 1)) then p.rows.map fun r => noDataCell r.kind
  else
    let rs := retainedRecords s p.snap.seg
    p.rows.map fun r => rowCell d rs (logAt s p.snap.seg) a (p.snap.start (p.col + 1)) r.kind

/-- The pass's column ends: its cells go into the back buffer (R169, R171). -/
def finishColumn (p : Pass) (s : State) : State :=
  columnBoundary p
    (setView { s.view with back := { s.view.back with cols := s.view.back.cols ++ [columnCells p s] } } s)

/-! ## What a column still has to read (R170; log 27) -/

/-- The log entries of the row map's lanes inside the column. -/
def Pass.columnEntries (p : Pass) (log : List FrameRecord) : Nat :=
  let a := p.snap.start p.col
  let b := p.snap.start (p.col + 1)
  (log.filter fun e =>
    p.rows.any (fun r => decide (r.kind = .lane e.lane.val)) && decide (a < b) && decide (e.start ≤ b - 1)
      && decide (a ≤ e.endTick)).length

/-- The column needs another record, whatever the rows of the pass (R170). -/
def Pass.needsRecord (p : Pass) (d : Segment) : Bool :=
  match p.reader with
  | .idle => true
  | .bisect _ _ => true
  | .reading next last =>
    decide (next < d.written) &&
      (match last with
        | none => true
        | some t => decide (t < p.snap.start (p.col + 1)))

/-- The column needs another access of the memory port. -/
def Pass.needsAccess (p : Pass) (s : State) : Bool :=
  !p.noData && (p.needsRecord (segAt s p.snap.seg) || decide (p.logRead < p.columnEntries (logAt s p.snap.seg)))

/-- A bisection between two record numbers: over when they are neighbours. -/
def bisectOr (lo hi : Nat) : PassReader := if hi ≤ lo + 1 then .reading lo none else .bisect lo hi

/-- The reader of a pass before its access: a bisection over the retained records begins at the first column that is not
NODATA, and records overwritten meanwhile are passed over (R170). -/
def Pass.readerNow (p : Pass) (d : Segment) : PassReader :=
  match p.reader with
  | .idle => bisectOr d.base d.written
  | .bisect lo hi => bisectOr (max lo d.base) (max hi (d.base + 1))
  | .reading next last => .reading (max next d.base) last

/-- One record read by a pass (R170). -/
def passReadRecord (p : Pass) (s : State) : Pass :=
  let d := segAt s p.snap.seg
  match p.readerNow d with
  | .bisect lo hi =>
    let mid := (lo + hi) / 2
    if (recordNumber s p.snap.seg mid).time < p.snap.start p.col then { p with reader := bisectOr mid hi }
    else { p with reader := bisectOr lo mid }
  | .reading next _ => { p with reader := .reading (next + 1) (some (recordNumber s p.snap.seg next).time) }
  | .idle => p

/-- One access of a pass: a record of the ring, or else a log entry of the column; the column ends when it needs no more
(R170). -/
def passAccess (p : Pass) (s : State) : State :=
  let p1 := if p.needsRecord (segAt s p.snap.seg) then passReadRecord p s else { p with logRead := p.logRead + 1 }
  let s1 := setView { s.view with pass := some p1 } s
  if p1.needsAccess s1 then s1 else finishColumn p1 s1

/-! ## Measurements (R176, R177) -/

/-- A result with nothing counted. -/
def MeasureResult.zero : MeasureResult := ⟨0, 0, 0, 0, none, none, false⟩

/-- Ticks at a level added. -/
def MeasureResult.addTicks (r : MeasureResult) (level : Bool) (n : Nat) : MeasureResult :=
  if level then { r with high := r.high + n } else { r with low := r.low + n }

/-- A complete pulse of a length taken into the shortest and the longest. -/
def takePulse (p : Option (Nat × Nat)) (n : Nat) : Option (Nat × Nat) :=
  match p with
  | none => some (n, n)
  | some (lo, hi) => some (min lo n, max hi n)

/-- A rise at `t` (R176). -/
def MeasureRun.rise (m : MeasureRun) (t : Nat) : MeasureRun :=
  let r := { m.result with rises := m.result.rises + 1 }
  match m.lastFall with
  | none => { m with level := some true, lastRise := some t, result := r }
  | some f =>
    { m with level := some true, lastRise := some t, lastFall := none
             result := { r with lowPulse := takePulse r.lowPulse (t - f) } }

/-- A fall at `t` (R176). -/
def MeasureRun.fall (m : MeasureRun) (t : Nat) : MeasureRun :=
  let r := { m.result with falls := m.result.falls + 1 }
  match m.lastRise with
  | none => { m with level := some false, lastFall := some t, result := r }
  | some e =>
    { m with level := some false, lastFall := some t, lastRise := none
             result := { r with highPulse := takePulse r.highPulse (t - e) } }

/-- Ticks up to `t` counted at the level that stands. -/
def MeasureRun.countTo (m : MeasureRun) (t : Nat) : MeasureRun :=
  match m.level with
  | none => m
  | some v => { m with upTo := max m.upTo t, result := m.result.addTicks v (t - m.upTo) }

/-- One record taken by a measurement (R176). -/
def MeasureRun.take (m : MeasureRun) (r : Record) : MeasureRun :=
  let v := r.levels.getLsbD m.chan
  let m1 := { m.countTo r.time with next := m.next + 1 }
  match m.level with
  | none => { m1 with level := some v }
  | some was => if was = v then m1 else if v then m1.rise r.time else m1.fall r.time

/-- A measurement finishes with a result, and a pending view request starts its pass (R177). -/
def finishMeasure (m : MeasureRun) (r : MeasureResult) (s : State) : State :=
  startPass (raise blkView evMeasureDone (setView { s.view with meas := .waiting m.tag r } s))

/-- The running measurement is overtaken (R177). -/
def overtakeMeasure (m : MeasureRun) (s : State) : State :=
  finishMeasure m { m.result with overtaken := true } s

/-- The measurement has read the last record before its to time: the next one is written and not before it (R177). -/
def MeasureRun.done (m : MeasureRun) (s : State) : Bool :=
  decide (m.next < (segAt s m.seg).written) && decide (m.toTime ≤ (recordNumber s m.seg m.next).time)

/-- The measurement finishes when it is done (R177). -/
def settleMeasure (m : MeasureRun) (s : State) : State :=
  if m.done s then finishMeasure m (m.countTo m.toTime).result s else s

/-- The running measurement has a record to read. -/
def MeasureRun.needsAccess (m : MeasureRun) (s : State) : Bool := decide (m.next < (segAt s m.seg).written)

/-- One access of a measurement (R176, R177). -/
def measureAccess (m : MeasureRun) (s : State) : State :=
  let m1 := m.take (recordNumber s m.seg m.next)
  settleMeasure m1 (setView { s.view with meas := .running m1 } s)

/-- The measurement after a write into segment `i`'s ring: overtaken by an overwrite of a record not yet read, or done
(R177). -/
def measureAfterWrite (i : Nat) (s : State) : State :=
  match s.view.meas with
  | .running m =>
    if m.seg ≠ i then s
    else if m.next < (segAt s i).base then overtakeMeasure m s
    else settleMeasure m s
  | .none => s
  | .waiting _ _ => s

/-! ## The view engine's requester (R58, R170, R176) -/

/-- The view engine has an access to make. -/
def viewWaits (s : State) : Bool :=
  match s.view.pass, s.view.meas with
  | some p, _ => p.needsAccess s
  | none, .running m => m.needsAccess s
  | none, .none => false
  | none, .waiting _ _ => false

/-- A grant to the view engine. -/
def viewAccess (s : State) : State :=
  match s.view.pass, s.view.meas with
  | some p, _ => if p.needsAccess s then passAccess p s else s
  | none, .running m => if m.needsAccess s then measureAccess m s else s
  | none, .none => s
  | none, .waiting _ _ => s

/-! ## Roll and RUN (R166, R174) -/

/-- A roll-refresh event (R166). -/
def rollUpdate (s : State) : State :=
  match s.view.roll, (segAt s s.view.seg).viewLimit with
  | true, some limit =>
    viewRequest (setView { s.view with t0 := clampT0 ((limit : Int) - (Config.columns * s.view.q / 256 : Nat)) } s)
  | _, _ => s

/-- A running measurement ends with OVERTAKEN (R177). -/
def endMeasure (s : State) : State :=
  match s.view.meas with
  | .running m => overtakeMeasure m s
  | .none => s
  | .waiting _ _ => s

/-- What the view engine does at RUN, once the new layout is in force (R174). -/
def viewAtRun (s : State) : State :=
  let s1 := endMeasure (setView { s.view with pass := none, ready := false, pending := none } s)
  let seg := if s1.view.seg < s1.capture.layout then s1.view.seg else 0
  viewRequest (setView { s1.view with seg := seg } s1)

end Sys2Proof.Machine
end

