-- ==== Sys2Proof/Machine/CaptureOps.lean ====
section
/-! DEFINITION. Chapter 3: records and their production, the writer queue, the ring, the start and stop of sampling, and the
closing of segments (R22 to R28, R38 to R57). -/

namespace Sys2Proof.Machine

/-- Change the capture store. -/
def setCapture (c : Capture) (s : State) : State := { s with capture := c }

/-! ## Production (R40 to R47) -/

/-- A record enters the writer queue and is counted as produced (R45). -/
def enqueue (i : Nat) (r : Record) (post : Bool) (s : State) : State :=
  modSeg i (fun d => { d with produced := d.produced + 1 })
    (setCapture { s.capture with queue := s.capture.queue ++ [⟨i, r, post⟩] } s)

/-- The OVERRUN record placed before the record `r` (R46). -/
def overrunRecord (o : Overrun) (r : Record) : Record :=
  ⟨.overrun, r.pods, o.first, r.levels, BitVec.ofNat 32 (min o.lost 65535)⟩

/-- The pending overrun's record enters ahead of `r`, and the overrun closes (R46). -/
def placeOverrun (i : Nat) (o : Overrun) (r : Record) (post : Bool) (s : State) : State :=
  modSeg i (fun d => { d with overrun := none }) (enqueue i (overrunRecord o r) post s)

/-- A CHANGE or POD record is lost (R45). -/
def loseRecord (i : Nat) (r : Record) (s : State) : State :=
  raise blkCapture evOverrun
    (modSeg i (fun d =>
      { d with
        produced := d.produced + 1
        lost := d.lost + 1
        flags := { d.flags with overrun := true }
        overrun :=
          match d.overrun with
          | none => some ⟨r.time, 1⟩
          | some o => some ⟨o.first, o.lost + 1⟩ }) s)

/-- The segment's reference is taken from a record produced (R40). -/
def takeReference (i : Nat) (r : Record) (s : State) : State :=
  modSeg i (fun d => { d with refLevels := r.levels, refPods := r.pods }) s

/-- A CHANGE or POD record is produced (R45, R46). -/
def produce (i : Nat) (r : Record) (post : Bool) (s : State) : State :=
  let s1 := takeReference i r s
  let waiting := s.capture.queue.length
  match (segAt s i).overrun with
  | none => if waiting < Config.writerQueueMax then enqueue i r post s1 else loseRecord i r s1
  | some o =>
    if waiting + 2 ≤ Config.writerQueueMax then enqueue i r post (placeOverrun i o r post s1) else loseRecord i r s1

/-- A segment starts filling (R39). -/
def beginSegment (i startTime : Nat) (s : State) : State :=
  setCapture { (modSeg i (fun d =>
      { Segment.empty s.capture.layout with
        size := d.size, state := .filling, startTime := startTime, wallStart := s.time.seconds
        mask := s.capture.inForce.mask, mode := s.time.modeInForce, divider := s.time.divider }) s).capture with
    needStart := true } s

/-- The START record, from the first sample of a segment (R40, R47). -/
def produceStart (i tick : Nat) (sm : Sample) (s : State) : State :=
  let d := segAt s i
  let r : Record := ⟨.start, sm.valid, tick, sm.levels &&& d.mask, sm.glitch &&& d.mask⟩
  takeReference i r (enqueue i r false (setCapture { s.capture with needStart := false } s))

/-- A record of the kinds CHANGE and POD from a sample. -/
def sampleRecord (k : RecordKind) (d : Segment) (tick : Nat) (sm : Sample) : Record :=
  ⟨k, sm.valid, tick, sm.levels &&& d.mask, sm.glitch &&& d.mask⟩

/-- The POD record of a sample whose mask differs from the reference's; POD_FAULT where a bit falls (R43). -/
def producePod (i tick : Nat) (sm : Sample) (post : Bool) (s : State) : State :=
  let d := segAt s i
  let fell := d.refPods &&& ~~~sm.valid != 0
  produce i (sampleRecord .pod d tick sm) post
    (modSeg i (fun d => { d with flags := { d.flags with podFault := d.flags.podFault || fell } }) s)

/-- A CHANGE record of a sample. -/
def produceChange (i tick : Nat) (sm : Sample) (post : Bool) (s : State) : State :=
  produce i (sampleRecord .change (segAt s i) tick sm) post s

/-- A sample after the START record (R41 to R43). -/
def produceSample (i tick : Nat) (sm : Sample) (evaluated : Bool) (s : State) : State :=
  let d := segAt s i
  let post := decide (d.state = .postFill)
  let podChanged := decide (sm.valid ≠ d.refPods)
  match d.mode with
  | .timing =>
    if podChanged then producePod i tick sm post s
    else if sm.levels &&& d.mask ≠ d.refLevels ∨ sm.glitch &&& d.mask ≠ 0 then produceChange i tick sm post s
    else s
  | .state =>
    let s1 := if podChanged then producePod i tick sm post s else s
    if evaluated then produceChange i tick sm post s1 else s1

/-- The capture store judges a stamped sample (section 3.3). -/
def captureSample (tick : Nat) (sm : Sample) (evaluated : Bool) (s : State) : State :=
  match currentSeg s with
  | none => s
  | some i =>
    if s.capture.needStart then
      let s1 := produceStart i tick sm s
      if evaluated && decide ((segAt s i).mode = .state) then produceChange i tick sm false s1 else s1
    else produceSample i tick sm evaluated s

/-! ## Closing (R44, R54, R56, R57) -/

/-- The last tick of the sampling: the latest stamp, or a free value when no sample was stamped (R24, R44; log 13). -/
def lastTickNow (s : State) : Nat :=
  if s.time.fresh then Config.endTimeNoSample else s.time.tick.getD Config.endTimeNoSample

/-- The END record of a segment (R44). -/
def endRecord (i : Nat) (s : State) : Record :=
  ⟨.close, s.time.last.valid, lastTickNow s, s.time.last.levels &&& (segAt s i).mask, 0⟩

/-- A segment enters CLOSING: a pending overrun's record, then its END record, whatever the queue holds (R44, R47). A segment
that closes before its first sample, as STOP or the time limit may close one that auto-continue has just started, gets no
START record, and its END record carries the last tick, which is below its start time (DESIGN CHOICE: log 13). -/
def closeSegment (i : Nat) (stopped : Bool) (s : State) : State :=
  let r := endRecord i s
  let s1 :=
    match (segAt s i).overrun with
    | none => s
    | some o => placeOverrun i o r (decide ((segAt s i).state = .postFill)) s
  modSeg i (fun d => { d with state := .closing, closeStopped := stopped, endTime := some r.time })
    (enqueue i r false (setCapture { s1.capture with needStart := false } s1))

/-! ## The start and stop of sampling (R22, R24) -/

/-- Sampling starts: the mode stored comes into force, the sequencer takes the previous sample, and the live lanes in HUNT
begin anew (R21, R22, R68, R119). -/
def startSampling (s : State) : State :=
  lanesStart
    { s with
      time := { s.time with sampling := true, fresh := true, modeInForce := s.time.mode }
      trigger := s.trigger.primed s.time.last }

/-- Sampling stops: the live lanes take the stop (R24, R134). `seg`: the segment current at the last tick. -/
def stopSampling (seg : Option Nat) (s : State) : State :=
  lanesStop seg { s with time := { s.time with sampling := false, fresh := false } }

/-- The capture ends with its current segment: closed, the sequencer IDLE, sampling stopped, the controller CLOSING (R54,
R56, R57). -/
def endCapture (i : Nat) (stopped : Bool) (s : State) : State :=
  let s1 := closeSegment i stopped s
  stopSampling (some i) (setTrigger s1.trigger.toIdle (setCapture { s1.capture with ctl := .closing } s1))

/-- MONITOR ends (R56, R57). -/
def endMonitor (s : State) : State := stopSampling none (setCapture { s.capture with ctl := .idle } s)

/-- What STOP and the time limit do by the controller state; gaps that fall at the last tick come first (R56, R134). -/
def stopCapture (s0 : State) : State :=
  let s := settleGaps s0
  match s.capture.ctl with
  | .idle => s0
  | .closing => s0
  | .monitor => endMonitor s
  | .capturing i => endCapture i true s

/-! ## Due events: time limit and post-fill completion (R25, R54, R57; log 4) -/

/-- The counter stands at 2^48 - 1 and sampling runs (R25). -/
def timeLimitDue (s : State) : Bool :=
  s.time.sampling && !s.time.fresh && decide (s.time.tick = some Config.lastTick)

/-- Sampling stops at the time limit (R57). -/
def timeLimitStop (s : State) : State :=
  let s1 :=
    match currentSeg s with
    | none => s
    | some i => modSeg i (fun d => { d with flags := { d.flags with timeLimit := true } }) s
  raise blkCapture evTimeLimit (stopCapture s1)

/-- The time limit, where it is due. -/
def settleTimeLimit (s : State) : State := if timeLimitDue s then timeLimitStop s else s

/-- The post-fill count of the current segment, in POST_FILL, has reached the postfill (R54). -/
def postFillDue (s : State) : Bool :=
  match currentSeg s with
  | none => false
  | some i => decide ((segAt s i).state = .postFill) && decide (s.capture.inForce.postfill ≤ (segAt s i).postCount)

/-- Auto-continue is on and the current segment is not the last (R54). -/
def State.startsNext (s : State) : Bool :=
  match currentSeg s with
  | none => false
  | some i => s.capture.inForce.auto && decide (i + 1 < s.capture.layout)

/-- Post-fill completion of the current segment `i` (R54). The next segment's start time is the next grid tick, also at tick
2^48 - 1, after which none is stamped (DESIGN CHOICE: log 13). -/
def completePostFill (i : Nat) (s0 : State) : State :=
  let s := settleGaps s0
  if s.capture.inForce.auto ∧ i + 1 < s.capture.layout then
    let s1 := closeSegment i false s
    let s2 := beginSegment (i + 1) (s.time.tick.getD 0 + 1) s1
    rearm (setCapture { s2.capture with ctl := .capturing (i + 1) } s2)
  else endCapture i false s

/-- Post-fill completion, where it is due. -/
def settlePostFill (s : State) : State :=
  match currentSeg s with
  | none => s
  | some i => if postFillDue s then completePostFill i s else s

/-! ## One grid tick (R15, R17, R23, R26 to R28) -/

/-- The clock edge of state mode (R27). -/
def stateEdge (t : Timebase) (was now : BitVec 32) : Bool :=
  (match t.clockEdge with
    | .rising => now &&& ~~~was
    | .falling => was &&& ~~~now
    | .both => was ^^^ now).getLsbD t.clockChan

/-- The qualifier holds (R28). -/
def qualifierHolds (t : Timebase) (now : BitVec 32) : Bool := (now ^^^ t.qValue) &&& t.qMask == 0

/-- A stamped sample is an evaluated sample (R26, R28). -/
def evaluatedSample (t : Timebase) (sm : Sample) : Bool :=
  match t.modeInForce with
  | .timing => true
  | .state => stateEdge t t.last.raw sm.raw && qualifierHolds t sm.raw

/-- Post-fill completion with a postfill of 0, which comes at the trigger itself (R54, R89). -/
def settleAtTrigger (s : State) : State := if s.capture.inForce.postfill = 0 then settlePostFill s else s

/-- The consumers take a stamped sample (log 16). With a postfill of 0 post-fill completion comes at the trigger: where it
starts the next segment the lanes take the tick after the re-arm (R89, R90), and where it stops sampling every consumer has
taken the last tick first (R24). -/
def stampedSample (tick : Nat) (sm : Sample) (evaluated : Bool) (s : State) : State :=
  let s1 := captureSample tick sm evaluated s
  let s2 := sequencerSample sm evaluated tick s1
  let s3 := if s2.startsNext then settleAtTrigger s2 else s2
  settleAtTrigger (liveTick tick sm.levels s3)

/-- What has come due before the next sample (log 4). -/
def settleBeforeSample (s : State) : State := settleTimeLimit (settlePostFill (settleGaps s))

/-- One grid tick (R9, R17, R23). -/
def gridTick (trigIn : Bool) (s0 : State) : State :=
  let s := settleBeforeSample (setTrigger { s0.trigger with trigOut := false } s0)
  let p := deliverTick trigIn s.pods
  let sm := streamSample s.time.modeInForce p
  let s1 := { s with pods := qualifiedPods s.time.modeInForce p, time := { s.time with last := sm } }
  if s.time.sampling then
    let tick := if s.time.fresh then 0 else s.time.tick.getD 0 + 1
    stampedSample tick sm (evaluatedSample s.time sm)
      { s1 with time := { s1.time with tick := some tick, fresh := false } }
  else s1

/-! ## The ring (R48, R52, R55) -/

/-- A written record counts as post-trigger (R52; log 14). -/
def countsPost (d : Segment) (q : Queued) : Bool :=
  q.post && (decide (d.state = .postFill) || (decide (d.state = .closing) && !d.closeStopped))

/-- The descriptor once one more record is written; `oldest` is the time of the record then oldest (R48). -/
def Segment.wrote (d : Segment) (q : Queued) (oldest : Nat) : Segment :=
  let full := decide (d.size ≤ d.retained)
  { d with
    written := d.written + 1
    retained := if full then d.retained else d.retained + 1
    newest := some q.record.time
    oldest := if full then some oldest else some (d.oldest.getD q.record.time)
    postCount := if countsPost d q then d.postCount + 1 else d.postCount
    flags := { d.flags with wrapped := d.flags.wrapped || full } }

/-- The trigger record index at close, and TRIGGER_TRIMMED (R55). -/
def settleIndex (i : Nat) (s : State) : State :=
  match (segAt s i).trigger with
  | none => s
  | some f =>
    modSeg i (fun d =>
      if f.time < d.oldest.getD 0 then { d with trigIndex := some 0, flags := { d.flags with triggerTrimmed := true } }
      else { d with trigIndex := some (indexAtOrAfter s i f.time) }) s

/-- A segment's END record has been written (R55). -/
def closeWritten (i : Nat) (s : State) : State :=
  let s1 := settleIndex i s
  let s2 := raise blkCapture evSegmentDone
    (modSeg i (fun d => { d with state := if d.closeStopped then .stopped else .done }) s1)
  if s2.capture.ctl = .closing ∧ s2.capture.queue = [] then
    raise blkCapture evCaptureComplete (setCapture { s2.capture with ctl := .idle } s2)
  else s2

/-- The head of the writer queue goes into its segment's ring (R48). -/
def ringWrite (q : Queued) (rest : List Queued) (s : State) : State :=
  let d := segAt s q.seg
  let full := decide (d.size ≤ d.retained)
  let dram := Mem.write Record.blank s.capture.dram (ringSlot q.seg d d.written) q.record
  let oldest := (Mem.read Record.blank dram (ringSlot q.seg d (d.written + 1 - d.retained))).time
  let s1 := modSeg q.seg (fun d => d.wrote q oldest) (setCapture { s.capture with dram := dram, queue := rest } s)
  let s2 := if full then trimLog q.seg oldest s1 else s1
  let s3 := if q.record.kind = .close then closeWritten q.seg s2 else s2
  measureAfterWrite q.seg s3

/-- A writer grant (R48, R143). -/
def writerAccess (s : State) : Outcome :=
  match s.capture.queue with
  | [] => .next (writeLogEntry s)
  | q :: rest =>
    if Config.recordSlots ≤ ringSlot q.seg (segAt s q.seg) (segAt s q.seg).written then .fault .dramSlotAbsent
    else .next (ringWrite q rest s)

/-! ## Record readout and the arbiter (R58, R61) -/

/-- A record readout has a read waiting. -/
def RecordReadout.readWaiting (r : RecordReadout) : Bool :=
  decide (0 < r.remaining) && decide (r.held.length < Config.recordsPerPacket)

/-- A record readout has a packet to offer: a filled one, or its final one (R61). -/
def RecordReadout.packetReady (r : RecordReadout) : Bool :=
  !r.finalSent && (decide (r.remaining = 0) || decide (Config.recordsPerPacket ≤ r.held.length))

/-- A readout grant that serves the record readout. -/
def readRecord (r : RecordReadout) (s : State) : State :=
  setCapture { s.capture with
    readout := some { r with
      next := r.next + 1, remaining := r.remaining - 1, held := r.held ++ [recordAt s r.seg r.next] } } s

/-- The record readout has a read waiting. -/
def recordsWait (s : State) : Bool :=
  match s.capture.readout with
  | none => false
  | some r => r.readWaiting

/-- The frame readout has a read waiting. -/
def framesWait (s : State) : Bool :=
  match s.rpath.readout with
  | none => false
  | some r => r.readWaiting (logAt s r.seg)

/-- A grant to readout: the one that waits, or of both the one whose turn it is; the turn passes to the other (R58). -/
def readoutAccess (s : State) : State :=
  if framesWait s && (s.capture.turnFrames || !recordsWait s) then
    setCapture { s.capture with turnFrames := false } (readFrameEntry s)
  else
    match s.capture.readout with
    | none => s
    | some r =>
      if r.readWaiting then
        let s1 := readRecord r s
        setCapture { s1.capture with turnFrames := true } s1
      else s

/-- The fixed cyclic order of R58. -/
def rotationOrder : List Requester :=
  [.writer, .readout, .view, .lane 0, .lane 1, .lane 2, .lane 3, .lane 4, .lane 5]

/-- A requester waits (section 3.8). -/
def requesterWaits (s : State) (r : Requester) : Bool :=
  match r with
  | .writer => !s.capture.queue.isEmpty || !s.rpath.logQueue.isEmpty
  | .readout => recordsWait s || framesWait s
  | .view => viewWaits s
  | .lane l => (s.lanes[l]).replays

/-- The requesters in rotation order, beginning after the pointer (R58). -/
def afterPointer (p : Requester) : List Requester :=
  rotationOrder.drop (p.code + 1) ++ rotationOrder.take (p.code + 1)

/-- The first waiting requester after the pointer. -/
def nextRequester (s : State) : Option Requester := (afterPointer s.capture.rotation).find? (requesterWaits s)

/-- One access of a requester. -/
def serve (r : Requester) (s : State) : Outcome :=
  match r with
  | .writer => writerAccess s
  | .readout => .next (readoutAccess s)
  | .view => .next (viewAccess s)
  | .lane l => .next (replayRead l s)

/-- One grant: under the watermark the writer, the pointer kept; else by rotation (R58). -/
def arbitrate (s : State) : Outcome :=
  if Config.watermark ≤ s.capture.queue.length then writerAccess s
  else
    match nextRequester s with
    | none => .next s
    | some r => serve r (setCapture { s.capture with rotation := r } s)

end Sys2Proof.Machine
end

