-- ==== Sys2Proof/Machine/Capture.lean ====
section
/-! DEFINITION. Chapter 3: the commands of the capture store, and the steps LEVEL_STREAM_SAMPLE, TIME_LIMIT,
POST_FILL_COMPLETION, ARBITER_GRANT and GAP_TIMEOUT. -/

namespace Sys2Proof.Machine

/-! ## Steps -/

/-- LEVEL_STREAM_SAMPLE: one grid tick with the TRIG_IN level sampled for it (R9, R17, R23, R70). -/
def execLevelStreamSample (trigIn : Bool) (s : State) : Outcome := .next (gridTick trigIn s)

/-- GAP_TIMEOUT of a live lane, where its open frame's gap has run out (R123, R125, R127; log 4). -/
def execGapTimeout (l : LaneId) (s : State) : Outcome := .next (settleGap l s)

/-- TIME_LIMIT, where it is due (R25, R57; log 4). -/
def execTimeLimit (s : State) : Outcome := .next (settleTimeLimit s)

/-- POST_FILL_COMPLETION, where it is due (R54; log 4). -/
def execPostFillCompletion (s : State) : Outcome := .next (settlePostFill s)

/-- ARBITER_GRANT: one access of the memory port (R58). A post-fill completion that is due comes first (log 4). -/
def execArbiterGrant (s : State) : Outcome := arbitrate (settlePostFill s)

/-! ## Commands -/

/-- The segment counts of section 3.1. -/
def validCount (n : Nat) : Bool := [1, 2, 4, 8, 16, 32, 64, 128, 256].contains n

/-- The six settings as words (R37). -/
def CaptureSettings.words (c : CaptureSettings) : List Word :=
  [c.mask, word c.count, word c.prefill, word c.postfill, flagWord c.hold, flagWord c.auto]

/-- SET_CAPTURE (R37). -/
def cmdSetCapture (mask count prefill postfill hold auto : Word) : Command := fun s =>
  if s.capture.ctl ≠ .idle then refuse .busy s
  else
    match switchOf hold, switchOf auto with
    | some h, some a =>
      if !validCount count.toNat then refuse .badArgument s
      else if Config.recordSlots / count.toNat < prefill.toNat + postfill.toNat + 1 then refuse .badArgument s
      else
        let c : CaptureSettings := ⟨mask, count.toNat, prefill.toNat, postfill.toNat, h, a⟩
        accept c.words (setCapture { s.capture with stored := c } s)
    | _, _ => refuse .badArgument s

def execSetCapture (tag : Tag) (mask count prefill postfill hold auto : Word) (s : State) : Outcome :=
  runCommand tag typeCommand 11 (cmdSetCapture mask count prefill postfill hold auto) s

/-- Some lane is not OFF with source REPLAY (R50). -/
def someLaneReplays (s : State) : Bool := s.lanes.toList.any Lane.replays

/-- The stored settings come into force: a new layout of EMPTY segments, every frame log and the log write queue emptied
(R50, R146). -/
def newLayout (s : State) : State :=
  let n := s.capture.stored.count
  { s with
    capture := { s.capture with inForce := s.capture.stored, layout := n, segs := List.replicate n (Segment.empty n) }
    rpath := { s.rpath with logs := List.replicate n [], logQueue := [] } }

/-- What RUN does once it is taken (R50, R72, R174). -/
def startCapture (s : State) : State :=
  let s1 := beginSegment 0 0 (startSampling (newLayout s))
  viewAtRun (startSequencer (setCapture { s1.capture with ctl := .capturing 0 } s1))

/-- RUN (R50). -/
def cmdRun : Command := fun s =>
  if s.capture.ctl ≠ .idle then refuse .busy s
  else if someLaneReplays s then refuse .laneActive s
  else if s.capture.readout.isSome ∨ s.rpath.readout.isSome then refuse .busy s
  else accept [] (startCapture s)

def execRun (tag : Tag) (s : State) : Outcome := runCommand tag typeCommand 12 cmdRun s

/-- MONITOR (R51). -/
def cmdMonitor : Command := fun s =>
  if s.capture.ctl ≠ .idle then refuse .busy s
  else accept [] (startSampling (setCapture { s.capture with ctl := .monitor } s))

def execMonitor (tag : Tag) (s : State) : Outcome := runCommand tag typeCommand 13 cmdMonitor s

/-- STOP; a time limit that is due has come first (R56; log 4). -/
def cmdStop : Command := fun s0 =>
  let s := settleTimeLimit s0
  accept [s.capture.ctl.code] (stopCapture s)

def execStop (tag : Tag) (s : State) : Outcome := runCommand tag typeCommand 14 cmdStop s

/-- A segment index below the layout count. -/
def segIndexOf (w : Word) (s : State) : Option Nat := if w.toNat < s.capture.layout then some w.toNat else none

/-- READ_SEGMENT (R59). -/
def cmdReadSegment (seg : Word) : Command := fun s =>
  match segIndexOf seg s with
  | none => refuse .badArgument s
  | some i => accept (descriptorWords i (segAt s i) (logAt s i).length) s

def execReadSegment (tag : Tag) (seg : Word) (s : State) : Outcome :=
  runCommand tag typeCommand 15 (cmdReadSegment seg) s

/-- Records a readout is to send from a start index: those up to the retained count, or the count of them; 0 is all (R60). -/
def recordsToSend (retained start count : Nat) : Nat :=
  if count = 0 then retained - start else min count (retained - start)

/-- READ_RECORDS (R60). -/
def cmdReadRecords (tag : Tag) (seg start count : Word) : Command := fun s =>
  match segIndexOf seg s with
  | none => refuse .badArgument s
  | some i =>
    if s.capture.readout.isSome then refuse .busy s
    else if !(segAt s i).closed then refuse .wrongState s
    else
      let first := min start.toNat (segAt s i).retained
      let n := recordsToSend (segAt s i).retained first count.toNat
      accept [word first, word n]
        (setCapture { s.capture with readout := some ⟨tag, i, first, n, first, [], false⟩ } s)

def execReadRecords (tag : Tag) (seg start count : Word) (s : State) : Outcome :=
  runCommand tag typeCommand 16 (cmdReadRecords tag seg start count) s

/-- The words of a record readout in CAPTURE_STATUS (R63). DESIGN CHOICE (log 22): the next index and the remaining count are
those of the records still to be read from the ring; a record read and not yet sent counts as gone. -/
def recordReadoutWords (o : Option RecordReadout) : List Word :=
  match o with
  | none => [0, 0, 0, 0]
  | some r => [1, word r.seg, word r.next, word r.remaining]

/-- CAPTURE_STATUS (R63). -/
def cmdCaptureStatus : Command := fun s =>
  let c := s.capture
  accept ([c.ctl.code] ++ optWord ((currentSeg s).map word) ++ [word c.layout] ++ c.stored.words
    ++ [word c.queue.length, flagWord (prefillSatisfied s)] ++ recordReadoutWords c.readout
    ++ [word c.rotation.code]) s

def execCaptureStatus (tag : Tag) (s : State) : Outcome := runCommand tag typeCommand 17 cmdCaptureStatus s

/-- ABORT_READ, taken by the capture store and the record path together (R62, R152). -/
def cmdAbortRead : Command := fun s =>
  accept [flagWord s.capture.readout.isSome, flagWord s.rpath.readout.isSome]
    { s with
      capture := { s.capture with readout := s.capture.readout.map fun r => { r with remaining := 0 } }
      rpath := { s.rpath with readout := s.rpath.readout.map fun r => { r with ended := true } } }

def execAbortRead (tag : Tag) (s : State) : Outcome := runCommand tag typeCommand 18 cmdAbortRead s

end Sys2Proof.Machine
end

