-- ==== Sys2Proof/Machine/Lanes.lean ====
section
/-! DEFINITION. Chapters 6 and 7: the commands of the decode lanes and of the record path (R113 to R116, R135, R147, R150,
R153). -/

namespace Sys2Proof.Machine

/-! ## Decode lanes -/

/-- A lane as LANE_START leaves it (R113). -/
def Lane.started : Lane := { Lane.reset with state := .hunt }

/-- LANE_START (R113). -/
def cmdLaneStart (lane : Word) : Command := fun s =>
  match laneOf lane with
  | none => refuse .badArgument s
  | some l =>
    if (s.lanes[l]).state ≠ .off then refuse .wrongState s
    else if (tableOf l s).isNone then refuse .wrongState s
    else if s.time.mode = .state then refuse .wrongState s
    else accept [] (setLane l Lane.started s)

def execLaneStart (tag : Tag) (lane : Word) (s : State) : Outcome :=
  runCommand tag typeCommand 26 (cmdLaneStart lane) s

/-- A lane in HUNT enters OFF at once (R114, R115). -/
def stopHunting (l : LaneId) (s : State) : State :=
  applyLane l none ⟨(s.lanes[l]).toOff, none, false, true⟩ s

/-- GRACEFUL by the lane's state (R114). -/
def stopGraceful (l : LaneId) (s : State) : State :=
  match (s.lanes[l]).state with
  | .off => s
  | .hunt => stopHunting l s
  | .inFrame => setLane l { s.lanes[l] with state := .draining } s
  | .draining => s

/-- LANE_STOP of kind GRACEFUL; a gap that has run out comes first (R114; log 4). -/
def cmdLaneStopGraceful (lane : Word) : Command := fun s =>
  match laneOf lane with
  | none => refuse .badArgument s
  | some l =>
    let s1 := stopGraceful l (settleGap l s)
    accept [(s1.lanes[l]).state.code] s1

def execLaneStopGraceful (tag : Tag) (lane : Word) (s : State) : Outcome :=
  runCommand tag typeCommand 27 (cmdLaneStopGraceful lane) s

/-- NOW by the lane's state: an open frame is closed as abandoned (R115, R133). -/
def stopNow (l : LaneId) (s : State) : State :=
  let ln := s.lanes[l]
  match ln.state, tableOf l s with
  | .off, _ => s
  | .hunt, _ => stopHunting l s
  | _, some t => applyLane l (logTarget l s) (endFrame t l ln.lastTick true true false ln) s
  | _, none => stopHunting l s

/-- LANE_STOP of kind NOW; a gap that has run out comes first (R115; log 4). -/
def cmdLaneStopNow (lane : Word) : Command := fun s =>
  match laneOf lane with
  | none => refuse .badArgument s
  | some l =>
    let s1 := stopNow l (settleGap l s)
    accept [(s1.lanes[l]).state.code] s1

def execLaneStopNow (tag : Tag) (lane : Word) (s : State) : Outcome :=
  runCommand tag typeCommand 27 (cmdLaneStopNow lane) s

/-- Every channel of the table's channel set is in the segment's enabled-channel mask (R116). -/
def coversTable (d : Segment) (t : FrameTable) : Bool := t.channelMask &&& ~~~d.mask == 0

/-- A START-STOP table. -/
def FrontEnd.isStartStop (f : FrontEnd) : Bool :=
  match f with
  | .startStop _ => true
  | .strobed _ => false
  | .twoWire _ => false

/-- A lane as LANE_REPLAY leaves it (R116). -/
def replayLane (s : State) (seg fromTick toTick : Nat) (store : Bool) : Lane :=
  { Lane.reset with
    state := .hunt
    isReplay := true
    replay := some ⟨seg, fromTick, toTick, store, replayStart s seg fromTick, 0, none⟩ }

/-- LANE_REPLAY once its segment and table are found in order: cases 5 to 7 (R116). -/
def replayFrom (l : LaneId) (t : FrameTable) (i fromTick toTick : Nat) (store : Bool) : Command := fun s =>
  let d := segAt s i
  let first := max fromTick (d.oldest.getD 0)
  let last := min toTick (d.endTime.getD 0)
  if !coversTable d t then refuse .badArgument s
  else if t.front.isStartStop && decide (d.mode = .state) then refuse .badArgument s
  else if last < first then refuse .badArgument s
  else
    let s1 := setLane l (replayLane s i first last store) s
    accept (timeWords first ++ timeWords last) (if store then dropLaneEntries i l s1 else s1)

/-- LANE_REPLAY (R116). -/
def cmdLaneReplay (lane seg : Word) (fromTick toTick : DWord) (store : Word) : Command := fun s =>
  match laneOf lane with
  | none => refuse .badArgument s
  | some l =>
    if s.capture.layout ≤ seg.toNat then refuse .badArgument s
    else if (s.lanes[l]).state ≠ .off then refuse .wrongState s
    else
      match tableOf l s with
      | none => refuse .wrongState s
      | some t =>
        if !(segAt s seg.toNat).closed then refuse .wrongState s
        else replayFrom l t seg.toNat fromTick.toNat toTick.toNat (present store) s

def execLaneReplay (tag : Tag) (lane seg : Word) (fromTick toTick : DWord) (store : Word) (s : State) : Outcome :=
  runCommand tag typeCommand 28 (cmdLaneReplay lane seg fromTick toTick store) s

/-- The words of a lane's open frame in LANE_STATUS (R135). -/
def openFrameWords (ln : Lane) : List Word :=
  match ln.frame with
  | none => [0, 0, 0, 0, 0, 0]
  | some f => 1 :: timeWords f.start ++ [word f.units, word f.tag, word ln.gatherer.length]

/-- The words of a lane's extraction position: entry, and takings left with their presence (none is TO_END). DESIGN
CHOICE (log 22): an empty position, as after reset with no frame open, gives entry 0, presence 1 and takings 0. -/
def positionWords (x : Extract) : List Word := word x.entry :: optWord (x.left.map word)

/-- The words of a lane's replay context in LANE_STATUS (R135). -/
def replayWords (o : Option Replay) : List Word :=
  match o with
  | none => [0, 0, 0, 0, 0, 0, 0]
  | some r => [1, word r.seg] ++ timeWords r.nextTick ++ timeWords r.toTick ++ [flagWord r.store]

/-- The words of a lane (R135). -/
def Lane.words (ln : Lane) : List Word :=
  [ln.state.code, flagWord ln.isReplay, flagWord ln.resync, word ln.errors] ++ openFrameWords ln
    ++ positionWords ln.pos ++ replayWords ln.replay

/-- LANE_STATUS (R135). -/
def cmdLaneStatus (lane : Word) : Command := fun s =>
  match laneOf lane with
  | none => refuse .badArgument s
  | some l => accept (s.lanes[l]).words s

def execLaneStatus (tag : Tag) (lane : Word) (s : State) : Outcome :=
  runCommand tag typeCommand 29 (cmdLaneStatus lane) s

/-! ## Record path -/

/-- SET_STREAM (R147). -/
def cmdSetStream (mask : Word) : Command := fun s =>
  if 63 < mask.toNat then refuse .badArgument s
  else accept [] (setPath { s.rpath with mask := BitVec.ofNat 6 mask.toNat } s)

def execSetStream (tag : Tag) (mask : Word) (s : State) : Outcome :=
  runCommand tag typeCommand 30 (cmdSetStream mask) s

/-- READ_FRAMES (R150). -/
def cmdReadFrames (tag : Tag) (seg mask : Word) (fromTick : DWord) (count : Word) : Command := fun s =>
  if s.capture.layout ≤ seg.toNat ∨ 63 < mask.toNat then refuse .badArgument s
  else if s.rpath.readout.isSome then refuse .busy s
  else if !(segAt s seg.toNat).closed then refuse .wrongState s
  else
    let m := BitVec.ofNat 6 mask.toNat
    let log := logAt s seg.toNat
    let remaining := if count = 0 then none else some count.toNat
    accept [word (matchCount m fromTick.toNat log)]
      (setPath { s.rpath with
        readout := some ⟨tag, seg.toNat, m, fromTick.toNat, remaining, 0, 0, [], log.isEmpty, false⟩ } s)

def execReadFrames (tag : Tag) (seg mask : Word) (fromTick : DWord) (count : Word) (s : State) : Outcome :=
  runCommand tag typeCommand 31 (cmdReadFrames tag seg mask fromTick count) s

/-- The words of a frame readout in RECORD_PATH_STATUS (R153). DESIGN CHOICE (log 22): a record counts as sent when its packet
is formed, the remaining count is of the entries still to be read, and that of a readout of all entries, which has no number,
is 0 with no presence word. -/
def frameReadoutWords (o : Option FrameReadout) : List Word :=
  match o with
  | none => [0, 0, 0, 0, 0, 0, 0]
  | some r =>
    [1, word r.seg, r.mask.zeroExtend 32] ++ timeWords r.fromTick ++ [word r.sent, word (r.remaining.getD 0)]

/-- RECORD_PATH_STATUS (R153). -/
def cmdRecordPathStatus : Command := fun s =>
  let p := s.rpath
  accept ([p.mask.zeroExtend 32, word p.stream.length] ++ p.dropped.toList.map word
    ++ [word p.logQueue.length, flagWord p.turnReadout] ++ frameReadoutWords p.readout) s

def execRecordPathStatus (tag : Tag) (s : State) : Outcome := runCommand tag typeCommand 32 cmdRecordPathStatus s

end Sys2Proof.Machine
end

