-- ==== Sys2Proof/Machine/Panel.lean ====
section
/-! DEFINITION. Chapter 9: the panel output: rows, pixels, palette, overlay, backlight, their commands and steps (R182 to
R194). -/

namespace Sys2Proof.Machine

/-- Change the panel output. -/
def setPanel (p : Panel) (s : State) : State := { s with panel := p }

/-! ## Rows (R184, R185) -/

/-- The top line of row `r` (R185). -/
def rowTop (rows : List RowEntry) (r : Nat) : Nat := ((rows.take r).map (·.height)).sum

/-- Rows that begin above line 480 (R184). -/
def rowsAbove (rows : List RowEntry) : Nat :=
  ((List.range rows.length).filter fun r => decide (rowTop rows r < 480)).length

/-- A row map entry from its word (section 11.2); none for a kind or an index that R184 refuses. -/
def rowOf (w : Word) : Option RowEntry :=
  let index := field w 8 8
  let height := clamp 8 32 (field w 16 8)
  match field w 0 2 with
  | 0 => if 31 < index then none else some ⟨.channel index, height⟩
  | 1 => if 5 < index then none else some ⟨.lane index, height⟩
  | 2 => some ⟨.blank, height⟩
  | _ => none

/-- All entries of a row map, or none. -/
def rowsOf (ws : List Word) : Option (List RowEntry) :=
  match ws with
  | [] => some []
  | w :: rest =>
    match rowOf w, rowsOf rest with
    | some r, some rs => some (r :: rs)
    | _, _ => none

/-! ## Drawing (R187 to R189, R192) -/

/-- The entry of a BUSY cell by its density (R187). -/
def busyEntry (density : Nat) : Nat := if density < 4 then 5 else if density < 16 then 6 else 7

/-- The palette entry of line `y` of a trace cell in a row of height `h` (R187). -/
def traceEntry (cls : TraceClass) (density : Nat) (glitch : Bool) (h y : Nat) : Nat :=
  if glitch && y == 0 then 8
  else
    match cls with
    | .noData => if y = h / 2 then 1 else 0
    | .low => if y = h - 2 then 2 else 0
    | .high => if y = 1 then 3 else 0
    | .rise => if 1 ≤ y ∧ y ≤ h - 2 then 4 else 0
    | .fall => if 1 ≤ y ∧ y ≤ h - 2 then 4 else 0
    | .busy => if 1 ≤ y ∧ y ≤ h - 2 then busyEntry density else 0

/-- The palette entry of line `y` of a decode cell in a row of height `h` (R188). -/
def decodeEntry (cls : DecodeClass) (error start : Bool) (h y : Nat) : Nat :=
  if start then 12
  else
    match cls with
    | .noData => if y = h / 2 then 1 else 0
    | .none => 0
    | .good => if 2 ≤ y ∧ y ≤ h - 3 then 9 else 0
    | .error => if 2 ≤ y ∧ y ≤ h - 3 then 10 else 0
    | .multi =>
      if 2 ≤ y ∧ y ≤ h - 3 then (if error && (y == 2 || y == h - 3) then 10 else 11) else 0

/-- The palette entry of line `y` of a cell in a row of height `h`. -/
def cellEntry (c : Cell) (h y : Nat) : Nat :=
  match c with
  | .trace cls _ density glitch => traceEntry cls density glitch h y
  | .decode cls error start => decodeEntry cls error start h y
  | .blank => 0

/-- The rows drawn from a front buffer: its own, or for the reset picture the row map in force (R185). -/
def drawnRows (front : FrameBuffer) (rowMap : List RowEntry) : List RowEntry :=
  if front.passNo = 0 then rowMap else front.rows

/-- The frame that begins now (R183). -/
def beginScan (s : State) : Scan := ⟨s.view.front, drawnRows s.view.front s.panel.rowMap⟩

/-- The drawn row that line `y` of the panel lies on (R185). -/
def rowAtLine (rows : List RowEntry) (y : Nat) : Option Nat :=
  if y < 480 then
    (List.range rows.length).find? fun r =>
      decide (rowTop rows r ≤ y) && decide (y < rowTop rows (r + 1))
  else none

/-- The cell of a row in a column; NODATA where the buffer holds none (R181, R185). -/
def Scan.cell (n : Scan) (r c : Nat) (e : RowEntry) : Cell :=
  match n.front.cols[c]? with
  | none => noDataCell e.kind
  | some cells => cells.getD r (noDataCell e.kind)

/-- The entry of a cursor or marker line at a column, cursor A over cursor B over the trigger marker (R189). -/
def lineEntry (f : FrameBuffer) (c : Nat) : Option Nat :=
  if f.colA = some c then some 13
  else if f.colB = some c then some 14
  else if f.colTrig = some c then some 15
  else none

/-- The palette entry of the trace picture at a pixel of the trace area on row `r` (R189, R192). -/
def Scan.tracePixel (n : Scan) (c y r : Nat) : Nat :=
  match lineEntry n.front c with
  | some e => e
  | none =>
    match n.rows[r]? with
    | none => 0
    | some e => cellEntry (n.cell r c e) e.height (y - rowTop n.rows r)

/-- The palette entry of a pixel (R192). -/
def pixelEntry (n : Scan) (plane : Mem (BitVec 4)) (x y : Nat) : Nat :=
  let o := Mem.read 0 plane (800 * y + x)
  if o ≠ 0 then o.toNat
  else if x < 80 then 0
  else
    match rowAtLine n.rows y with
    | none => 0
    | some r => n.tracePixel (x - 80) y r

/-- The colour at the RGB output as a pixel is scanned; 0 while no frame is scanned (R182, R192). -/
def rgb (s : State) (x y : Nat) : BitVec 16 :=
  match s.panel.scan with
  | none => 0
  | some n => s.panel.active.toList.getD (pixelEntry n s.panel.overlay x y) 0

/-- The levels of the sync outputs at place `phase` of a frame: the waveform the part fixes (section 9.1; log 37), and 0 while
no frame is scanned (R182). -/
def syncOutputs (s : State) (phase : Nat) : Nat := if s.panel.scan.isSome then Config.syncWave phase else 0

/-! ## Overlay (R190, R191) -/

/-- Pixels `a` to `a + n - 1` of the plane take the indices of `f`. -/
def paintLine (f : Nat → BitVec 4) (plane : Mem (BitVec 4)) (a n : Nat) : Mem (BitVec 4) :=
  match n with
  | 0 => plane
  | m + 1 => Mem.write 0 (paintLine f plane a m) (a + m) (f m)

/-- Rows `y` to `y + h - 1` of the plane, `w` pixels from `x`, take the indices of `f row col`. -/
def paintRect (f : Nat → Nat → BitVec 4) (plane : Mem (BitVec 4)) (x y w h : Nat) : Mem (BitVec 4) :=
  match h with
  | 0 => plane
  | m + 1 => paintLine (f m) (paintRect f plane x y w m) (800 * (y + m) + x) w

/-- A rectangle of the plane: each coordinate in bits 0 to 15 of its word (section 11.2). -/
structure Rect where
  x : Nat
  y : Nat
  w : Nat
  h : Nat
  deriving DecidableEq, Repr

def rectOf (x y w h : Word) : Rect := ⟨field x 0 16, field y 0 16, field w 0 16, field h 0 16⟩

/-- Width and height of a rectangle's part on the panel (R190). -/
def Rect.clipW (r : Rect) : Nat := min r.w (800 - r.x)
def Rect.clipH (r : Rect) : Nat := min r.h (480 - r.y)

/-- Pixels of a rectangle on the panel. -/
def Rect.pixels (r : Rect) : Nat := r.clipW * r.clipH

/-- The plane with the part of a rectangle on the panel painted. -/
def Rect.paint (r : Rect) (f : Nat → Nat → BitVec 4) (plane : Mem (BitVec 4)) : Mem (BitVec 4) :=
  paintRect f plane r.x r.y r.clipW r.clipH

/-- Pixel `j` of packed pixel words (section 11.2). -/
def packedPixel (ws : List Word) (j : Nat) : BitVec 4 := BitVec.ofNat 4 (field (ws.getD (j / 8) 0) (4 * (j % 8)) 4)

/-- OVERLAY (R190). -/
def cmdOverlay (x y w h : Word) (pixels : List Word) : Command := fun s =>
  let r := rectOf x y w h
  if pixels.length ≠ (r.w * r.h + 7) / 8 then refuse .badLength s
  else
    accept [word r.pixels]
      (setPanel { s.panel with overlay := r.paint (fun j i => packedPixel pixels (j * r.w + i)) s.panel.overlay } s)

def execOverlay (tag : Tag) (x y w h : Word) (pixels : List Word) (s : State) : Outcome :=
  runCommand tag typeOverlay 0 (cmdOverlay x y w h pixels) s

/-- OVERLAY_FILL (R191). -/
def cmdOverlayFill (x y w h index : Word) : Command := fun s =>
  let r := rectOf x y w h
  if 15 < index.toNat then refuse .badArgument s
  else
    let v := BitVec.ofNat 4 index.toNat
    accept [word r.pixels] (setPanel { s.panel with overlay := r.paint (fun _ _ => v) s.panel.overlay } s)

def execOverlayFill (tag : Tag) (x y w h index : Word) (s : State) : Outcome :=
  runCommand tag typeCommand 44 (cmdOverlayFill x y w h index) s

/-! ## Panel state, rows, palette -/

/-- The panel enters RUNNING: its first frame begins at once (R182). -/
def panelOn (s : State) : State :=
  setPanel { s.panel with running := true, scan := some (beginScan s) } s

/-- The panel enters OFF: a ready buffer is swapped (R173, R182). -/
def panelOff (s : State) : State :=
  setView s.view.swapReady (setPanel { s.panel with running := false, scan := none } s)

/-- SET_PANEL (R182). -/
def cmdSetPanel (code : Word) : Command := fun s =>
  let before := flagWord s.panel.running
  match switchOf code with
  | none => refuse .badArgument s
  | some true => accept [before] (if s.panel.running then s else panelOn s)
  | some false => accept [before] (if s.panel.running then panelOff s else s)

def execSetPanel (tag : Tag) (code : Word) (s : State) : Outcome := runCommand tag typeCommand 41 (cmdSetPanel code) s

/-- SET_ROW_MAP (R184). -/
def cmdSetRowMap (entries : List Word) : Command := fun s =>
  if 24 < entries.length then refuse .badArgument s
  else
    match rowsOf entries with
    | none => refuse .badArgument s
    | some rows =>
      accept [word rows.length, word (rowsAbove rows)] (viewRequest (setPanel { s.panel with rowMap := rows } s))

def execSetRowMap (tag : Tag) (entries : List Word) (s : State) : Outcome :=
  runCommand tag typeCommand 42 (cmdSetRowMap entries) s

/-- A palette with colours stored from an entry upward (R186); a colour is in bits 0 to 15 of its word (section 11.2). -/
def storeColours (p : Vector (BitVec 16) 16) (first : Nat) (colours : List Word) : Vector (BitVec 16) 16 :=
  match colours with
  | [] => p
  | w :: rest => storeColours (p.setIfInBounds first (BitVec.ofNat 16 (field w 0 16))) (first + 1) rest

/-- SET_PALETTE (R186). -/
def cmdSetPalette (first : Word) (colours : List Word) : Command := fun s =>
  if 15 < first.toNat ∨ colours = [] ∨ 16 < first.toNat + colours.length then refuse .badArgument s
  else
    let written := storeColours s.panel.written first.toNat colours
    accept []
      (setPanel { s.panel with written := written, active := if s.panel.running then s.panel.active else written } s)

def execSetPalette (tag : Tag) (first : Word) (colours : List Word) (s : State) : Outcome :=
  runCommand tag typeCommand 43 (cmdSetPalette first colours) s

/-- SET_BACKLIGHT (R193). -/
def cmdSetBacklight (level : Word) : Command := fun s =>
  if 255 < level.toNat then refuse .badArgument s
  else accept [s.panel.level.zeroExtend 32] (setPanel { s.panel with staged := BitVec.ofNat 8 level.toNat } s)

def execSetBacklight (tag : Tag) (level : Word) (s : State) : Outcome :=
  runCommand tag typeCommand 45 (cmdSetBacklight level) s

/-- PANEL_STATUS (R194). DESIGN CHOICE (log 22): a row map entry is one word, laid out as SET_ROW_MAP carries it, a BLANK one with
index 0, and no count of the entries stands before them. -/
def cmdPanelStatus : Command := fun s =>
  let p := s.panel
  accept ([flagWord p.running, p.frameCount, p.level.zeroExtend 32, p.staged.zeroExtend 32, p.step.zeroExtend 32]
    ++ p.rowMap.map rowWord ++ [word (rowsAbove p.rowMap)] ++ p.written.toList.map fun c => c.zeroExtend 32) s

def execPanelStatus (tag : Tag) (s : State) : Outcome := runCommand tag typeCommand 46 cmdPanelStatus s

/-! ## Steps -/

/-- The frame-end event: frame count, swap, palette copy, and the next frame begins (R183). -/
def endFrameScan (s : State) : State :=
  let s1 := setView s.view.swapReady s
  setPanel { s1.panel with
    frameCount := s1.panel.frameCount + 1, active := s1.panel.written, scan := some (beginScan s1) } s1

/-- FRAME_END: the end of the frame being scanned (R183); with no frame scanned, nothing changes. -/
def execFrameEnd (s : State) : Outcome :=
  .next (if s.panel.running && s.panel.scan.isSome then endFrameScan s else s)

/-- The end of a PWM period (R193). -/
def endPeriod (s : State) : State := setPanel { s.panel with level := s.panel.staged, step := 0 } s

/-- BACKLIGHT_PERIOD_END: the end of the period's last step (R193; log 5); otherwise nothing changes. -/
def execBacklightPeriodEnd (s : State) : Outcome := .next (if s.panel.step = 255 then endPeriod s else s)

/-- PWM_STEP: the next step; after step 255 the period ends (R193). -/
def execPwmStep (s : State) : Outcome :=
  .next (if s.panel.step = 255 then endPeriod s else setPanel { s.panel with step := s.panel.step + 1 } s)

/-- The backlight output (R193). -/
def backlight (s : State) : Bool := decide (s.panel.level = 255) || decide (s.panel.step < s.panel.level)

end Sys2Proof.Machine
end

