-- ==== Sys2Proof/Machine/Pods.lean ====
section
/-! DEFINITION. Chapter 1: pod links, their words and events, and the pod commands (R1 to R12, R16, R18). -/

namespace Sys2Proof.Machine

/-! ## Links -/

/-- Entry to TRAINING: both counts at 0, train requests sent (R2). -/
def PodLink.train (k : PodLink) : PodLink :=
  { k with state := .training, lockRun := 0, words := 0, sending := .trainRequest }

/-- The shadow as a set-up word. -/
def PodLink.setupWord (k : PodLink) : DownWord := .setup k.code k.hyst

/-- Entry to UP: bad-frame run 0, the shadow sent, the acknowledge wait started (R3). The shadow is unconfirmed while it waits
for its echo, as R11's "stays unconfirmed" says of a wait without a match (log 35). -/
def PodLink.lock (k : PodLink) (kind : PodKind) : PodLink :=
  { k with state := .up, kind := kind, badRun := 0, wait := some 0, confirmed := false, sending := k.setupWord }

/-- The lock run after a word received in TRAINING (R2). -/
def PodLink.nextRun (k : PodLink) (w : TrainingWord) : Nat :=
  match w with
  | .good kind => if k.lockRun ≠ 0 ∧ k.runKind = podKindOf kind then k.lockRun + 1 else 1
  | .bad => 0

/-- The kind code the run carries after a word (R2). -/
def PodLink.nextRunKind (k : PodLink) (w : TrainingWord) : PodKind :=
  match w with
  | .good kind => podKindOf kind
  | .bad => k.runKind

/-- The link after a word received in TRAINING: lock at a run of 16, give up at 1,024 words without lock (R2). -/
def PodLink.trainingWord (k : PodLink) (w : TrainingWord) : PodLink :=
  let k1 := { k with words := k.words + 1, lockRun := k.nextRun w, runKind := k.nextRunKind w }
  if k1.lockRun = 16 then k1.lock k1.runKind
  else if 1024 ≤ k1.words then { k1 with state := .fault, sending := .idle }
  else k1

/-- A frame counts in the acknowledge wait; the wait and whether it has failed (R11). -/
def PodLink.countAck (k : PodLink) : Option Nat × Bool :=
  match k.wait with
  | none => (none, false)
  | some n => if 64 ≤ n + 1 then (none, true) else (some (n + 1), false)

/-- The wait in progress, if any, ends with no match: the shadow stays unconfirmed (R11). -/
def PodLink.dropWait (k : PodLink) : PodLink :=
  { k with wait := none, confirmed := k.confirmed && k.wait.isNone }

/-- A good sample frame received in UP (R4, R9, R11). -/
def PodLink.goodFrame (k : PodLink) (samples : Vector Byte 16) : PodLink :=
  { k with
    due := k.due ++ samples.toList.map fun v => ⟨v, true⟩
    held := samples[15]
    badRun := 0
    wait := k.countAck.1
    confirmed := k.confirmed && !k.countAck.2 }

/-- A bad sample frame received in UP: 16 ticks of held levels, and FAULT at the third in a row (R5, R6). -/
def PodLink.badFrame (k : PodLink) : PodLink :=
  if 3 ≤ k.badRun + 1 then
    { k.dropWait with
      state := .fault, badRun := k.badRun + 1, sending := .idle
      due := k.due ++ List.replicate 16 ⟨k.held, false⟩ }
  else
    { k with
      badRun := k.badRun + 1, wait := k.countAck.1, confirmed := k.confirmed && !k.countAck.2
      due := k.due ++ List.replicate 16 ⟨k.held, true⟩ }

/-- A status word with a correct check: a match ends the wait and confirms the shadow (R11). -/
def PodLink.statusWord (k : PodLink) (code : BitVec 8) (hyst : BitVec 2) : PodLink :=
  if k.wait.isSome ∧ code = k.code ∧ hyst = k.hyst then { k with wait := none, confirmed := true } else k

/-- Removal: ABSENT, kind NONE, training and set-up wait discarded (R1). -/
def PodLink.remove (k : PodLink) : PodLink :=
  { k.dropWait with
    sensed := false, state := .absent, kind := .noPod, lockRun := 0, words := 0, sending := .idle }

/-! ## Words received, by link state -/

/-- A word in TRAINING, with POD_UP or POD_FAULT as it brings them about (R2, R3). -/
def receiveTraining (p : Pod) (w : TrainingWord) (s : State) : State :=
  let k := (s.pods.links[p]).trainingWord w
  raiseIf (k.state == .up) blkPod (evPodUp p)
    (raiseIf (k.state == .fault) blkPod (evPodFault p) (modLink p (fun _ => k) s))

/-- A bad sample frame in UP, with its events (R5, R11). -/
def receiveBad (p : Pod) (s : State) : State :=
  let k := s.pods.links[p]
  let third := decide (3 ≤ k.badRun + 1)
  raiseIf k.countAck.2 blkPod (evSetupFail p)
    (raiseIf third blkPod (evPodFault p ||| evPodDown p)
      (raise blkPod (evFrameError p) (modLink p PodLink.badFrame s)))

/-- A good sample frame in UP, with SETUP_FAIL at the sixty-fourth frame of a wait (R4, R11). -/
def receiveGood (p : Pod) (samples : Vector Byte 16) (s : State) : State :=
  raiseIf (s.pods.links[p]).countAck.2 blkPod (evSetupFail p) (modLink p (fun k => k.goodFrame samples) s)

/-- TRAINING_WORD_RECEIVED: counted in TRAINING; in UP it is neither a sample frame nor a status word and so a bad frame;
discarded in ABSENT and FAULT (R2, R5, R7). -/
def execTrainingWordReceived (p : Pod) (w : TrainingWord) (s : State) : Outcome :=
  match (s.pods.links[p]).state with
  | .training => .next (receiveTraining p w s)
  | .up => .next (receiveBad p s)
  | .absent => .next s
  | .fault => .next s

/-- TRAINING_GIVE_UP: the 1,024th word, received without lock, takes the link to FAULT (R2; log 5). -/
def execTrainingGiveUp (p : Pod) (w : TrainingWord) (s : State) : Outcome :=
  let k := s.pods.links[p]
  .next (if k.state = .training ∧ k.words = 1023 ∧ k.nextRun w ≠ 16 then receiveTraining p w s else s)

/-- SAMPLE_FRAME_RECEIVED: 16 ticks of levels in UP; in TRAINING a word that is not a training word (R2, R4). -/
def execSampleFrameReceived (p : Pod) (samples : Vector Byte 16) (s : State) : Outcome :=
  match (s.pods.links[p]).state with
  | .up => .next (receiveGood p samples s)
  | .training => .next (receiveTraining p .bad s)
  | .absent => .next s
  | .fault => .next s

/-- BAD_SAMPLE_FRAME: held levels for 16 ticks in UP; in TRAINING a word that is not a training word (R2, R5). -/
def execBadSampleFrame (p : Pod) (s : State) : Outcome :=
  match (s.pods.links[p]).state with
  | .up => .next (receiveBad p s)
  | .training => .next (receiveTraining p .bad s)
  | .absent => .next s
  | .fault => .next s

/-- STATUS_WORD_RECEIVED: in UP with a correct check it goes to the acknowledge wait, with a failed check it is discarded; in
TRAINING a word that is not a training word (R2, R4, R11). -/
def execStatusWordReceived (p : Pod) (checkOk : Bool) (code : BitVec 8) (hyst : BitVec 2) (s : State) : Outcome :=
  match (s.pods.links[p]).state with
  | .up => .next (if checkOk then modLink p (fun k => k.statusWord code hyst) s else s)
  | .training => .next (receiveTraining p .bad s)
  | .absent => .next s
  | .fault => .next s

/-- SETUP_FAIL: the acknowledge wait of a pod that has counted 63 frames reaches 64 without a match (R11; log 6). -/
def execSetupFail (p : Pod) (s : State) : Outcome :=
  let k := s.pods.links[p]
  .next (if k.state = .up ∧ k.wait = some 63 then
      raise blkPod (evSetupFail p) (modLink p PodLink.dropWait s)
    else s)

/-- POD_PRESENCE_SENSED: an ABSENT link enters TRAINING; otherwise nothing changes (R1). -/
def execPodPresenceSensed (p : Pod) (s : State) : Outcome :=
  .next (modLink p (fun k =>
    let k1 := { k with sensed := true }
    if k.state = .absent then k1.train else k1) s)

/-- POD_REMOVED: ABSENT from any state, with POD_DOWN from UP (R1, R6). -/
def execPodRemoved (p : Pod) (s : State) : Outcome :=
  .next (raiseIf ((s.pods.links[p]).state == .up) blkPod (evPodDown p) (modLink p PodLink.remove s))

/-! ## Commands -/

/-- SET_POD (R10). -/
def cmdSetPod (pod code hyst : Word) : Command := fun s =>
  match podOf pod with
  | none => refuse .badArgument s
  | some p =>
    if 3 < hyst.toNat then refuse .badArgument s
    else
      let c := clamp 8 248 code.toNat
      let set := fun (k : PodLink) =>
        let k1 := { k with code := BitVec.ofNat 8 c, hyst := BitVec.ofNat 2 hyst.toNat, confirmed := false }
        if k.state = .up then { k1 with wait := some 0, sending := k1.setupWord } else k1
      accept [word c] (modLink p set s)

def execSetPod (tag : Tag) (pod code hyst : Word) (s : State) : Outcome :=
  runCommand tag typeCommand 1 (cmdSetPod pod code hyst) s

/-- RETRAIN (R8, R6). -/
def cmdRetrain (pod : Word) : Command := fun s =>
  match podOf pod with
  | none => refuse .badArgument s
  | some p =>
    let retrained := modLink p (fun k => k.dropWait.train) s
    match (s.pods.links[p]).state with
    | .up => accept [] (raise blkPod (evPodDown p) retrained)
    | .fault => accept [] retrained
    | .absent => refuse .wrongState s
    | .training => refuse .wrongState s

def execRetrain (tag : Tag) (pod : Word) (s : State) : Outcome :=
  runCommand tag typeCommand 2 (cmdRetrain pod) s

/-- The deskew list with values stored from channel `first` upward, each clamped to 15 (R12). -/
def storeDeskew (deskew : List Nat) (first : Nat) (values : List Word) : List Nat :=
  match values with
  | [] => deskew
  | v :: rest => storeDeskew (deskew.set first (min v.toNat 15)) (first + 1) rest

/-- SET_DESKEW (R12). -/
def cmdSetDeskew (first : Word) (values : List Word) : Command := fun s =>
  if 31 < first.toNat ∨ values = [] ∨ 32 < first.toNat + values.length then refuse .badArgument s
  else if s.time.sampling then refuse .busy s
  else accept [] { s with pods := { s.pods with deskew := storeDeskew s.pods.deskew first.toNat values } }

def execSetDeskew (tag : Tag) (first : Word) (values : List Word) (s : State) : Outcome :=
  runCommand tag typeCommand 3 (cmdSetDeskew first values) s

/-- SET_GLITCH (R12). -/
def cmdSetGlitch (pod width : Word) : Command := fun s =>
  match podOf pod with
  | none => refuse .badArgument s
  | some p =>
    if s.time.sampling then refuse .busy s
    else accept [] (modLink p (fun k => { k with glitchWidth := min width.toNat 7 }) s)

def execSetGlitch (tag : Tag) (pod width : Word) (s : State) : Outcome :=
  runCommand tag typeCommand 4 (cmdSetGlitch pod width) s

/-- The eight channels of a pod as a mask. -/
def podMask (p : Pod) : BitVec 32 := 0xFF#32 <<< (8 * p.val)

/-- POD_STATUS: the report, and the pod's accumulator bits cleared (R15, R16). DESIGN CHOICE (log 22): the eight accumulator
bits, whose layout R16 leaves open, are bits 0 to 7 of the last word, the pod's first channel at bit 0. -/
def cmdPodStatus (pod : Word) : Command := fun s =>
  match podOf pod with
  | none => refuse .badArgument s
  | some p =>
    let k := s.pods.links[p]
    let report := [k.state.code, k.kind.code, word k.lockRun, word k.words, word k.badRun, k.code.zeroExtend 32,
        k.hyst.zeroExtend 32, flagWord k.confirmed] ++ optWord (k.wait.map word) ++ [word k.glitchWidth]
      ++ (List.range 8).map (fun i => word (s.pods.deskew.getD (8 * p.val + i) 0))
      ++ [(s.pods.accumulator &&& podMask p) >>> (8 * p.val)]
    accept report { s with pods := { s.pods with accumulator := s.pods.accumulator &&& ~~~podMask p } }

def execPodStatus (tag : Tag) (pod : Word) (s : State) : Outcome :=
  runCommand tag typeCommand 5 (cmdPodStatus pod) s

end Sys2Proof.Machine
end

