-- ==== Sys2Proof/Machine/Tables.lean ====
section
/-! DEFINITION. Chapter 5: frame table images, the static rules, the decode pool, and the commands of the frame tables block
(R94 to R110). -/

namespace Sys2Proof.Machine

/-! ## Codes of a frame table image (section 11.3) -/

def parityOf (n : Nat) : Option Parity :=
  match n with
  | 0 => some .none
  | 1 => some .even
  | 2 => some .odd
  | 3 => some .mark
  | 4 => some .space
  | _ => none

def stopBitsOf (n : Nat) : Option StopBits :=
  match n with
  | 0 => some .one
  | 1 => some .oneHalf
  | 2 => some .two
  | _ => none

def roleOf (n : Nat) : Option Role :=
  match n with
  | 0 => some .address
  | 1 => some .command
  | 2 => some .length
  | 3 => some .data
  | 4 => some .check
  | 5 => some .other
  | _ => none

def checkKindOf (n : Nat) : Option CheckKind :=
  match n with
  | 0 => some .none
  | 1 => some .xor8
  | 2 => some .sum8
  | 3 => some .crc8
  | 4 => some .crc16
  | _ => none

/-- Five-bit two's complement (section 11.3). -/
def signed5 (n : Nat) : Int := if n < 16 then (n : Int) else (n : Int) - 32

/-! ## Entries (R103) -/

/-- The repeat of an entry's words. -/
def repeatOf (w0 w1 : Word) : Repeat :=
  match field w0 20 2 with
  | 0 => .once
  | 1 => .fixed (field w1 0 9)
  | 2 => .byLength (field w1 0 5) (signed5 (field w1 16 5))
  | _ => .toEnd

/-- An entry from its four words; none when its role code is not listed (section 11.3). -/
def parseEntry (w0 w1 w2 w3 : Word) : Option Entry :=
  match roleOf (field w0 16 3) with
  | none => none
  | some role =>
    some {
      name := field w0 0 5
      width := field w0 8 6
      lsbFirst := flag w0 15
      role := role
      rep := repeatOf w0 w1
      inCheck := flag w0 22
      branch := if flag w0 23 then some ⟨w2, w3, field w1 24 4, field w0 24 5⟩ else none }

/-- The repeat rules of R103 that concern the entry at index `i` of `n`. -/
def Entry.repeatOk (e : Entry) (earlier : List Entry) (i n : Nat) (endOnLast : Bool) : Bool :=
  match e.rep with
  | .once => true
  | .fixed k => decide (e.role = .data) && decide (1 ≤ k) && decide (k ≤ 256)
  | .byLength ref off =>
    decide (e.role = .data) && decide (-8 ≤ off) && decide (off ≤ 8)
      && (match earlier[ref]? with
          | some r => decide (r.role = .length)
          | none => false)
  | .toEnd => decide (e.role = .data) && decide (i + 1 = n) && !endOnLast

/-- The branch rules of R103. -/
def Entry.branchOk (e : Entry) (i n : Nat) : Bool :=
  match e.branch with
  | none => true
  | some b => decide (e.rep = .once) && decide (e.role ≠ .check) && decide (i < b.target) && decide (b.target < n)

/-- Entries of a list with a role other than DATA. -/
def nonData (es : List Entry) : Nat := (es.filter fun e => decide (e.role ≠ .data)).length

/-- Branches of a list of entries. -/
def branchCount (es : List Entry) : Nat := (es.filter fun e => e.branch.isSome).length

/-- Every rule of R103 at the entry `e` of index `i` among `n`, after the entries `earlier`. DESIGN CHOICE (log 19) for the
rules over the whole table, of which R107 does not say which part is at fault: a seventeenth entry that is not DATA, a fifth
branch, and TO_END with end-on-last-entry are charged to the entry itself, and a wrong number or width of CHECK entries to the
check (`parseCheck`). -/
def Entry.ok (e : Entry) (earlier : List Entry) (i n : Nat) (endOnLast : Bool) : Bool :=
  decide (1 ≤ e.width) && decide (e.width ≤ 32) && e.repeatOk earlier i n endOnLast
    && !(decide (e.role = .check) && e.inCheck) && e.branchOk i n
    && decide (nonData (earlier ++ [e]) ≤ 16) && decide (branchCount (earlier ++ [e]) ≤ 4)

/-- The entries of an image, judged in index order: the entries, or the index of the first at fault (R103, R107). `i` is the
index of the next, `n` the declared count. -/
def parseEntries (words : List Word) (endOnLast : Bool) (n : Nat) (earlier : List Entry) (i : Nat) :
    Except Nat (List Entry) :=
  match words with
  | w0 :: w1 :: w2 :: w3 :: rest =>
    match parseEntry w0 w1 w2 w3 with
    | none => .error i
    | some e =>
      if e.ok earlier i n endOnLast then parseEntries rest endOnLast n (earlier ++ [e]) (i + 1) else .error i
  | _ => .ok earlier

/-! ## Front end, frame parameters and check (R104, R105) -/

/-- START-STOP parameters (R95, R104). -/
def parseStartStop (f0 f1 : Word) : Option FrontEnd :=
  match parityOf (field f0 20 3), stopBitsOf (field f0 24 2) with
  | some parity, some stop =>
    let bits := field f0 16 4
    if 512 ≤ f1.toNat ∧ f1.toNat ≤ 16777216 ∧ 5 ≤ bits ∧ bits ≤ 9 then
      some (.startStop ⟨field f0 8 5, flag f0 13, f1.toNat, bits, parity, stop, flag f0 26⟩)
    else none
  | _, _ => none

/-- The data channels of a STROBED front end: bytes 0 to `count` - 1 of front-end word 1. -/
def dataChannels (f1 : Word) (count : Nat) : List Nat := (List.range count).map fun i => field f1 (8 * i) 8

/-- STROBED parameters (R96, R104). -/
def parseStrobed (f0 f1 f2 : Word) : Option FrontEnd :=
  match edgeOf (field f0 13 2) with
  | none => none
  | some edge =>
    let count := field f0 24 3
    let p : Strobed :=
      ⟨field f0 8 5, edge, if flag f0 15 then some (field f0 16 5) else none, flag f0 21, dataChannels f1 count,
        f2.toNat⟩
    if 1 ≤ count ∧ count ≤ 4 ∧ 4 ≤ p.width ∧ p.width ≤ 32 ∧ p.width % count = 0 ∧ p.data.all (· < 32)
        ∧ (FrontEnd.strobed p).channels.Nodup then
      some (.strobed p)
    else none

/-- TWO-WIRE parameters (R97, R104). -/
def parseTwoWire (f0 : Word) : Option FrontEnd :=
  let clock := field f0 8 5
  let data := field f0 16 5
  if clock = data then none else some (.twoWire ⟨clock, data, flag f0 24⟩)

/-- The front end of an image; none when it breaks a rule of R104. -/
def parseFrontEnd (f0 f1 f2 : Word) : Option FrontEnd :=
  match field f0 0 2 with
  | 0 => parseStartStop f0 f1
  | 1 => parseStrobed f0 f1 f2
  | 2 => parseTwoWire f0
  | _ => none

/-- The check of an image against its entries; none when it breaks a rule of R105. -/
def parseCheck (c0 c1 c2 c3 : Word) (es : List Entry) : Option Check :=
  let checks := es.filter fun e => decide (e.role = .check)
  let widthIs := fun (w : Nat) => decide (checks.length = 1) && checks.all fun e => e.width == w
  match checkKindOf (field c0 0 3) with
  | none => none
  | some kind =>
    let c : Check := ⟨kind, c1.toNat, c2.toNat, c3.toNat, flag c0 8, flag c0 9⟩
    let below := fun (n : Nat) => decide (c.poly < n) && decide (c.init < n) && decide (c.xorOut < n)
    match kind with
    | .none => if checks.isEmpty then some c else none
    | .xor8 => if widthIs 8 then some c else none
    | .sum8 => if widthIs 8 then some c else none
    | .crc8 => if widthIs 8 && below 256 then some c else none
    | .crc16 => if widthIs 16 && below 65536 then some c else none

/-- The word of an image at a place. -/
def wordAt (image : List Word) (i : Nat) : Word := image.getD i 0

/-- The entry count an image declares. -/
def imageCount (image : List Word) : Nat := (wordAt image 10).toNat

/-- A table image of the right length judged by R103, R104 and R105: the table, or the result word of a refusal under case 4
of R107 (the order of the three rules is log 19). -/
def parseTable (image : List Word) : Except Word FrameTable :=
  let n := imageCount image
  let endOnLast := flag (wordAt image 5) 0
  if n < 1 ∨ 32 < n then .error (Config.entryCountFault (wordAt image 10))
  else
    match parseEntries (image.drop 11) endOnLast n [] 0 with
    | .error i => .error (word i)
    | .ok es =>
      match parseFrontEnd (wordAt image 0) (wordAt image 1) (wordAt image 2) with
      | none => .error 32
      | some front =>
        let limit := (wordAt image 3).toNat
        let gap := (wordAt image 4).toNat
        if limit < 1 ∨ 256 < limit ∨ gap < 1 then .error 33
        else
          match parseCheck (wordAt image 6) (wordAt image 7) (wordAt image 8) (wordAt image 9) es with
          | none => .error 34
          | some check => .ok ⟨front, limit, gap, endOnLast, check, es⟩

/-! ## The decode pool (R106) -/

/-- The charge of a table. -/
def FrameTable.charge (t : FrameTable) : Charge :=
  ⟨t.entries.length, branchCount t.entries, if t.check.kind = .none then 0 else 1⟩

def Charge.add (a b : Charge) : Charge := ⟨a.entries + b.entries, a.branches + b.branches, a.checks + b.checks⟩
def Charge.sub (a b : Charge) : Charge := ⟨a.entries - b.entries, a.branches - b.branches, a.checks - b.checks⟩

/-- No resource of `a` exceeds the same of `b`. -/
def Charge.within (a b : Charge) : Bool :=
  decide (a.entries ≤ b.entries) && decide (a.branches ≤ b.branches) && decide (a.checks ≤ b.checks)

def Charge.words (a : Charge) : List Word := [word a.entries, word a.branches, word a.checks]

/-- A slot takes a table, or is emptied: the new charge is taken from the amounts available and recorded (R106). -/
def Tables.put (tb : Tables) (l : LaneId) (t : Option FrameTable) : Tables :=
  let charge := (t.map FrameTable.charge).getD ⟨0, 0, 0⟩
  ⟨tb.slots.set l ⟨t, charge⟩, (tb.free.add (tb.slots[l]).charge).sub charge⟩

/-- Change the frame tables. -/
def setTables (tb : Tables) (s : State) : State := { s with tables := tb }

/-! ## Commands -/

/-- LOAD_FRAME_TABLE (R107). -/
def cmdLoadFrameTable (lane : Word) (image : List Word) : Command := fun s =>
  match laneOf lane with
  | none => refuse .badArgument s
  | some l =>
    if (s.lanes[l]).state ≠ .off then refuse .laneActive s
    else if image.length ≠ 11 + 4 * imageCount image then refuse .badLength s
    else
      match parseTable image with
      | .error w => (⟨.badArgument, [w]⟩, s)
      | .ok t =>
        let available := s.tables.free.add (s.tables.slots[l]).charge
        if t.charge.within available then
          let tb := s.tables.put l (some t)
          accept (t.charge.words ++ tb.free.words) (setTables tb s)
        else (⟨.noResource, available.words⟩, s)

def execLoadFrameTable (tag : Tag) (lane : Word) (image : List Word) (s : State) : Outcome :=
  runCommand tag typeTable 1 (cmdLoadFrameTable lane image) s

/-- UNLOAD_TABLE (R108). -/
def cmdUnloadTable (lane : Word) : Command := fun s =>
  match laneOf lane with
  | none => refuse .badArgument s
  | some l =>
    if (s.lanes[l]).state ≠ .off then refuse .laneActive s
    else if (s.tables.slots[l]).table.isNone then accept [0] s
    else accept [1] (setTables (s.tables.put l none) s)

def execUnloadTable (tag : Tag) (lane : Word) (s : State) : Outcome :=
  runCommand tag typeCommand 24 (cmdUnloadTable lane) s

/-- A slot's words in TABLE_STATUS (R110). DESIGN CHOICE (log 22): the state word, 0 for EMPTY and 1 for LOADED, serves as the
presence of the items after it, and an EMPTY slot gives six zero words in their place. -/
def Slot.words (sl : Slot) : List Word :=
  match sl.table with
  | none => [0, 0, 0, 0, 0, 0, 0]
  | some t => [1, t.front.code, t.channelMask, t.check.kind.code] ++ sl.charge.words

/-- TABLE_STATUS (R110). -/
def cmdTableStatus : Command := fun s => accept (s.tables.free.words ++ s.tables.slots.toList.flatMap Slot.words) s

def execTableStatus (tag : Tag) (s : State) : Outcome := runCommand tag typeCommand 25 cmdTableStatus s

end Sys2Proof.Machine
end

