-- ==== Sys2Proof/Machine/Timebase.lean ====
section
/-! DEFINITION. Chapter 2: the timebase commands, the wall clock, its correction and the roll-refresh event (R20, R21, R29 to
R35). -/

namespace Sys2Proof.Machine

/-- Change the timebase. -/
def setTime (t : Timebase) (s : State) : State := { s with time := t }

/-! ## The wall clock (R30 to R33, R35) -/

/-- Reference counts of a correction interval (R32). -/
def Timebase.intervalLength (t : Timebase) : Nat := if t.corrLong then 1966080 else 327680

/-- Reference counts of the roll-refresh period (R35). -/
def Timebase.rollCounts (t : Timebase) : Nat := 2048 * 2 ^ t.rollPeriod

/-- What one reference count does to the wall clock. -/
structure ClockStep where
  time : Timebase
  /-- the seconds advance -/
  carry : Bool
  /-- the correction interval ends -/
  ended : Bool
  /-- the subsecond reaches or passes a multiple of the roll-refresh period -/
  roll : Bool
  deriving DecidableEq, Repr

/-- One count of the 32,768 Hz reference: the advance of R30 unless withheld, the interval count, and at the interval's end the
correction of R33. -/
def Timebase.count (t : Timebase) : ClockStep :=
  let ended := decide (t.intervalLength ≤ t.intervalCount + 1)
  let advanced := if 0 < t.withheld then t.subsecond else t.subsecond + 1
  let added := if ended && decide (t.corrDir = .plus) then t.corrAmount else 0
  let total := advanced + added
  let carry := decide (32768 ≤ total)
  ⟨{ t with
      subsecond := total % 32768
      seconds := if carry then t.seconds + 1 else t.seconds
      intervalCount := if ended then 0 else t.intervalCount + 1
      withheld := if ended && decide (t.corrDir = .minus) then t.corrAmount else t.withheld - 1 },
    carry, ended, decide (t.subsecond / t.rollCounts ≠ total / t.rollCounts)⟩

/-- The part at one reference count: the clock, the sequencer that receives changed seconds (R34, R73), and the roll-refresh
event (R35). -/
def referenceCount (s : State) : State :=
  let c := s.time.count
  let s1 := setTime c.time s
  let s2 := if c.carry then secondsChanged s1 else s1
  if c.roll then rollUpdate s2 else s2

/-- WALL_CLOCK_REFERENCE_COUNT (R30). -/
def execWallClockReferenceCount (s : State) : Outcome := .next (referenceCount s)

/-- SECONDS_ADVANCE: the reference count that carries into the seconds (R30; log 5); otherwise nothing changes. -/
def execSecondsAdvance (s : State) : Outcome := .next (if s.time.count.carry then referenceCount s else s)

/-- CORRECTION_INTERVAL_END: the reference count that ends the interval (R32, R33; log 5); otherwise nothing changes. -/
def execCorrectionIntervalEnd (s : State) : Outcome := .next (if s.time.count.ended then referenceCount s else s)

/-- ROLL_REFRESH: the reference count at which the event is emitted (R35; log 5); otherwise nothing changes. -/
def execRollRefresh (s : State) : Outcome := .next (if s.time.count.roll then referenceCount s else s)

/-! ## Commands -/

/-- Some lane is not OFF with source LIVE. -/
def someLaneLive (s : State) : Bool := s.lanes.toList.any Lane.live

/-- SET_TIMEBASE (R21). -/
def cmdSetTimebase (d mode chan edge mask value : Word) : Command := fun s =>
  if s.time.sampling then refuse .busy s
  else
    match modeOf mode.toNat, edgeOf edge.toNat with
    | some m, some e =>
      if 31 < chan.toNat then refuse .badArgument s
      else if m = .state ∧ someLaneLive s then refuse .laneActive s
      else
        let divider := clamp 1 65536 d.toNat
        let qMask := mask &&& ~~~bitMask chan.toNat
        let qValue := value &&& qMask
        accept [word divider, qMask, qValue]
          (setTime { s.time with
            divider := divider, mode := m, clockChan := chan.toNat, clockEdge := e, qMask := qMask, qValue := qValue } s)
    | _, _ => refuse .badArgument s

def execSetTimebase (tag : Tag) (d mode chan edge mask value : Word) (s : State) : Outcome :=
  runCommand tag typeCommand 6 (cmdSetTimebase d mode chan edge mask value) s

/-- TIMEBASE_STATUS (R29). -/
def cmdTimebaseStatus : Command := fun s =>
  let t := s.time
  accept ([word t.divider, t.mode.code, word t.clockChan, t.clockEdge.code, t.qMask, t.qValue, flagWord t.sampling]
    ++ optTimeWords t.tick
    ++ [t.seconds, word t.subsecond, t.corrDir.code, word t.corrAmount, flagWord t.corrLong, word t.intervalCount,
      word t.withheld, word t.rollPeriod]) s

def execTimebaseStatus (tag : Tag) (s : State) : Outcome := runCommand tag typeCommand 7 cmdTimebaseStatus s

/-- SET_CLOCK (R31). -/
def cmdSetClock (seconds : Word) : Command := fun s =>
  accept [] (secondsChanged
    (setTime { s.time with seconds := seconds, subsecond := 0, intervalCount := 0, withheld := 0 } s))

def execSetClock (tag : Tag) (seconds : Word) (s : State) : Outcome :=
  runCommand tag typeCommand 8 (cmdSetClock seconds) s

/-- SET_CORRECTION (R32). -/
def cmdSetCorrection (dir amount interval : Word) : Command := fun s =>
  match directionOf dir.toNat, switchOf interval with
  | some d, some long =>
    let a := min amount.toNat 63
    accept [word a]
      (setTime { s.time with corrDir := d, corrAmount := a, corrLong := long, intervalCount := 0, withheld := 0 } s)
  | _, _ => refuse .badArgument s

def execSetCorrection (tag : Tag) (dir amount interval : Word) (s : State) : Outcome :=
  runCommand tag typeCommand 9 (cmdSetCorrection dir amount interval) s

/-- SET_ROLL_PERIOD (R35). -/
def cmdSetRollPeriod (code : Word) : Command := fun s =>
  if 4 < code.toNat then refuse .badArgument s
  else accept [] (setTime { s.time with rollPeriod := code.toNat } s)

def execSetRollPeriod (tag : Tag) (code : Word) (s : State) : Outcome :=
  runCommand tag typeCommand 10 (cmdSetRollPeriod code) s

end Sys2Proof.Machine
end

