-- ==== Sys2Proof/Machine/TriggerCommands.lean ====
section
/-! DEFINITION. Chapter 4: trigger program images and their static rules, the commands of the trigger sequencer, and the steps
DIVIDER_OUTPUT and COUNTER_MATCH (R66 to R91, R215). -/

namespace Sys2Proof.Machine

/-! ## Images (section 11.3) -/

/-- A term source code (section 11.3). -/
def termSourceOf (n : Nat) : Option TermSource :=
  if h : n < 8 then some (.pattern ⟨n, h⟩)
  else if h : n - 8 < 8 then some (.edge ⟨n - 8, h⟩)
  else if n = 16 then some .glitch
  else if n = 17 then some .external
  else if h : n - 18 < 4 then some (.counter ⟨n - 18, h⟩)
  else if h : n - 22 < 4 then some (.field ⟨n - 22, h⟩)
  else if n = 26 then some .always
  else none

/-- The unit settings of an image that terms may name. -/
structure Units where
  patterns : Vector (Option PatternUnit) 8
  edges : Vector (Option EdgeUnit) 8
  glitchUnit : Option Word
  comps : Vector (Option Comparator) 4

/-- A source exists: its unit is defined, or it always exists (R67). -/
def Units.defines (u : Units) (src : TermSource) : Bool :=
  match src with
  | .pattern n => (u.patterns[n]).isSome
  | .edge n => (u.edges[n]).isSome
  | .glitch => u.glitchUnit.isSome
  | .field n => (u.comps[n]).isSome
  | .external => true
  | .counter _ => true
  | .always => true

/-- A counter with source TERM may name the source (R67). -/
def Units.counts (u : Units) (src : TermSource) : Bool :=
  match src with
  | .counter _ => false
  | .always => false
  | .pattern n => u.defines (.pattern n)
  | .edge n => u.defines (.edge n)
  | .glitch => u.defines .glitch
  | .external => true
  | .field n => u.defines (.field n)

/-- Word `i` of the image: 0 is the stage count. -/
def imageAt (image : List Word) (i : Nat) : Word := image.getD i 0

/-- Pattern unit from its three words (LEVEL 0, ENTERED 1). -/
def parsePattern (w mask value : Word) : Option PatternUnit :=
  if flag w 0 then some ⟨mask, value, flag w 1⟩ else none

/-- Edge unit from its two words; the outer none is a code that is not listed (log 20). -/
def parseEdge (w mask : Word) : Option (Option EdgeUnit) :=
  match edgeOf (field w 1 2) with
  | none => none
  | some e => some (if flag w 0 then some ⟨mask, e⟩ else none)

def comparisonOf (n : Nat) : Option Comparison :=
  match n with
  | 0 => some .eq
  | 1 => some .ge
  | 2 => some .le
  | _ => none

/-- The data item of a comparator; the outer none is a broken rule of R83. -/
def parseDataItem (w value mask : Word) : Option DataItem :=
  let offset := field w 0 6
  let length := field w 8 3
  if 1 ≤ length ∧ length ≤ 4 ∧ offset + length ≤ 64 then some ⟨offset, length, value, mask⟩ else none

/-- Field comparator from its eight words, at `i` of the image; the outer none is a broken static rule (R67, R83). -/
def parseComparator (image : List Word) (i : Nat) : Option (Option Comparator) :=
  let w := imageAt image i
  match comparisonOf (field w 16 2) with
  | none => none
  | some cmp =>
    if flag w 0 then
      match laneOf (word (field w 1 3)) with
      | none => none
      | some lane =>
        let data := parseDataItem (imageAt image (i + 4)) (imageAt image (i + 5)) (imageAt image (i + 6))
        let count := (imageAt image (i + 7)).toNat
        if (flag w 7 && data.isNone) || (flag w 8 && decide (65535 < count)) then none
        else
          some (some {
            lane := lane
            kindTag := if flag w 4 then some (BitVec.ofNat 4 (field w 12 4)) else none
            codes := if flag w 5 then some (BitVec.ofNat 7 (field (imageAt image (i + 1)) 0 7)) else none
            address := if flag w 6 then some (imageAt image (i + 2), imageAt image (i + 3)) else none
            data := if flag w 7 then data else none
            units := if flag w 8 then some (cmp, count) else none })
    else some none

/-- The units of an image (words 1 to 42 and 53 to 84); none when a code or a comparator breaks a static rule (R67, R213).
DESIGN CHOICE (log 21): the glitch unit's word 'defined', to which section 11.3 gives no bit, counts by bit 0, and its other
bits are unread. -/
def parseUnits (image : List Word) : Option Units :=
  let at_ := imageAt image
  let pat := fun i => parsePattern (at_ (1 + 3 * i)) (at_ (2 + 3 * i)) (at_ (3 + 3 * i))
  let edge := fun i => parseEdge (at_ (25 + 2 * i)) (at_ (26 + 2 * i))
  match edge 0, edge 1, edge 2, edge 3, edge 4, edge 5, edge 6, edge 7,
      parseComparator image 53, parseComparator image 61, parseComparator image 69, parseComparator image 77 with
  | some e0, some e1, some e2, some e3, some e4, some e5, some e6, some e7, some c0, some c1, some c2, some c3 =>
    some {
      patterns := #v[pat 0, pat 1, pat 2, pat 3, pat 4, pat 5, pat 6, pat 7]
      edges := #v[e0, e1, e2, e3, e4, e5, e6, e7]
      glitchUnit := if flag (at_ 41) 0 then some (at_ 42) else none
      comps := #v[c0, c1, c2, c3] }
  | _, _, _, _, _, _, _, _, _, _, _, _ => none

/-- Counter `k` as a load leaves it: settings from its two words, value 0, everything clear (R66); none when its TERM source
may not be counted (R67). DESIGN CHOICE (log 42): the term source code of a counter whose source is not TERM is not judged. -/
def parseCounter (u : Units) (w compare : Word) : Option Counter :=
  let make := fun (src : CounterSource) => some (⟨0, false, flag w 0, src, compare, compare, false, false, false⟩ : Counter)
  match field w 1 2 with
  | 0 => make .sample
  | 1 => make .divX
  | 2 => make .divY
  | _ =>
    match termSourceOf (field w 8 5) with
    | none => none
    | some src => if u.counts src then make (.term src) else none

/-- Term `k` of a stage word of terms: byte `k` (section 11.3); none when its source does not exist (R67). -/
def parseTerm (u : Units) (w : Word) (k : Nat) : Option Term :=
  match termSourceOf (field w (8 * k) 5) with
  | none => none
  | some src => if u.defines src then some ⟨src, flag w (8 * k + 7)⟩ else none

/-- All of a list, or none. -/
def allSome {α : Type} (xs : List (Option α)) : Option (List α) :=
  match xs with
  | [] => some []
  | none :: _ => none
  | some x :: rest => (allSome rest).map (x :: ·)

/-- A condition: its terms' word, their number and the combination (AND 0, OR 1). -/
def parseCondition (u : Units) (terms : Word) (count : Nat) (any : Bool) : Option Condition :=
  if 4 < count then none
  else (allSome ((List.range count).map (parseTerm u terms))).map fun ts => ⟨ts, any⟩

/-- A target: a stage below the stage count, or 8 for TRIGGER (section 11.3, R67). -/
def parseTarget (stages n : Nat) : Option Target :=
  if n < stages then some (.stage n) else if n = 8 then some .trigger else none

def actionOf (n : Nat) : Action :=
  match n with
  | 0 => .keep
  | 1 => .clear
  | 2 => .run
  | _ => .halt

/-- The alternate of a stage; the outer none is a broken static rule. An absent one is not judged (log 20). -/
def parseAlternate (u : Units) (stages : Nat) (terms w : Word) : Option (Option (Condition × Target)) :=
  if flag w 8 then
    match parseCondition u terms (field w 9 3) (flag w 12), parseTarget stages (field w 13 4) with
    | some c, some t => some (some (c, t))
    | _, _ => none
  else some none

/-- A stage from its four words. -/
def parseStage (u : Units) (stages : Nat) (w0 w1 w2 w3 : Word) : Option Stage :=
  match parseCondition u w0 (field w2 0 3) (flag w2 3), parseTarget stages (field w2 4 4),
      parseAlternate u stages w1 w2 with
  | some c, some t, some alt =>
    some {
      advance := c
      advanceTo := t
      alternate := alt
      actions := #v[actionOf (field w3 0 2), actionOf (field w3 2 2), actionOf (field w3 4 2), actionOf (field w3 6 2)]
      restartX := flag w3 8
      restartY := flag w3 9
      watch := flag w3 10 }
  | _, _, _ => none

/-- The stages of an image, four words each. -/
def parseStages (u : Units) (stages : Nat) (words : List Word) : List (Option Stage) :=
  match words with
  | w0 :: w1 :: w2 :: w3 :: rest => parseStage u stages w0 w1 w2 w3 :: parseStages u stages rest
  | _ => []

/-- A divider as a load leaves it: the ratio clamped, phase 0 (R66). -/
def loadDivider (w : Word) : DividerUnit := ⟨clamp 1 65536 w.toNat, 0⟩

/-- The sequencer once an image of the right length is in force; none when it breaks a static rule (R66, R67). -/
def Trigger.load (t : Trigger) (image : List Word) : Option Trigger :=
  let n := (imageAt image 0).toNat
  if n < 1 ∨ 8 < n then none
  else
    match parseUnits image with
    | none => none
    | some u =>
      let k := fun i => parseCounter u (imageAt image (43 + 2 * i)) (imageAt image (44 + 2 * i))
      match k 0, k 1, k 2, k 3, allSome (parseStages u n (image.drop 85)) with
      | some k0, some k1, some k2, some k3, some stages =>
        some { t with
          stage := 0
          stages := stages
          patterns := u.patterns
          edges := u.edges
          glitchUnit := u.glitchUnit
          comps := u.comps
          counters := #v[k0, k1, k2, k3]
          divX := loadDivider (imageAt image 51)
          divY := loadDivider (imageAt image 52)
          latches := Vector.replicate 4 none }
      | _, _, _, _, _ => none

/-! ## Commands -/

/-- LOAD_TRIGGER (R66, R215). -/
def cmdLoadTrigger (image : List Word) : Command := fun s =>
  if s.trigger.state ≠ .idle then refuse .busy s
  else if image.length ≠ 85 + 4 * (imageAt image 0).toNat then refuse .badLength s
  else
    match s.trigger.load image with
    | none => refuse .badArgument s
    | some t => accept [word t.stages.length] (setTrigger t s)

def execLoadTrigger (tag : Tag) (image : List Word) (s : State) : Outcome :=
  runCommand tag typeTable 0 (cmdLoadTrigger image) s

/-- SET_ARM_TIME (R73). -/
def cmdSetArmTime (pres seconds : Word) : Command := fun s =>
  if s.trigger.state ≠ .idle then refuse .busy s
  else accept [] (setTrigger { s.trigger with armTime := if present pres then some seconds else none } s)

def execSetArmTime (tag : Tag) (pres seconds : Word) (s : State) : Outcome :=
  runCommand tag typeCommand 19 (cmdSetArmTime pres seconds) s

/-- A counter once SET_COUNTER has written it (R79). -/
def Counter.write (c : Counter) (v : Word) : Counter :=
  { c with value := v, matched := false, latch := false, suppress := true }

/-- SET_COUNTER (R79). -/
def cmdSetCounter (k value : Word) : Command := fun s =>
  match counterOf k with
  | none => refuse .badArgument s
  | some i =>
    accept [] (setTrigger { s.trigger with counters := s.trigger.counters.set i ((s.trigger.counters[i]).write value) } s)

def execSetCounter (tag : Tag) (k value : Word) (s : State) : Outcome :=
  runCommand tag typeCommand 20 (cmdSetCounter k value) s

/-- A counter once SET_COMPARE has written it: the active compare too while the sequencer is IDLE (R80). -/
def Counter.compare (c : Counter) (idle : Bool) (v : Word) : Counter :=
  { c with active := if idle then v else c.active, staged := v }

/-- SET_COMPARE (R80). -/
def cmdSetCompare (k value : Word) : Command := fun s =>
  match counterOf k with
  | none => refuse .badArgument s
  | some i =>
    let c := (s.trigger.counters[i]).compare (s.trigger.state == .idle) value
    accept [c.active, c.staged] (setTrigger { s.trigger with counters := s.trigger.counters.set i c } s)

def execSetCompare (tag : Tag) (k value : Word) (s : State) : Outcome :=
  runCommand tag typeCommand 21 (cmdSetCompare k value) s

/-- FORCE_TRIGGER (R88). -/
def cmdForceTrigger : Command := fun s =>
  match s.trigger.state with
  | .running => accept [] (setTrigger { s.trigger with force := true } s)
  | .waitArm => accept [] (setTrigger { s.trigger with force := true } s)
  | .idle => refuse .wrongState s
  | .triggered => refuse .wrongState s

def execForceTrigger (tag : Tag) (s : State) : Outcome := runCommand tag typeCommand 22 cmdForceTrigger s

/-- A counter's words in TRIGGER_STATUS (R91). DESIGN CHOICE (log 22): the source item is one word, so a source TERM gives its
code 3 and not the term source it names. -/
def Counter.words (c : Counter) : List Word :=
  [c.value, flagWord c.running, flagWord c.hold, c.source.code, c.active, c.staged, flagWord c.matched,
    flagWord c.latch, flagWord c.suppress]

/-- A comparator's words in TRIGGER_STATUS (R91). DESIGN CHOICE (log 22): the lane word of an undefined comparator is 0, its
defined flag serving as the presence word. -/
def comparatorWords (c : Option Comparator) (latch : Option Nat) : List Word :=
  [flagWord c.isSome, (match c with
    | none => 0
    | some x => word x.lane.val)] ++ optTimeWords latch

/-- TRIGGER_STATUS (R91). -/
def cmdTriggerStatus : Command := fun s =>
  let t := s.trigger
  accept ([t.state.code, word t.stage, word t.stages.length] ++ optWord t.armTime ++ [flagWord t.force]
    ++ t.counters.toList.flatMap Counter.words
    ++ [word t.divX.ratio, word t.divX.phase, word t.divY.ratio, word t.divY.phase]
    ++ comparatorWords t.comps[0] t.latches[0] ++ comparatorWords t.comps[1] t.latches[1]
    ++ comparatorWords t.comps[2] t.latches[2] ++ comparatorWords t.comps[3] t.latches[3]) s

def execTriggerStatus (tag : Tag) (s : State) : Outcome := runCommand tag typeCommand 23 cmdTriggerStatus s

/-! ## Events of the sequencer's own (log 6) -/

/-- A divider of the sequencer. -/
def Trigger.divider (t : Trigger) (d : DividerId) : DividerUnit :=
  match d with
  | .x => t.divX
  | .y => t.divY

/-- The source that fires at a divider's output (R77). -/
def dividerSource (d : DividerId) : CounterSource :=
  match d with
  | .x => .divX
  | .y => .divY

/-- A divider returned to phase 0. -/
def Trigger.restart (t : Trigger) (d : DividerId) : Trigger :=
  match d with
  | .x => { t with divX := { t.divX with phase := 0 } }
  | .y => { t with divY := { t.divY with phase := 0 } }

/-- DIVIDER_OUTPUT: while RUNNING, a divider whose next raise brings its phase to the ratio gives its output: phase 0, and the
counters that count it step (R77, R82); otherwise nothing changes. -/
def execDividerOutput (d : DividerId) (s : State) : Outcome :=
  let u := s.trigger.divider d
  .next (if s.trigger.state = .running ∧ u.ratio ≤ u.phase + 1 then
    setTrigger ((s.trigger.restart d).stepSource (dividerSource d)) s else s)

/-- COUNTER_MATCH: while RUNNING, a running counter whose next step is a match steps (R78); otherwise nothing changes. -/
def execCounterMatch (k : CounterId) (s : State) : Outcome :=
  let c := s.trigger.counters[k]
  .next (if s.trigger.state = .running ∧ c.matchDue then
    setTrigger { s.trigger with counters := s.trigger.counters.set k c.step } s else s)

end Sys2Proof.Machine
end

