-- ==== Sys2Proof/Machine/View.lean ====
section
/-! DEFINITION. Chapter 8: the commands of the view engine and the step PASS_COLUMN_COMPUTED (R162 to R167, R175, R178,
R179). -/

namespace Sys2Proof.Machine

/-! ## Viewport (R162 to R167) -/

/-- SET_VIEW (R162). -/
def cmdSetView (seg : Word) (t0 q : DWord) (roll : Word) : Command := fun s =>
  match switchOf roll with
  | none => refuse .badArgument s
  | some r =>
    if s.capture.layout ≤ seg.toNat then refuse .badArgument s
    else if (segAt s seg.toNat).state = .empty then refuse .wrongState s
    else
      let t := clampT0 t0.toNat
      let w := clampQ q.toNat
      accept (timeWords t ++ timeWords w)
        (viewRequest (setView { s.view with seg := seg.toNat, t0 := t, q := w, roll := r } s))

def execSetView (tag : Tag) (seg : Word) (t0 q : DWord) (roll : Word) (s : State) : Outcome :=
  runCommand tag typeCommand 33 (cmdSetView seg t0 q roll) s

/-- ZOOM (R163). -/
def cmdZoom (pivot : Word) (q : DWord) : Command := fun s =>
  if 719 < pivot.toNat then refuse .badArgument s
  else
    let w := clampQ q.toNat
    let time := columnStart s.view.t0 s.view.q pivot.toNat
    let t := clampT0 ((time : Int) - (pivot.toNat * w / 256 : Nat))
    accept (timeWords t ++ timeWords w) (viewRequest (setView { s.view with t0 := t, q := w } s))

def execZoom (tag : Tag) (pivot : Word) (q : DWord) (s : State) : Outcome :=
  runCommand tag typeCommand 34 (cmdZoom pivot q) s

/-- The shift of a PAN by `d` columns (R164). -/
def panShift (d : Int) (q : Nat) : Int :=
  if 0 ≤ d then ((d.natAbs * q / 256 : Nat) : Int) else -((d.natAbs * q / 256 : Nat) : Int)

/-- PAN (R164). -/
def cmdPan (count : Word) : Command := fun s =>
  let t := clampT0 (s.view.t0 + panShift (signed count) s.view.q)
  accept (timeWords t) (viewRequest (setView { s.view with t0 := t, roll := false } s))

def execPan (tag : Tag) (count : Word) (s : State) : Outcome := runCommand tag typeCommand 35 (cmdPan count) s

/-- FIT (R165). -/
def cmdFit : Command := fun s =>
  let d := segAt s s.view.seg
  match d.oldest, d.viewLimit with
  | some oldest, some limit =>
    let w := clampQ (((limit - oldest) * 256 + 719) / 720)
    let t := clampT0 oldest
    accept (timeWords t ++ timeWords w) (viewRequest (setView { s.view with t0 := t, q := w } s))
  | _, _ => refuse .wrongState s

def execFit (tag : Tag) (s : State) : Outcome := runCommand tag typeCommand 36 cmdFit s

/-- SET_CURSOR (R167). -/
def cmdSetCursor (cursor pres : Word) (time : DWord) : Command := fun s =>
  match switchOf cursor with
  | none => refuse .badArgument s
  | some isB =>
    let t := if present pres then some (min time.toNat Config.lastTick) else none
    accept [] (viewRequest
      (setView (if isB then { s.view with cursorB := t } else { s.view with cursorA := t }) s))

def execSetCursor (tag : Tag) (cursor pres : Word) (time : DWord) (s : State) : Outcome :=
  runCommand tag typeCommand 37 (cmdSetCursor cursor pres time) s

/-! ## Measurement (R175) -/

/-- The number of the record a measurement reads first: the latest before the from time, else the oldest (R176; log 28). -/
def measureFirst (s : State) (seg fromTime : Nat) : Nat :=
  (segAt s seg).base + (indexAtOrAfter s seg fromTime - 1)

/-- A measurement that is taken: effective times, and an empty stretch finishes at once (R175). -/
def startMeasure (tag : Tag) (i chan fromTime toTime : Nat) : Command := fun s =>
  let m : MeasureRun :=
    ⟨tag, i, chan, toTime, measureFirst s i fromTime, none, fromTime, none, none, MeasureResult.zero⟩
  let s1 := setView { s.view with meas := .running m } s
  accept (timeWords fromTime ++ timeWords toTime)
    (if toTime ≤ fromTime then finishMeasure m MeasureResult.zero s1 else s1)

/-- The measurement is none. -/
def Measurement.isNone (m : Measurement) : Bool :=
  match m with
  | .none => true
  | .running _ => false
  | .waiting _ _ => false

/-- MEASURE (R175). -/
def cmdMeasure (tag : Tag) (seg chan : Word) (fromTime toTime : DWord) : Command := fun s =>
  if s.capture.layout ≤ seg.toNat ∨ 31 < chan.toNat ∨ toTime.toNat < fromTime.toNat then refuse .badArgument s
  else if s.view.pass.isSome ∨ !s.view.meas.isNone then refuse .busy s
  else
    let d := segAt s seg.toNat
    match d.oldest, d.viewLimit with
    | some oldest, some limit =>
      if d.state = .empty then refuse .wrongState s
      else if !d.mask.getLsbD chan.toNat then refuse .badArgument s
      else startMeasure tag seg.toNat chan.toNat (max fromTime.toNat oldest) (min toTime.toNat limit) s
    | _, _ => refuse .wrongState s

def execMeasure (tag : Tag) (seg chan : Word) (fromTime toTime : DWord) (s : State) : Outcome :=
  runCommand tag typeCommand 38 (cmdMeasure tag seg chan fromTime toTime) s

/-! ## Column readout (R178) -/

/-- READ_COLUMNS (R178). -/
def cmdReadColumns (tag : Tag) (first count : Word) : Command := fun s =>
  if 23 < first.toNat ∨ count = 0 ∨ 24 < count.toNat then refuse .badArgument s
  else if s.view.columns.isSome then refuse .busy s
  else
    let n := min count.toNat (s.view.front.rows.length - first.toNat)
    accept [word n] (setView { s.view with columns := some ⟨tag, first.toNat, n, false⟩ } s)

def execReadColumns (tag : Tag) (first count : Word) (s : State) : Outcome :=
  runCommand tag typeCommand 39 (cmdReadColumns tag first count) s

/-! ## Status (R179) -/

/-- A snapshot's words in VIEW_STATUS. -/
def Snapshot.words (n : Snapshot) : List Word :=
  [word n.seg] ++ timeWords n.t0 ++ timeWords n.q ++ [flagWord n.roll] ++ optTimeWords n.cursorA
    ++ optTimeWords n.cursorB

/-- The snapshot of the front buffer, with its presence word (log 22). -/
def optSnapshotWords (o : Option Snapshot) : List Word :=
  match o with
  | none => List.replicate 13 0
  | some n => 1 :: n.words

/-- VIEW_STATUS (R179). -/
def cmdViewStatus : Command := fun s =>
  let v := s.view
  accept (v.snapshot.words ++ [flagWord v.pending.isSome] ++ optWord (v.pass.map fun p => word p.col)
    ++ [flagWord v.ready, v.front.passNo] ++ optSnapshotWords v.front.snap
    ++ [v.meas.code, flagWord v.columns.isSome]) s

def execViewStatus (tag : Tag) (s : State) : Outcome := runCommand tag typeCommand 40 cmdViewStatus s

/-! ## Steps -/

/-- PASS_COLUMN_COMPUTED: the pass's column needs no further access and ends (R169, R171); otherwise nothing changes. -/
def execPassColumnComputed (s : State) : Outcome :=
  match s.view.pass with
  | none => .next s
  | some p => .next (if p.needsAccess s then s else finishColumn p s)

end Sys2Proof.Machine
end

