-- ==== Sys2Proof/Machine/Packets.lean ====
section
/-! DEFINITION. Chapter 10: downstream packets, how the Uplink judges them (R199, sections 11.1 to 11.3), the commands of the
Uplink, and the taking of a command by its owning block (R198). -/

namespace Sys2Proof.Machine

/-- Change the Uplink. -/
def setUplink (u : Uplink) (s : State) : State := { s with uplink := u }

/-! ## Commands of the Uplink (R204, R205, R207 to R209) -/

/-- A mask with no bit beyond a block's events. -/
def maskFits (b : Fin 7) (mask : Word) : Bool := decide (mask.toNat < 2 ^ eventCount b)

/-- CLEAR_EVENTS (R204). -/
def cmdClearEvents (block mask : Word) : Command := fun s =>
  match blockOf block with
  | none => refuse .badArgument s
  | some b =>
    if !maskFits b mask then refuse .badArgument s
    else
      let e := (s.events[b]).clear mask
      accept [e.events] { s with events := s.events.set b e }

def execClearEvents (tag : Tag) (block mask : Word) (s : State) : Outcome :=
  runCommand tag typeCommand 47 (cmdClearEvents block mask) s

/-- SET_ENABLES (R205). -/
def cmdSetEnables (block mask : Word) : Command := fun s =>
  match blockOf block with
  | none => refuse .badArgument s
  | some b =>
    if !maskFits b mask then refuse .badArgument s
    else accept [(s.events[b]).enables] { s with events := s.events.set b ((s.events[b]).enable mask) }

def execSetEnables (tag : Tag) (block mask : Word) (s : State) : Outcome :=
  runCommand tag typeCommand 48 (cmdSetEnables block mask) s

/-- EVENT_STATUS (R207). -/
def cmdEventStatus : Command := fun s =>
  accept (s.events.toList.flatMap (fun e => [e.events, e.enables, flagWord e.due])
    ++ [word s.uplink.noticePtr.val, flagWord (attn s)]) s

def execEventStatus (tag : Tag) (s : State) : Outcome := runCommand tag typeCommand 49 cmdEventStatus s

/-- IDENTIFY (R208). -/
def cmdIdentify : Command := fun s =>
  accept ([0x0157, 4832, 1] ++ s.pods.links.toList.map (fun k => k.kind.code) ++ [8, 1023]) s

def execIdentify (tag : Tag) (s : State) : Outcome := runCommand tag typeCommand 50 cmdIdentify s

/-- SOFT_RESET, its first event (R209). -/
def cmdSoftReset : Command := fun s => accept [] (setUplink { s.uplink with resetPending := true } s)

def execSoftReset (tag : Tag) (s : State) : Outcome := runCommand tag typeCommand 51 cmdSoftReset s

/-! ## Judging a packet (R199) -/

/-- What the Uplink makes of a packet: discarded with a response code, refused by its owning block for a code that no row of
the table carries, or a command. -/
inductive Judged where
  | discard (rc : RespCode)
  | refused (rc : RespCode)
  | command (i : Instr)
  deriving DecidableEq, Repr

/-- The code of a packet in its RESPONSE: command code or table kind, or 0 (R200, section 11.1; log 32). -/
def Packet.code (p : Packet) : BitVec 8 :=
  match p.payload with
  | [] => 0
  | w :: _ =>
    if headerType p.header = typeCommand ∨ headerType p.header = typeTable then BitVec.ofNat 8 (field w 0 8) else 0

/-- A list of the length its count word declares (R199 case 5). -/
def counted (n : Word) (values : List Word) (i : Instr) : Judged :=
  if values.length = n.toNat then .command i else .discard .badLength

/-- LANE_STOP by its kind code: GRACEFUL 0, NOW 1, and no other (R114). -/
def judgeStop (tag : Tag) (lane kind : Word) : Judged :=
  match kind.toNat with
  | 0 => .command (.laneStopGraceful tag lane)
  | 1 => .command (.laneStopNow tag lane)
  | _ => .refused .badArgument

/-- A COMMAND packet's command by its code and argument words (section 11.2, R199 cases 3 and 5). -/
def judgeCommand (tag : Tag) (code : Nat) (args : List Word) : Judged :=
  match code, args with
  | 1, [a, b, c] => .command (.setPod tag a b c)
  | 2, [a] => .command (.retrain tag a)
  | 3, a :: n :: vs => counted n vs (.setDeskew tag a vs)
  | 4, [a, b] => .command (.setGlitch tag a b)
  | 5, [a] => .command (.podStatus tag a)
  | 6, [a, b, c, d, e, f] => .command (.setTimebase tag a b c d e f)
  | 7, [] => .command (.timebaseStatus tag)
  | 8, [a] => .command (.setClock tag a)
  | 9, [a, b, c] => .command (.setCorrection tag a b c)
  | 10, [a] => .command (.setRollPeriod tag a)
  | 11, [a, b, c, d, e, f] => .command (.setCapture tag a b c d e f)
  | 12, [] => .command (.run tag)
  | 13, [] => .command (.monitor tag)
  | 14, [] => .command (.stop tag)
  | 15, [a] => .command (.readSegment tag a)
  | 16, [a, b, c] => .command (.readRecords tag a b c)
  | 17, [] => .command (.captureStatus tag)
  | 18, [] => .command (.abortRead tag)
  | 19, [a, b] => .command (.setArmTime tag a b)
  | 20, [a, b] => .command (.setCounter tag a b)
  | 21, [a, b] => .command (.setCompare tag a b)
  | 22, [] => .command (.forceTrigger tag)
  | 23, [] => .command (.triggerStatus tag)
  | 24, [a] => .command (.unloadTable tag a)
  | 25, [] => .command (.tableStatus tag)
  | 26, [a] => .command (.laneStart tag a)
  | 27, [a, k] => judgeStop tag a k
  | 28, [a, b, fl, fh, tl, th, st] => .command (.laneReplay tag a b (dword fl fh) (dword tl th) st)
  | 29, [a] => .command (.laneStatus tag a)
  | 30, [a] => .command (.setStream tag a)
  | 31, [a, b, fl, fh, n] => .command (.readFrames tag a b (dword fl fh) n)
  | 32, [] => .command (.recordPathStatus tag)
  | 33, [a, tl, th, ql, qh, r] => .command (.setView tag a (dword tl th) (dword ql qh) r)
  | 34, [a, ql, qh] => .command (.zoom tag a (dword ql qh))
  | 35, [a] => .command (.pan tag a)
  | 36, [] => .command (.fit tag)
  | 37, [a, b, tl, th] => .command (.setCursor tag a b (dword tl th))
  | 38, [a, b, fl, fh, tl, th] => .command (.measure tag a b (dword fl fh) (dword tl th))
  | 39, [a, b] => .command (.readColumns tag a b)
  | 40, [] => .command (.viewStatus tag)
  | 41, [a] => .command (.setPanel tag a)
  | 42, n :: vs => counted n vs (.setRowMap tag vs)
  | 43, a :: n :: vs => counted n vs (.setPalette tag a vs)
  | 44, [a, b, c, d, e] => .command (.overlayFill tag a b c d e)
  | 45, [a] => .command (.setBacklight tag a)
  | 46, [] => .command (.panelStatus tag)
  | 47, [a, b] => .command (.clearEvents tag a b)
  | 48, [a, b] => .command (.setEnables tag a b)
  | 49, [] => .command (.eventStatus tag)
  | 50, [] => .command (.identify tag)
  | 51, [] => .command (.softReset tag)
  | c, _ => if 1 ≤ c ∧ c ≤ 51 then .discard .badLength else .discard .unknownCommand

/-- A TABLE packet (section 11.3, R199 case 4). -/
def judgeTable (tag : Tag) (payload : List Word) : Judged :=
  match payload with
  | [] => .discard .badLength
  | kind :: rest =>
    if kind = 0 then (if rest = [] then .discard .badLength else .command (.loadTrigger tag rest))
    else if kind = 1 then
      match rest with
      | [] => .discard .badLength
      | lane :: image => if image.length < 11 then .discard .badLength else .command (.loadFrameTable tag lane image)
    else .discard .unknownCommand

/-- An OVERLAY packet (R190, R199 case 6). -/
def judgeOverlay (tag : Tag) (payload : List Word) : Judged :=
  match payload with
  | x :: y :: w :: h :: pixels => .command (.overlay tag x y w h pixels)
  | _ => .discard .badLength

/-- The Uplink judges a packet (R199). -/
def judgePacket (p : Packet) : Judged :=
  let tag := headerTag p.header
  if p.truncated then .discard .badLength
  else if headerType p.header = typeCommand then
    match p.payload with
    | [] => .discard .badLength
    | w :: args => judgeCommand tag (field w 0 8) args
  else if headerType p.header = typeTable then judgeTable tag p.payload
  else if headerType p.header = typeOverlay then judgeOverlay tag p.payload
  else .discard .unknownCommand

/-! ## The packet that carries a command (sections 11.1 to 11.3) -/

/-- The low and the high word of a two-word argument (R212). -/
def lowWord (d : DWord) : Word := d.extractLsb' 0 32
def highWord (d : DWord) : Word := d.extractLsb' 32 32

/-- A packet with its header. -/
def packetOf (ptype : Nat) (tag : Tag) (payload : List Word) : Packet :=
  ⟨headerWord ptype tag payload.length, payload, false⟩

/-- A COMMAND packet. -/
def commandPacket (tag : Tag) (code : Nat) (args : List Word) : Packet := packetOf 1 tag (word code :: args)

/-- The packet that carries a command row; none for the steps that no packet carries. -/
def encodePacket (i : Instr) : Option Packet :=
  match i with
  | .setPod t a b c => some (commandPacket t 1 [a, b, c])
  | .retrain t a => some (commandPacket t 2 [a])
  | .setDeskew t a vs => some (commandPacket t 3 (a :: word vs.length :: vs))
  | .setGlitch t a b => some (commandPacket t 4 [a, b])
  | .podStatus t a => some (commandPacket t 5 [a])
  | .setTimebase t a b c d e f => some (commandPacket t 6 [a, b, c, d, e, f])
  | .timebaseStatus t => some (commandPacket t 7 [])
  | .setClock t a => some (commandPacket t 8 [a])
  | .setCorrection t a b c => some (commandPacket t 9 [a, b, c])
  | .setRollPeriod t a => some (commandPacket t 10 [a])
  | .setCapture t a b c d e f => some (commandPacket t 11 [a, b, c, d, e, f])
  | .run t => some (commandPacket t 12 [])
  | .monitor t => some (commandPacket t 13 [])
  | .stop t => some (commandPacket t 14 [])
  | .readSegment t a => some (commandPacket t 15 [a])
  | .readRecords t a b c => some (commandPacket t 16 [a, b, c])
  | .captureStatus t => some (commandPacket t 17 [])
  | .abortRead t => some (commandPacket t 18 [])
  | .setArmTime t a b => some (commandPacket t 19 [a, b])
  | .setCounter t a b => some (commandPacket t 20 [a, b])
  | .setCompare t a b => some (commandPacket t 21 [a, b])
  | .forceTrigger t => some (commandPacket t 22 [])
  | .triggerStatus t => some (commandPacket t 23 [])
  | .unloadTable t a => some (commandPacket t 24 [a])
  | .tableStatus t => some (commandPacket t 25 [])
  | .laneStart t a => some (commandPacket t 26 [a])
  | .laneStopGraceful t a => some (commandPacket t 27 [a, 0])
  | .laneStopNow t a => some (commandPacket t 27 [a, 1])
  | .laneReplay t a b f o st =>
    some (commandPacket t 28 [a, b, lowWord f, highWord f, lowWord o, highWord o, st])
  | .laneStatus t a => some (commandPacket t 29 [a])
  | .setStream t a => some (commandPacket t 30 [a])
  | .readFrames t a b f n => some (commandPacket t 31 [a, b, lowWord f, highWord f, n])
  | .recordPathStatus t => some (commandPacket t 32 [])
  | .setView t a t0 q r => some (commandPacket t 33 [a, lowWord t0, highWord t0, lowWord q, highWord q, r])
  | .zoom t a q => some (commandPacket t 34 [a, lowWord q, highWord q])
  | .pan t a => some (commandPacket t 35 [a])
  | .fit t => some (commandPacket t 36 [])
  | .setCursor t a b c => some (commandPacket t 37 [a, b, lowWord c, highWord c])
  | .measure t a b f o => some (commandPacket t 38 [a, b, lowWord f, highWord f, lowWord o, highWord o])
  | .readColumns t a b => some (commandPacket t 39 [a, b])
  | .viewStatus t => some (commandPacket t 40 [])
  | .setPanel t a => some (commandPacket t 41 [a])
  | .setRowMap t vs => some (commandPacket t 42 (word vs.length :: vs))
  | .setPalette t a vs => some (commandPacket t 43 (a :: word vs.length :: vs))
  | .overlayFill t a b c d e => some (commandPacket t 44 [a, b, c, d, e])
  | .setBacklight t a => some (commandPacket t 45 [a])
  | .panelStatus t => some (commandPacket t 46 [])
  | .clearEvents t a b => some (commandPacket t 47 [a, b])
  | .setEnables t a b => some (commandPacket t 48 [a, b])
  | .eventStatus t => some (commandPacket t 49 [])
  | .identify t => some (commandPacket t 50 [])
  | .softReset t => some (commandPacket t 51 [])
  | .loadTrigger t image => some (packetOf 2 t (0 :: image))
  | .loadFrameTable t lane image => some (packetOf 2 t (1 :: lane :: image))
  | .overlay t x y w h ps => some (packetOf 3 t (x :: y :: w :: h :: ps))
  | .powerOnReset => none
  | .podPresenceSensed _ => none
  | .podRemoved _ => none
  | .trainingWordReceived _ _ => none
  | .trainingGiveUp _ _ => none
  | .sampleFrameReceived _ _ => none
  | .badSampleFrame _ => none
  | .statusWordReceived _ _ _ _ => none
  | .setupFail _ => none
  | .levelStreamSample _ => none
  | .dividerOutput _ => none
  | .counterMatch _ => none
  | .gapTimeout _ => none
  | .timeLimit => none
  | .postFillCompletion => none
  | .arbiterGrant => none
  | .secondsAdvance => none
  | .correctionIntervalEnd => none
  | .rollRefresh => none
  | .frameEnd => none
  | .backlightPeriodEnd => none
  | .packetArrival _ _ => none
  | .strayPayloadWord _ => none
  | .packetDispatch => none
  | .transmitGrant => none
  | .upstreamPacketSent => none
  | .wallClockReferenceCount => none
  | .pwmStep => none
  | .resetNAsserted => none
  | .passColumnComputed => none

/-! ## The taking of a command (R198) -/

/-- A command packet's command taken by its owning block, its RESPONSE placed; nothing for a step that no packet carries. -/
def takeCommand (i : Instr) (s : State) : State :=
  match i with
  | .setPod t a b c => take t typeCommand 1 (cmdSetPod a b c) s
  | .retrain t a => take t typeCommand 2 (cmdRetrain a) s
  | .setDeskew t a vs => take t typeCommand 3 (cmdSetDeskew a vs) s
  | .setGlitch t a b => take t typeCommand 4 (cmdSetGlitch a b) s
  | .podStatus t a => take t typeCommand 5 (cmdPodStatus a) s
  | .setTimebase t a b c d e f => take t typeCommand 6 (cmdSetTimebase a b c d e f) s
  | .timebaseStatus t => take t typeCommand 7 cmdTimebaseStatus s
  | .setClock t a => take t typeCommand 8 (cmdSetClock a) s
  | .setCorrection t a b c => take t typeCommand 9 (cmdSetCorrection a b c) s
  | .setRollPeriod t a => take t typeCommand 10 (cmdSetRollPeriod a) s
  | .setCapture t a b c d e f => take t typeCommand 11 (cmdSetCapture a b c d e f) s
  | .run t => take t typeCommand 12 cmdRun s
  | .monitor t => take t typeCommand 13 cmdMonitor s
  | .stop t => take t typeCommand 14 cmdStop s
  | .readSegment t a => take t typeCommand 15 (cmdReadSegment a) s
  | .readRecords t a b c => take t typeCommand 16 (cmdReadRecords t a b c) s
  | .captureStatus t => take t typeCommand 17 cmdCaptureStatus s
  | .abortRead t => take t typeCommand 18 cmdAbortRead s
  | .setArmTime t a b => take t typeCommand 19 (cmdSetArmTime a b) s
  | .setCounter t a b => take t typeCommand 20 (cmdSetCounter a b) s
  | .setCompare t a b => take t typeCommand 21 (cmdSetCompare a b) s
  | .forceTrigger t => take t typeCommand 22 cmdForceTrigger s
  | .triggerStatus t => take t typeCommand 23 cmdTriggerStatus s
  | .unloadTable t a => take t typeCommand 24 (cmdUnloadTable a) s
  | .tableStatus t => take t typeCommand 25 cmdTableStatus s
  | .laneStart t a => take t typeCommand 26 (cmdLaneStart a) s
  | .laneStopGraceful t a => take t typeCommand 27 (cmdLaneStopGraceful a) s
  | .laneStopNow t a => take t typeCommand 27 (cmdLaneStopNow a) s
  | .laneReplay t a b f o st => take t typeCommand 28 (cmdLaneReplay a b f o st) s
  | .laneStatus t a => take t typeCommand 29 (cmdLaneStatus a) s
  | .setStream t a => take t typeCommand 30 (cmdSetStream a) s
  | .readFrames t a b f n => take t typeCommand 31 (cmdReadFrames t a b f n) s
  | .recordPathStatus t => take t typeCommand 32 cmdRecordPathStatus s
  | .setView t a t0 q r => take t typeCommand 33 (cmdSetView a t0 q r) s
  | .zoom t a q => take t typeCommand 34 (cmdZoom a q) s
  | .pan t a => take t typeCommand 35 (cmdPan a) s
  | .fit t => take t typeCommand 36 cmdFit s
  | .setCursor t a b c => take t typeCommand 37 (cmdSetCursor a b c) s
  | .measure t a b f o => take t typeCommand 38 (cmdMeasure t a b f o) s
  | .readColumns t a b => take t typeCommand 39 (cmdReadColumns t a b) s
  | .viewStatus t => take t typeCommand 40 cmdViewStatus s
  | .setPanel t a => take t typeCommand 41 (cmdSetPanel a) s
  | .setRowMap t vs => take t typeCommand 42 (cmdSetRowMap vs) s
  | .setPalette t a vs => take t typeCommand 43 (cmdSetPalette a vs) s
  | .overlayFill t a b c d e => take t typeCommand 44 (cmdOverlayFill a b c d e) s
  | .setBacklight t a => take t typeCommand 45 (cmdSetBacklight a) s
  | .panelStatus t => take t typeCommand 46 cmdPanelStatus s
  | .clearEvents t a b => take t typeCommand 47 (cmdClearEvents a b) s
  | .setEnables t a b => take t typeCommand 48 (cmdSetEnables a b) s
  | .eventStatus t => take t typeCommand 49 cmdEventStatus s
  | .identify t => take t typeCommand 50 cmdIdentify s
  | .softReset t => take t typeCommand 51 cmdSoftReset s
  | .loadTrigger t image => take t typeTable 0 (cmdLoadTrigger image) s
  | .loadFrameTable t lane image => take t typeTable 1 (cmdLoadFrameTable lane image) s
  | .overlay t x y w h ps => take t typeOverlay 0 (cmdOverlay x y w h ps) s
  | .powerOnReset => s
  | .podPresenceSensed _ => s
  | .podRemoved _ => s
  | .trainingWordReceived _ _ => s
  | .trainingGiveUp _ _ => s
  | .sampleFrameReceived _ _ => s
  | .badSampleFrame _ => s
  | .statusWordReceived _ _ _ _ => s
  | .setupFail _ => s
  | .levelStreamSample _ => s
  | .dividerOutput _ => s
  | .counterMatch _ => s
  | .gapTimeout _ => s
  | .timeLimit => s
  | .postFillCompletion => s
  | .arbiterGrant => s
  | .secondsAdvance => s
  | .correctionIntervalEnd => s
  | .rollRefresh => s
  | .frameEnd => s
  | .backlightPeriodEnd => s
  | .packetArrival _ _ => s
  | .strayPayloadWord _ => s
  | .packetDispatch => s
  | .transmitGrant => s
  | .upstreamPacketSent => s
  | .wallClockReferenceCount => s
  | .pwmStep => s
  | .resetNAsserted => s
  | .passColumnComputed => s

end Sys2Proof.Machine
end

