-- ==== Sys2Proof/Machine/Uplink.lean ====
section
/-! DEFINITION. Chapter 10: receiver, dispatch, transmitter, and the resets: their steps (R196 to R203, R209, R210). -/

namespace Sys2Proof.Machine

/-! ## Receiver (R196, R197) -/

/-- Slots of the input queue held or reserved (R197). -/
def Uplink.slotsHeld (u : Uplink) : Nat :=
  match u.rx with
  | .receiving _ _ _ => u.queue.length + 1
  | .idle => u.queue.length
  | .dropping _ => u.queue.length

/-- The ready line (R197, R210). -/
def readyLine (s : State) : Bool := s.resetN && decide (s.uplink.slotsHeld < Config.inputQueueMax)

/-- BAD_PACKET (R211). -/
def badPacket (s : State) : State := raise blkLink evBadPacket s

/-- A packet complete at the receiver joins the queue, unless a reset has doomed it; the receiver is idle (R196, R209). -/
def Uplink.complete (u : Uplink) (p : Packet) (discard : Bool) : Uplink :=
  { u with rx := .idle, queue := if discard then u.queue else u.queue ++ [p] }

/-- The receiver once a header word has cut short what it was receiving (R196, R209). DESIGN CHOICE (log 45): a packet that a
SOFT_RESET has doomed ends at that header, dropped unanswered and its slot free. -/
def Uplink.cutShort (u : Uplink) : Uplink :=
  match u.rx with
  | .receiving h words discard => u.complete ⟨h, words, true⟩ discard
  | .idle => u
  | .dropping _ => { u with rx := .idle }

/-- A header word arrives (R196). -/
def receiveHeader (h : Word) (s : State) : State :=
  let u := s.uplink.cutShort
  if Config.inputQueueMax ≤ u.queue.length then
    badPacket (setUplink { u with rx := if headerLength h = 0 then .idle else .dropping (headerLength h) } s)
  else if headerLength h = 0 then setUplink (u.complete ⟨h, [], false⟩ false) s
  else setUplink { u with rx := .receiving h [] false } s

/-- A payload word arrives (R196). -/
def receivePayload (w : Word) (s : State) : State :=
  let u := s.uplink
  match u.rx with
  | .idle => badPacket s
  | .dropping n => setUplink { u with rx := if n ≤ 1 then .idle else .dropping (n - 1) } s
  | .receiving h words discard =>
    let got := words ++ [w]
    if headerLength h ≤ got.length then setUplink (u.complete ⟨h, got, false⟩ discard) s
    else setUplink { u with rx := .receiving h got discard } s

/-- PACKET_ARRIVAL: a header word and the payload words that follow it (R196; log 34); ignored while RESET_N is low
(R210). -/
def execPacketArrival (header : Word) (payload : List Word) (s : State) : Outcome :=
  .next (if s.resetN then payload.foldl (fun x w => receivePayload w x) (receiveHeader header s) else s)

/-- STRAY_PAYLOAD_WORD: one payload word (R196; log 34); ignored while RESET_N is low (R210). -/
def execStrayPayloadWord (w : Word) (s : State) : Outcome := .next (if s.resetN then receivePayload w s else s)

/-! ## Dispatch (R198, R199) -/

/-- What a judged packet does: discarded with BAD_PACKET, refused, or taken by its owning block. -/
def actOn (p : Packet) (j : Judged) (s : State) : State :=
  match j with
  | .discard rc => badPacket (placeResponse ⟨headerTag p.header, headerType p.header, p.code, rc, []⟩ s)
  | .refused rc => placeResponse ⟨headerTag p.header, headerType p.header, p.code, rc, []⟩ s
  | .command i => takeCommand i s

/-- PACKET_DISPATCH: the head of the input queue is judged and taken, when a packet may be dispatched (R198, R199). -/
def execPacketDispatch (s : State) : Outcome :=
  match s.uplink.queue with
  | [] => .next s
  | p :: rest =>
    .next (if canDispatch s then actOn p (judgePacket p) (setUplink { s.uplink with queue := rest } s) else s)

/-! ## Transmitter (R201, R203) -/

/-- The link is busy with a packet. -/
def send (words : List Word) (source : TxSource) (s : State) : State :=
  setUplink { s.uplink with tx := some ⟨words, source⟩ } s

/-- Blocks in the order of their codes, beginning after the pointer (R203). -/
def blocksAfter (p : Fin 7) : List (Fin 7) :=
  let all : List (Fin 7) := [0, 1, 2, 3, 4, 5, 6]
  all.drop (p.val + 1) ++ all.take (p.val + 1)

/-- The block whose NOTICE is granted next (R203). -/
def nextNotice (s : State) : Option (Fin 7) := (blocksAfter s.uplink.noticePtr).find? fun b => (s.events[b]).due

/-- A NOTICE formed and its flag cleared (R203). -/
def grantNotice (b : Fin 7) (s : State) : State :=
  let e := s.events[b]
  let s1 := send (packetWords typeNotice 0 [word b.val, e.events, e.enables]) .notice s
  { s1 with
    events := s.events.set b { e with due := false }
    uplink := { s1.uplink with noticePtr := b } }

/-- A stream FRAMES packet formed from the head of the queue (R149); the turn passes to the readout (R151). -/
def grantStream (s : State) : State :=
  let rs := fitFrames Config.framesRoom s.rpath.stream
  send (packetWords typeFrames 0 (framesPayload false 0 false rs)) .stream
    (setPath { s.rpath with stream := s.rpath.stream.drop rs.length, turnReadout := true } s)

/-- A FRAMES packet of the readout, its final one once it has ended (R151, R152); the turn passes to the stream. The records
held fit one packet, since only an entry that fits is read (log 26). -/
def grantFrames (r : FrameReadout) (s : State) : State :=
  let rs := fitFrames Config.framesRoom r.held
  send (packetWords typeFrames r.tag (framesPayload true r.seg r.ended rs)) (.frames r.ended)
    (setPath { s.rpath with
      turnReadout := false
      readout := some { r with held := r.held.drop rs.length, sent := r.sent + rs.length, finalSent := r.ended } } s)

/-- A RECORDS packet (R61, R62). -/
def grantRecords (r : RecordReadout) (s : State) : State :=
  let final := decide (r.remaining = 0)
  send (packetWords typeRecords r.tag (recordsPayload r.seg r.first final r.held)) (.records final)
    (setCapture { s.capture with
      readout := some { r with first := r.first + r.held.length, held := [], finalSent := final } } s)

/-- The cells of a row of a buffer. -/
def rowCells (f : FrameBuffer) (r : Nat) : List Cell := f.cols.map fun cells => cells.getD r .blank

/-- The payload of a COLUMNS packet of row `r`; a row the buffer does not hold, or a BLANK one, has no cells (R178). -/
def columnsPacket (f : FrameBuffer) (r : Nat) (final : Bool) : List Word :=
  match f.rows[r]? with
  | none => columnsPayload r .blank final f.passNo []
  | some e =>
    match e.kind with
    | .blank => columnsPayload r .blank final f.passNo []
    | .channel k => columnsPayload r (.channel k) final f.passNo (rowCells f r)
    | .lane l => columnsPayload r (.lane l) final f.passNo (rowCells f r)

/-- The payload of a column readout's next packet: with no row to send, no cells, whatever the front buffer holds now
(R178). DESIGN CHOICE (log 22): that packet carries the command's first row as its row index and BLANK as its row kind. -/
def ColumnReadout.payload (c : ColumnReadout) (f : FrameBuffer) : List Word :=
  if c.left = 0 then columnsPayload c.next .blank true f.passNo []
  else columnsPacket f c.next (decide (c.left = 1))

/-- A COLUMNS packet (R178). -/
def grantColumns (c : ColumnReadout) (s : State) : State :=
  let final := decide (c.left ≤ 1)
  send (packetWords typeColumns c.tag (c.payload s.view.front)) (.columns final)
    (setView { s.view with columns := some { c with next := c.next + 1, left := c.left - 1, finalSent := final } } s)

/-- The frame readout with a packet to offer. -/
def framesReady (s : State) : Option FrameReadout := s.rpath.readout.filter fun r => r.packetReady (logAt s r.seg)

/-- The record readout with a packet to offer. -/
def recordsReady (s : State) : Option RecordReadout := s.capture.readout.filter RecordReadout.packetReady

/-- The column readout with a row to send. -/
def columnsReady (s : State) : Option ColumnReadout := s.view.columns.filter fun c => !c.finalSent

/-- A FRAMES packet of the stream or of the readout, by the turn when both are ready (R151). -/
def grantAnyFrames (s : State) : Option State :=
  match framesReady s with
  | none => if s.rpath.stream.isEmpty then none else some (grantStream s)
  | some r => some (if s.rpath.stream.isEmpty || s.rpath.turnReadout then grantFrames r s else grantStream s)

/-- MEASURE, RECORDS and COLUMNS, in that order (R201). -/
def grantData (s : State) : State :=
  match s.view.meas, recordsReady s, columnsReady s with
  | .waiting tag r, _, _ => send (packetWords typeMeasure tag (measureWords r)) .measure s
  | _, some r, _ => grantRecords r s
  | _, none, some c => grantColumns c s
  | _, none, none => s

/-- One grant of the transmitter, in the order of R201. -/
def grantPacket (s : State) : State :=
  match s.uplink.slot, nextNotice s, grantAnyFrames s with
  | some r, _, _ => send (packetWords typeResponse r.tag (responsePayload r)) .response s
  | none, some b, _ => grantNotice b s
  | none, none, some s1 => s1
  | none, none, none => grantData s

/-- TRANSMIT_GRANT, with RESET_N high and the link free (R201, R210); otherwise nothing changes. -/
def execTransmitGrant (s : State) : Outcome :=
  .next (if s.resetN && s.uplink.tx.isNone then grantPacket s else s)

/-! ## Resets (R19, R36, R65, R93, R111, R137, R155, R181, R195, R209, R210) -/

/-- A pod link after SOFT_RESET (R19). -/
def PodLink.soften (k : PodLink) : PodLink := { k with glitchWidth := 0 }

/-- The pod interface after SOFT_RESET (R19). -/
def Pods.soften (p : Pods) : Pods :=
  { Pods.reset with
    links := #v[p.links[0].soften, p.links[1].soften, p.links[2].soften, p.links[3].soften]
    window := p.window }

/-- The timebase after SOFT_RESET (R36). -/
def Timebase.soften (t : Timebase) : Timebase :=
  { Timebase.reset with
    last := t.last, seconds := t.seconds, subsecond := t.subsecond, corrDir := t.corrDir, corrAmount := t.corrAmount
    corrLong := t.corrLong, intervalCount := t.intervalCount, withheld := t.withheld }

/-- The panel output after SOFT_RESET (R195). -/
def Panel.soften (p : Panel) : Panel :=
  { Panel.reset with
    running := p.running, active := if p.running then p.active else Panel.defaultPalette
    level := p.level, staged := p.staged, step := p.step, scan := p.scan }

/-- The receiver after SOFT_RESET: a packet in reception is received to its end and then discarded (R209). -/
def Receiver.soften (r : Receiver) : Receiver :=
  match r with
  | .receiving h words _ => .receiving h words true
  | .idle => .idle
  | .dropping n => .dropping n

/-- SOFT_RESET takes effect in every block (R209). -/
def softReset (s : State) : State :=
  { s with
    pods := s.pods.soften
    time := s.time.soften
    capture := { Capture.reset with dram := s.capture.dram }
    trigger := { Trigger.reset with trigOut := s.trigger.trigOut }
    tables := Tables.reset
    lanes := Vector.replicate 6 Lane.reset
    rpath := RecordPath.reset
    view := View.reset
    panel := s.panel.soften
    events := Vector.replicate 7 ⟨0, 0, false⟩
    uplink := { Uplink.reset with rx := s.uplink.rx.soften } }

/-- A pod link after power-on reset: ABSENT, then TRAINING where a pod is sensed (R1, R19; log 25). -/
def PodLink.powerOn (k : PodLink) : PodLink :=
  if k.sensed then { PodLink.reset with sensed := true }.train else PodLink.reset

/-- POWER_ON_RESET: RESET_N released, every block at its power-on values (R210); the capture DRAM is not cleared (log 8). -/
def execPowerOnReset (s : State) : Outcome :=
  let k := s.pods.links
  .next { State.reset with
    pending := s.pending
    pods := { Pods.reset with links := #v[k[0].powerOn, k[1].powerOn, k[2].powerOn, k[3].powerOn] }
    capture := { Capture.reset with dram := s.capture.dram } }

/-- RESET_N_ASSERTED: ready, ATTN and the upstream half fall silent, and a frame being scanned is cut off (R183, R210;
log 24). -/
def execResetNAsserted (s : State) : Outcome :=
  .next { s with
    resetN := false
    uplink := { s.uplink with tx := none }
    panel := { s.panel with scan := none } }

/-! ## The end of an upstream packet (R201) -/

/-- The source of a sent packet is freed (R61, R151, R177, R178, R198, R209). -/
def sent (source : TxSource) (s : State) : State :=
  match source with
  | .response =>
    let s1 := setUplink { s.uplink with slot := none } s
    if s1.uplink.resetPending then softReset s1 else s1
  | .notice => s
  | .stream => s
  | .frames final => if final then setPath { s.rpath with readout := none } s else s
  | .measure => setView { s.view with meas := .none } s
  | .records final =>
    if final then raise blkCapture evReadDone (setCapture { s.capture with readout := none } s) else s
  | .columns final => if final then setView { s.view with columns := none } s else s

/-- UPSTREAM_PACKET_SENT: the link is free and the packet's source with it (R201); with no packet on the link, nothing
changes. -/
def execUpstreamPacketSent (s : State) : Outcome :=
  match s.uplink.tx with
  | none => .next s
  | some p => .next (sent p.source (setUplink { s.uplink with tx := none } s))

end Sys2Proof.Machine
end

