-- ==== Sys2Proof/Machine/Dispatch.lean ====
section
/-! DEFINITION. The effect of every command on everything but the queue: one arm per row of spec/opcode_table.json. -/

namespace Sys2Proof.Machine

def exec (i : Instr) (s : State) : Host.Outcome State Fault Refusal :=
  match i with
  | .powerOnReset => Sys2Proof.Machine.execPowerOnReset s
  | .podPresenceSensed p => Sys2Proof.Machine.execPodPresenceSensed p s
  | .podRemoved p => Sys2Proof.Machine.execPodRemoved p s
  | .trainingWordReceived p w => Sys2Proof.Machine.execTrainingWordReceived p w s
  | .trainingGiveUp p w => Sys2Proof.Machine.execTrainingGiveUp p w s
  | .sampleFrameReceived p samples => Sys2Proof.Machine.execSampleFrameReceived p samples s
  | .badSampleFrame p => Sys2Proof.Machine.execBadSampleFrame p s
  | .statusWordReceived p checkOk code hyst => Sys2Proof.Machine.execStatusWordReceived p checkOk code hyst s
  | .setupFail p => Sys2Proof.Machine.execSetupFail p s
  | .setPod tag pod code hyst => Sys2Proof.Machine.execSetPod tag pod code hyst s
  | .retrain tag pod => Sys2Proof.Machine.execRetrain tag pod s
  | .setDeskew tag first values => Sys2Proof.Machine.execSetDeskew tag first values s
  | .setGlitch tag pod width => Sys2Proof.Machine.execSetGlitch tag pod width s
  | .podStatus tag pod => Sys2Proof.Machine.execPodStatus tag pod s
  | .levelStreamSample trigIn => Sys2Proof.Machine.execLevelStreamSample trigIn s
  | .dividerOutput d => Sys2Proof.Machine.execDividerOutput d s
  | .counterMatch k => Sys2Proof.Machine.execCounterMatch k s
  | .gapTimeout l => Sys2Proof.Machine.execGapTimeout l s
  | .timeLimit => Sys2Proof.Machine.execTimeLimit s
  | .postFillCompletion => Sys2Proof.Machine.execPostFillCompletion s
  | .arbiterGrant => Sys2Proof.Machine.execArbiterGrant s
  | .secondsAdvance => Sys2Proof.Machine.execSecondsAdvance s
  | .correctionIntervalEnd => Sys2Proof.Machine.execCorrectionIntervalEnd s
  | .rollRefresh => Sys2Proof.Machine.execRollRefresh s
  | .frameEnd => Sys2Proof.Machine.execFrameEnd s
  | .backlightPeriodEnd => Sys2Proof.Machine.execBacklightPeriodEnd s
  | .setTimebase tag d mode chan edge mask value => Sys2Proof.Machine.execSetTimebase tag d mode chan edge mask value s
  | .timebaseStatus tag => Sys2Proof.Machine.execTimebaseStatus tag s
  | .setClock tag seconds => Sys2Proof.Machine.execSetClock tag seconds s
  | .setCorrection tag dir amount interval => Sys2Proof.Machine.execSetCorrection tag dir amount interval s
  | .setRollPeriod tag code => Sys2Proof.Machine.execSetRollPeriod tag code s
  | .setCapture tag mask count prefill postfill hold auto => Sys2Proof.Machine.execSetCapture tag mask count prefill postfill hold auto s
  | .run tag => Sys2Proof.Machine.execRun tag s
  | .monitor tag => Sys2Proof.Machine.execMonitor tag s
  | .stop tag => Sys2Proof.Machine.execStop tag s
  | .readSegment tag seg => Sys2Proof.Machine.execReadSegment tag seg s
  | .readRecords tag seg start count => Sys2Proof.Machine.execReadRecords tag seg start count s
  | .captureStatus tag => Sys2Proof.Machine.execCaptureStatus tag s
  | .abortRead tag => Sys2Proof.Machine.execAbortRead tag s
  | .loadTrigger tag image => Sys2Proof.Machine.execLoadTrigger tag image s
  | .setArmTime tag present seconds => Sys2Proof.Machine.execSetArmTime tag present seconds s
  | .setCounter tag k value => Sys2Proof.Machine.execSetCounter tag k value s
  | .setCompare tag k value => Sys2Proof.Machine.execSetCompare tag k value s
  | .forceTrigger tag => Sys2Proof.Machine.execForceTrigger tag s
  | .triggerStatus tag => Sys2Proof.Machine.execTriggerStatus tag s
  | .loadFrameTable tag lane image => Sys2Proof.Machine.execLoadFrameTable tag lane image s
  | .unloadTable tag lane => Sys2Proof.Machine.execUnloadTable tag lane s
  | .tableStatus tag => Sys2Proof.Machine.execTableStatus tag s
  | .laneStart tag lane => Sys2Proof.Machine.execLaneStart tag lane s
  | .laneStopGraceful tag lane => Sys2Proof.Machine.execLaneStopGraceful tag lane s
  | .laneStopNow tag lane => Sys2Proof.Machine.execLaneStopNow tag lane s
  | .laneReplay tag lane seg fromTick toTick store => Sys2Proof.Machine.execLaneReplay tag lane seg fromTick toTick store s
  | .laneStatus tag lane => Sys2Proof.Machine.execLaneStatus tag lane s
  | .setStream tag mask => Sys2Proof.Machine.execSetStream tag mask s
  | .readFrames tag seg mask fromTick count => Sys2Proof.Machine.execReadFrames tag seg mask fromTick count s
  | .recordPathStatus tag => Sys2Proof.Machine.execRecordPathStatus tag s
  | .setView tag seg t0 q roll => Sys2Proof.Machine.execSetView tag seg t0 q roll s
  | .zoom tag pivot q => Sys2Proof.Machine.execZoom tag pivot q s
  | .pan tag count => Sys2Proof.Machine.execPan tag count s
  | .fit tag => Sys2Proof.Machine.execFit tag s
  | .setCursor tag cursor present time => Sys2Proof.Machine.execSetCursor tag cursor present time s
  | .measure tag seg chan fromTime toTime => Sys2Proof.Machine.execMeasure tag seg chan fromTime toTime s
  | .readColumns tag first count => Sys2Proof.Machine.execReadColumns tag first count s
  | .viewStatus tag => Sys2Proof.Machine.execViewStatus tag s
  | .setPanel tag code => Sys2Proof.Machine.execSetPanel tag code s
  | .setRowMap tag entries => Sys2Proof.Machine.execSetRowMap tag entries s
  | .setPalette tag first colours => Sys2Proof.Machine.execSetPalette tag first colours s
  | .overlayFill tag x y w h index => Sys2Proof.Machine.execOverlayFill tag x y w h index s
  | .overlay tag x y w h pixels => Sys2Proof.Machine.execOverlay tag x y w h pixels s
  | .setBacklight tag level => Sys2Proof.Machine.execSetBacklight tag level s
  | .panelStatus tag => Sys2Proof.Machine.execPanelStatus tag s
  | .clearEvents tag block mask => Sys2Proof.Machine.execClearEvents tag block mask s
  | .setEnables tag block mask => Sys2Proof.Machine.execSetEnables tag block mask s
  | .eventStatus tag => Sys2Proof.Machine.execEventStatus tag s
  | .identify tag => Sys2Proof.Machine.execIdentify tag s
  | .softReset tag => Sys2Proof.Machine.execSoftReset tag s
  | .packetArrival header payload => Sys2Proof.Machine.execPacketArrival header payload s
  | .strayPayloadWord w => Sys2Proof.Machine.execStrayPayloadWord w s
  | .packetDispatch => Sys2Proof.Machine.execPacketDispatch s
  | .transmitGrant => Sys2Proof.Machine.execTransmitGrant s
  | .upstreamPacketSent => Sys2Proof.Machine.execUpstreamPacketSent s
  | .wallClockReferenceCount => Sys2Proof.Machine.execWallClockReferenceCount s
  | .pwmStep => Sys2Proof.Machine.execPwmStep s
  | .resetNAsserted => Sys2Proof.Machine.execResetNAsserted s
  | .passColumnComputed => Sys2Proof.Machine.execPassColumnComputed s

end Sys2Proof.Machine
end

