-- ==== Sys2Proof/Safety.lean ====
section
/-! DEFINITION. The properties of states that the statements speak of: invariants the spec gives the part, and short names for
what a statement says of a state. -/

namespace Sys2Proof.Machine

/-! ## Answers -/

/-- The state once the RESPONSE of a COMMAND packet stands in the response slot (R198, R200). -/
def answered (tag : Tag) (code : BitVec 8) (rc : RespCode) (words : List Word) (s : State) : State :=
  { s with uplink := { s.uplink with slot := some ⟨tag, typeCommand, code, rc, words⟩ } }

/-- Every lane is OFF. -/
def allLanesOff (s : State) : Prop := ∀ l : LaneId, (s.lanes[l]).state = .off

/-- `t` is `s` after a change of the viewport or a cursor to what the snapshot `n` holds, with the view request that the change
makes (R168, R169): not stored for an EMPTY segment, pending behind a pass or a measurement, and otherwise a pass that
starts at column 0 and writes the back buffer from its first column on. Nothing else differs; the Uplink alone is left out. -/
def viewRequested (n : Snapshot) (s t : State) : Prop :=
  t.view.snapshot = n ∧
  ((segAt s n.seg).state = .empty →
    t.view.pending = s.view.pending ∧ t.view.pass = s.view.pass ∧ t.view.ready = s.view.ready ∧
    t.view.back = s.view.back) ∧
  ((segAt s n.seg).state ≠ .empty →
    (s.view.pass.isSome ∨ s.view.measuring = true →
      t.view.pending = some n ∧ t.view.pass = s.view.pass ∧ t.view.ready = s.view.ready ∧ t.view.back = s.view.back) ∧
    (s.view.pass = none → s.view.measuring = false →
      t.view.pending = none ∧ t.view.ready = false ∧ t.view.back = { s.view.back with cols := [] } ∧
      t.view.pass = some {
        snap := n, rows := s.panel.rowMap, trigTime := (segAt s n.seg).trigger.map (·.time), col := 0
        noData := (segAt s n.seg).noData n.t0, reader := .idle, logRead := 0 })) ∧
  t.view.front = s.view.front ∧ t.view.passCount = s.view.passCount ∧ t.view.meas = s.view.meas ∧
  t.view.columns = s.view.columns ∧ t.pending = s.pending ∧ t.resetN = s.resetN ∧ t.pods = s.pods ∧ t.time = s.time ∧
  t.capture = s.capture ∧ t.trigger = s.trigger ∧ t.tables = s.tables ∧ t.lanes = s.lanes ∧ t.rpath = s.rpath ∧
  t.panel = s.panel ∧ t.events = s.events

/-! ## Invariants -/

/-- The charges recorded by the six slots together (R106). -/
def Tables.held (tb : Tables) : Charge :=
  (((((tb.slots[0].charge.add tb.slots[1].charge).add tb.slots[2].charge).add tb.slots[3].charge).add
    tb.slots[4].charge).add tb.slots[5].charge)

/-- The decode pool is balanced: what the slots hold and what is available is the whole pool, and every slot records the
charge of its table, an EMPTY one nothing (R94, R106). -/
def poolBalanced (s : State) : Prop :=
  s.tables.free.add s.tables.held = ⟨96, 12, 4⟩ ∧
  ∀ l : LaneId, (s.tables.slots[l]).charge = ((s.tables.slots[l]).table.map FrameTable.charge).getD ⟨0, 0, 0⟩

/-- A lane that is not OFF has a LOADED table (R94, R113, R116). -/
def lanesHaveTables (s : State) : Prop :=
  ∀ l : LaneId, (s.lanes[l]).state ≠ .off → (s.tables.slots[l]).table.isSome

/-- Every lane is in form: a frame is open exactly in IN_FRAME and DRAINING (R112), the consecutive-error count is 0, 1 or 2
(R132), a replaying lane has its context (R116), and an open frame keeps to its bounds (R128, R138). -/
def lanesInForm (s : State) : Prop :=
  ∀ l : LaneId,
    ((s.lanes[l]).frame.isSome ↔ (s.lanes[l]).state = .inFrame ∨ (s.lanes[l]).state = .draining) ∧
    (s.lanes[l]).errors ≤ 2 ∧
    ((s.lanes[l]).state ≠ .off → (s.lanes[l]).isReplay = true → (s.lanes[l]).replay.isSome) ∧
    ∀ f : PartialFrame, (s.lanes[l]).frame = some f → f.data.length ≤ 64 ∧ f.units ≤ 65535

/-- Both memories have their canonical form (log 8, log 9). -/
def memoriesCanonical (s : State) : Prop :=
  Mem.wf Record.blank s.capture.dram = true ∧ Mem.wf 0 s.panel.overlay = true

/-- Sampling is RUNNING in MONITOR and CAPTURING, and STOPPED in IDLE and CLOSING (R38). -/
def samplingFitsController (s : State) : Prop :=
  match s.capture.ctl with
  | .idle => s.time.sampling = false
  | .monitor => s.time.sampling = true
  | .capturing _ => s.time.sampling = true
  | .closing => s.time.sampling = false

/-- The capture settings are ones that SET_CAPTURE takes (R37). -/
def settingsValid (c : CaptureSettings) : Prop :=
  validCount c.count = true ∧ c.prefill + c.postfill + 1 ≤ Config.recordSlots / c.count

/-- The layout is a valid one that segments, logs and the writer queue keep to, and the current segment is in it (R37 to R39,
section 3.2). -/
def layoutHolds (s : State) : Prop :=
  validCount s.capture.layout = true ∧ s.capture.segs.length = s.capture.layout ∧ s.rpath.logs.length = s.capture.layout ∧
  (∀ d ∈ s.capture.segs, d.size = Config.recordSlots / s.capture.layout) ∧
  (∀ q ∈ s.capture.queue, q.seg < s.capture.layout) ∧
  (∀ i, s.capture.ctl = .capturing i → i < s.capture.layout) ∧
  (s.capture.ctl = .idle ∨ s.capture.ctl = .monitor → s.capture.queue = [])

/-- The sequencer is out of IDLE exactly while the controller is CAPTURING (R72, R89). -/
def sequencerFitsController (s : State) : Prop := s.trigger.state = .idle ↔ ∀ i, s.capture.ctl ≠ .capturing i

/-- The capture store's invariant. -/
def captureInForm (s : State) : Prop :=
  settingsValid s.capture.stored ∧ settingsValid s.capture.inForce ∧ layoutHolds s ∧ samplingFitsController s ∧
  sequencerFitsController s

/-- A block whose notice is due has a pending event (R202 to R205). -/
def noticesHaveEvents (s : State) : Prop :=
  ∀ b : Fin 7, (s.events[b]).due = true → (s.events[b]).pendingEvents ≠ 0

/-- The queues that have a bound keep it: the input queue with the slot being filled, the log write queue and the frame
stream queue (R143, R148, R197). -/
def queuesBounded (s : State) : Prop :=
  s.uplink.slotsHeld ≤ Config.inputQueueMax ∧ s.rpath.logQueue.length ≤ Config.logQueueMax ∧
  s.rpath.stream.length ≤ Config.streamMax

/-- The wall clock's subsecond is below a second and its correction amount in range (R30, R32). -/
def wallClockInRange (s : State) : Prop := s.time.subsecond < 32768 ∧ s.time.corrAmount ≤ 63

/-- The decode side's invariant. -/
def decodeInForm (s : State) : Prop := poolBalanced s ∧ lanesHaveTables s ∧ lanesInForm s

/-- A pod link keeps its counts and its stored code in range: below lock and give-up in TRAINING (R2), below the third bad
frame in a row in UP (R5), an acknowledge wait only in UP and short of its 64th frame (R11), codes 8 to 248 (R10), glitch
width at most 7 (R12). -/
def PodLink.inRange (k : PodLink) : Prop :=
  k.lockRun ≤ 16 ∧ k.words ≤ 1024 ∧ k.badRun ≤ 3 ∧ (k.state = .training → k.lockRun < 16 ∧ k.words < 1024) ∧
  (k.state = .up → k.badRun ≤ 2) ∧ (k.wait.isSome → k.state = .up) ∧ k.wait.getD 0 ≤ 63 ∧
  8 ≤ k.code.toNat ∧ k.code.toNat ≤ 248 ∧ k.glitchWidth ≤ 7

/-- The pod interface keeps in range: its links, and 32 deskew values of at most 15 (R12). -/
def podsInRange (p : Pods) : Prop :=
  (∀ i : Pod, (p.links[i]).inRange) ∧ p.deskew.length = 32 ∧ ∀ d ∈ p.deskew, d ≤ 15

/-- The viewport keeps in range (R156). -/
def viewportInRange (v : View) : Prop := 1 ≤ v.q ∧ v.q ≤ Config.maxQ ∧ v.t0 ≤ Config.lastTick

/-- The row map has at most 24 entries of 8 to 32 lines (R184). -/
def rowMapInRange (rows : List RowEntry) : Prop := rows.length ≤ 24 ∧ ∀ r ∈ rows, 8 ≤ r.height ∧ r.height ≤ 32

/-- A divider has a ratio of 1 to 65,536 and a phase below it (R66, R82). -/
def DividerUnit.inRange (d : DividerUnit) : Prop := 1 ≤ d.ratio ∧ d.ratio ≤ 65536 ∧ d.phase < d.ratio

/-- Both dividers keep in range. -/
def dividersInRange (t : Trigger) : Prop := t.divX.inRange ∧ t.divY.inRange

/-- The pods, the viewport, the row map and the dividers keep in range. -/
def settingsInRange (s : State) : Prop :=
  podsInRange s.pods ∧ viewportInRange s.view ∧ rowMapInRange s.panel.rowMap ∧ dividersInRange s.trigger

/-- The invariant of memories, queues, notices, the wall clock and the ranges of settings and counts. -/
def storesInForm (s : State) : Prop :=
  memoriesCanonical s ∧ queuesBounded s ∧ noticesHaveEvents s ∧ wallClockInRange s ∧ settingsInRange s

end Sys2Proof.Machine
end

