-- ==== Sys2Proof/WellFormed.lean ====
section
/-! DEFINITION. Well-formed commands: those a packet can carry (at most 1,023 payload words, section 10.1; every table image
long enough to be handed to its block, R199 case 4), and runs of words that belong to one packet (R196). -/

namespace Sys2Proof

open Sys2Proof.Machine

/-- Payload words of a packet at most. -/
def maxPayload : Nat := 1023

/-- Words of the lists of a command that a packet can carry, with what stands before the list (section 11.2). -/
def Instr.wf (i : Instr) : Bool :=
  match i with
  | .setDeskew _ _ values => decide (values.length + 3 ≤ maxPayload)
  | .loadTrigger _ image => decide (1 ≤ image.length) && decide (image.length + 1 ≤ maxPayload)
  | .loadFrameTable _ _ image => decide (11 ≤ image.length) && decide (image.length + 2 ≤ maxPayload)
  | .setRowMap _ entries => decide (entries.length + 2 ≤ maxPayload)
  | .setPalette _ _ colours => decide (colours.length + 3 ≤ maxPayload)
  | .overlay _ _ _ _ _ pixels => decide (pixels.length + 4 ≤ maxPayload)
  | .packetArrival header payload => decide (payload.length ≤ headerLength header)
  | .powerOnReset => true
  | .podPresenceSensed _ => true
  | .podRemoved _ => true
  | .trainingWordReceived _ _ => true
  | .trainingGiveUp _ _ => true
  | .sampleFrameReceived _ _ => true
  | .badSampleFrame _ => true
  | .statusWordReceived _ _ _ _ => true
  | .setupFail _ => true
  | .setPod _ _ _ _ => true
  | .retrain _ _ => true
  | .setGlitch _ _ _ => true
  | .podStatus _ _ => true
  | .levelStreamSample _ => true
  | .dividerOutput _ => true
  | .counterMatch _ => true
  | .gapTimeout _ => true
  | .timeLimit => true
  | .postFillCompletion => true
  | .arbiterGrant => true
  | .secondsAdvance => true
  | .correctionIntervalEnd => true
  | .rollRefresh => true
  | .frameEnd => true
  | .backlightPeriodEnd => true
  | .setTimebase _ _ _ _ _ _ _ => true
  | .timebaseStatus _ => true
  | .setClock _ _ => true
  | .setCorrection _ _ _ _ => true
  | .setRollPeriod _ _ => true
  | .setCapture _ _ _ _ _ _ _ => true
  | .run _ => true
  | .monitor _ => true
  | .stop _ => true
  | .readSegment _ _ => true
  | .readRecords _ _ _ _ => true
  | .captureStatus _ => true
  | .abortRead _ => true
  | .setArmTime _ _ _ => true
  | .setCounter _ _ _ => true
  | .setCompare _ _ _ => true
  | .forceTrigger _ => true
  | .triggerStatus _ => true
  | .unloadTable _ _ => true
  | .tableStatus _ => true
  | .laneStart _ _ => true
  | .laneStopGraceful _ _ => true
  | .laneStopNow _ _ => true
  | .laneReplay _ _ _ _ _ _ => true
  | .laneStatus _ _ => true
  | .setStream _ _ => true
  | .readFrames _ _ _ _ _ => true
  | .recordPathStatus _ => true
  | .setView _ _ _ _ _ => true
  | .zoom _ _ _ => true
  | .pan _ _ => true
  | .fit _ => true
  | .setCursor _ _ _ _ => true
  | .measure _ _ _ _ _ => true
  | .readColumns _ _ _ => true
  | .viewStatus _ => true
  | .setPanel _ _ => true
  | .overlayFill _ _ _ _ _ _ => true
  | .setBacklight _ _ => true
  | .panelStatus _ => true
  | .clearEvents _ _ _ => true
  | .setEnables _ _ _ => true
  | .eventStatus _ => true
  | .identify _ => true
  | .softReset _ => true
  | .strayPayloadWord _ => true
  | .packetDispatch => true
  | .transmitGrant => true
  | .upstreamPacketSent => true
  | .wallClockReferenceCount => true
  | .pwmStep => true
  | .resetNAsserted => true
  | .passColumnComputed => true

end Sys2Proof
end

