-- ==== Sys2Proof/Certificates/Slice0/Obligations.lean ====
section
/-! DEFINITION. The statements for the provers. They follow the chapters of the spec; `answered` places a RESPONSE. -/

open Sys2Proof Sys2Proof.Machine

/-- A step runs the command at the front of the queue; on an empty queue the part idles (log 7). For every command c, queue
rest and state s: a step of s with c in front of rest is exec of c on s with the queue rest, and a step of s with an empty
queue is s itself. The queue and the idling are the model's own (log 1, log 7). -/
def Obligations.StepRunsTheFrontCommand : Prop :=
  ∀ (c : Instr) (rest : List Instr) (s : State),
    step { s with pending := c :: rest } = exec c { s with pending := rest } ∧
    step { s with pending := [] } = .next { s with pending := [] }

/-- POD_PRESENCE_SENSED and POD_REMOVED move the link, with POD_DOWN on removal from UP. POD_PRESENCE_SENSED always answers a
next state: an ABSENT link enters TRAINING with both training counts at 0 and sends train requests, any other link is
unchanged but for the presence sense. POD_REMOVED always answers a next state: the link is ABSENT with kind NONE, no wait,
a shadow that was in a wait is unconfirmed, and POD_DOWN is raised exactly when the link was UP. Nothing else changes.
That removal puts the lock run and the training word count to 0 is read from R1's discarding of the training (log 36); the
word the part sends is the model's own state (log 30). -/
def Obligations.PodPresenceFollowed : Prop :=
  ∀ (p : Pod) (s : State),
    ((s.pods.links[p]).state = .absent →
      exec (.podPresenceSensed p) s = .next (modLink p (fun k =>
        { k with sensed := true, state := .training, lockRun := 0, words := 0, sending := .trainRequest }) s)) ∧
    ((s.pods.links[p]).state ≠ .absent →
      exec (.podPresenceSensed p) s = .next (modLink p (fun k => { k with sensed := true }) s)) ∧
    ((s.pods.links[p]).state = .up →
      exec (.podRemoved p) s = .next (raise blkPod (evPodDown p) (modLink p (fun k =>
        { k with sensed := false, state := .absent, kind := .noPod, lockRun := 0, words := 0, wait := none,
                 confirmed := k.confirmed && k.wait.isNone, sending := .idle }) s))) ∧
    ((s.pods.links[p]).state ≠ .up →
      exec (.podRemoved p) s = .next (modLink p (fun k =>
        { k with sensed := false, state := .absent, kind := .noPod, lockRun := 0, words := 0, wait := none,
                 confirmed := k.confirmed && k.wait.isNone, sending := .idle }) s))

/-- Training words grow the lock run; the sixteenth locks, the 1,024th word gives up. In TRAINING, a good training word of the
run's kind raises the lock run by 1, one of another kind or after a run of 0 sets it to 1, a bad training word, a sample
frame, a bad sample frame and a status word set it to 0, and each raises the training word count. The word that brings the
run to 16 takes the link to UP with the kind of that word, bad-frame run 0, the shadow sent and unconfirmed (log 35), the
acknowledge wait started at 0 and POD_UP raised, even as the 1,024th word. Every other 1,024th word takes the link to
FAULT and raises POD_FAULT. Nothing else changes. TRAINING_GIVE_UP is that word given as a row of its own, and changes
nothing at another word (log 5); that the run keeps the kind of its last good word is log 36, the word sent is log 30. -/
def Obligations.TrainingCountsAndLocks : Prop :=
  ∀ (p : Pod) (kind : LinkKind) (samples : Vector Byte 16) (ok : Bool) (code : BitVec 8) (hyst : BitVec 2) (s : State),
    (s.pods.links[p]).state = .training →
    -- a word that grows the run to 16 locks the link
    ((s.pods.links[p]).lockRun = 15 → (s.pods.links[p]).runKind = podKindOf kind →
      exec (.trainingWordReceived p (.good kind)) s = .next (raise blkPod (evPodUp p) (modLink p (fun k =>
        { k with state := .up, kind := podKindOf kind, lockRun := 16, words := k.words + 1, badRun := 0,
                 wait := some 0, confirmed := false, sending := .setup k.code k.hyst }) s))) ∧
    ((s.pods.links[p]).words < 1023 →
      -- a word of the run's kind, short of the lock
      ((s.pods.links[p]).lockRun ≠ 0 → (s.pods.links[p]).lockRun ≠ 15 → (s.pods.links[p]).runKind = podKindOf kind →
        exec (.trainingWordReceived p (.good kind)) s =
          .next (modLink p (fun k => { k with lockRun := k.lockRun + 1, words := k.words + 1 }) s)) ∧
      -- a word that begins a run
      ((s.pods.links[p]).lockRun = 0 ∨ (s.pods.links[p]).runKind ≠ podKindOf kind →
        exec (.trainingWordReceived p (.good kind)) s =
          .next (modLink p (fun k => { k with lockRun := 1, runKind := podKindOf kind, words := k.words + 1 }) s)) ∧
      -- a bad training word
      exec (.trainingWordReceived p .bad) s =
        .next (modLink p (fun k => { k with lockRun := 0, words := k.words + 1 }) s) ∧
      exec (.trainingGiveUp p (.good kind)) s = .next s ∧ exec (.trainingGiveUp p .bad) s = .next s) ∧
    -- words that are no training words act as a bad one
    exec (.sampleFrameReceived p samples) s = exec (.trainingWordReceived p .bad) s ∧
    exec (.badSampleFrame p) s = exec (.trainingWordReceived p .bad) s ∧
    exec (.statusWordReceived p ok code hyst) s = exec (.trainingWordReceived p .bad) s ∧
    -- the 1,024th word, without lock
    ((s.pods.links[p]).words = 1023 →
      exec (.trainingWordReceived p .bad) s = .next (raise blkPod (evPodFault p) (modLink p (fun k =>
        { k with state := .fault, lockRun := 0, words := 1024, sending := .idle }) s)) ∧
      exec (.trainingGiveUp p .bad) s = exec (.trainingWordReceived p .bad) s ∧
      ((s.pods.links[p]).lockRun ≠ 0 → (s.pods.links[p]).lockRun ≠ 15 → (s.pods.links[p]).runKind = podKindOf kind →
        exec (.trainingWordReceived p (.good kind)) s = .next (raise blkPod (evPodFault p) (modLink p (fun k =>
          { k with state := .fault, lockRun := k.lockRun + 1, words := 1024, sending := .idle }) s)) ∧
        exec (.trainingGiveUp p (.good kind)) s = exec (.trainingWordReceived p (.good kind)) s) ∧
      ((s.pods.links[p]).lockRun = 0 ∨ (s.pods.links[p]).runKind ≠ podKindOf kind →
        exec (.trainingWordReceived p (.good kind)) s = .next (raise blkPod (evPodFault p) (modLink p (fun k =>
          { k with state := .fault, lockRun := 1, runKind := podKindOf kind, words := 1024, sending := .idle }) s)) ∧
        exec (.trainingGiveUp p (.good kind)) s = exec (.trainingWordReceived p (.good kind)) s))

/-- Good and bad sample frames in UP: ticks covered, held levels, run, wait and events. In UP with no acknowledge wait, a good
sample frame makes its 16 samples the pod's next 16 ticks with pod-valid bit 1, its last sample the held levels, and the
bad-frame run 0. A bad frame raises FRAME_ERROR and adds 1 to the run; its 16 ticks carry the held levels, with bit 1
while the run stays below 3; at 3 the ticks have bit 0, the link enters FAULT and POD_FAULT and POD_DOWN are raised. A
training word in UP is such a bad frame. Nothing else changes. That the 16 ticks are the pod's next undelivered ones is
log 3, and the word sent is log 30; frames during an acknowledge wait are AcknowledgeWaitOfTheShadow. -/
def Obligations.SampleFramesInUp : Prop :=
  ∀ (p : Pod) (samples : Vector Byte 16) (w : TrainingWord) (s : State),
    (s.pods.links[p]).state = .up → (s.pods.links[p]).wait = none →
    exec (.sampleFrameReceived p samples) s = .next (modLink p (fun k =>
      { k with due := k.due ++ samples.toList.map (fun v => ⟨v, true⟩), held := samples[15], badRun := 0 }) s) ∧
    ((s.pods.links[p]).badRun < 2 →
      exec (.badSampleFrame p) s = .next (raise blkPod (evFrameError p) (modLink p (fun k =>
        { k with badRun := k.badRun + 1, due := k.due ++ List.replicate 16 ⟨k.held, true⟩ }) s))) ∧
    ((s.pods.links[p]).badRun = 2 →
      exec (.badSampleFrame p) s =
        .next (raise blkPod (evPodFault p ||| evPodDown p) (raise blkPod (evFrameError p) (modLink p (fun k =>
          { k with state := .fault, badRun := 3, sending := .idle,
                   due := k.due ++ List.replicate 16 ⟨k.held, false⟩ }) s)))) ∧
    exec (.trainingWordReceived p w) s = exec (.badSampleFrame p) s

/-- A link in ABSENT or FAULT discards every word it receives. While a link is ABSENT or in FAULT, a training word, a sample
frame, a bad sample frame, a status word, TRAINING_GIVE_UP and SETUP_FAIL change nothing. That the rows TRAINING_GIVE_UP
and SETUP_FAIL change nothing where they are not due is the model's choice (logs 1, 5 and 6). -/
def Obligations.AbsentAndFaultDiscardWords : Prop :=
  ∀ (p : Pod) (w : TrainingWord) (samples : Vector Byte 16) (ok : Bool) (code : BitVec 8) (hyst : BitVec 2) (s : State),
    (s.pods.links[p]).state = .absent ∨ (s.pods.links[p]).state = .fault →
    exec (.trainingWordReceived p w) s = .next s ∧
    exec (.sampleFrameReceived p samples) s = .next s ∧
    exec (.badSampleFrame p) s = .next s ∧
    exec (.statusWordReceived p ok code hyst) s = .next s ∧
    exec (.trainingGiveUp p w) s = .next s ∧
    exec (.setupFail p) s = .next s

/-- Status words confirm the shadow; the sixty-fourth frame of a wait raises SETUP_FAIL. In UP with an acknowledge wait at n:
a status word with a correct check that equals the shadow ends the wait and confirms; one that differs, or one with a
failed check, changes nothing; a good frame with n below 63 counts; with n at 63 a good frame ends the wait with the
shadow unconfirmed and raises SETUP_FAIL, and the row SETUP_FAIL does the same without the frame (log 6). A bad frame
raises FRAME_ERROR, covers 16 ticks with the held levels, adds 1 to the bad-frame run and counts in the wait as a good one
does; the one that brings the run to 3 takes the link to FAULT with POD_FAULT and POD_DOWN and ends the wait with the
shadow unconfirmed, and as the sixty-fourth frame raises SETUP_FAIL too (log 12). A training word acts as a bad frame.
With no wait a matching status word changes nothing. Nothing else changes. That the 16 ticks are the pod's next
undelivered ones is log 3. -/
def Obligations.AcknowledgeWaitOfTheShadow : Prop :=
  ∀ (p : Pod) (code : BitVec 8) (hyst : BitVec 2) (samples : Vector Byte 16) (w : TrainingWord) (n : Nat) (s : State),
    (s.pods.links[p]).state = .up →
    exec (.trainingWordReceived p w) s = exec (.badSampleFrame p) s ∧
    ((s.pods.links[p]).wait = some n →
      ((s.pods.links[p]).code = code → (s.pods.links[p]).hyst = hyst →
        exec (.statusWordReceived p true code hyst) s =
          .next (modLink p (fun k => { k with wait := none, confirmed := true }) s)) ∧
      ((s.pods.links[p]).code ≠ code ∨ (s.pods.links[p]).hyst ≠ hyst →
        exec (.statusWordReceived p true code hyst) s = .next s) ∧
      (n < 63 →
        exec (.sampleFrameReceived p samples) s = .next (modLink p (fun k =>
          { k with due := k.due ++ samples.toList.map (fun v => ⟨v, true⟩), held := samples[15], badRun := 0,
                   wait := some (n + 1) }) s) ∧
        exec (.setupFail p) s = .next s ∧
        ((s.pods.links[p]).badRun < 2 →
          exec (.badSampleFrame p) s = .next (raise blkPod (evFrameError p) (modLink p (fun k =>
            { k with badRun := k.badRun + 1, due := k.due ++ List.replicate 16 ⟨k.held, true⟩,
                     wait := some (n + 1) }) s))) ∧
        ((s.pods.links[p]).badRun = 2 →
          exec (.badSampleFrame p) s =
            .next (raise blkPod (evPodFault p ||| evPodDown p) (raise blkPod (evFrameError p) (modLink p (fun k =>
              { k with state := .fault, badRun := 3, sending := .idle, wait := none, confirmed := false,
                       due := k.due ++ List.replicate 16 ⟨k.held, false⟩ }) s))))) ∧
      (n = 63 →
        exec (.sampleFrameReceived p samples) s = .next (raise blkPod (evSetupFail p) (modLink p (fun k =>
          { k with due := k.due ++ samples.toList.map (fun v => ⟨v, true⟩), held := samples[15], badRun := 0,
                   wait := none, confirmed := false }) s)) ∧
        exec (.setupFail p) s =
          .next (raise blkPod (evSetupFail p) (modLink p (fun k => { k with wait := none, confirmed := false }) s)) ∧
        ((s.pods.links[p]).badRun < 2 →
          exec (.badSampleFrame p) s =
            .next (raise blkPod (evSetupFail p) (raise blkPod (evFrameError p) (modLink p (fun k =>
              { k with badRun := k.badRun + 1, due := k.due ++ List.replicate 16 ⟨k.held, true⟩,
                       wait := none, confirmed := false }) s)))) ∧
        ((s.pods.links[p]).badRun = 2 →
          exec (.badSampleFrame p) s = .next (raise blkPod (evSetupFail p)
            (raise blkPod (evPodFault p ||| evPodDown p) (raise blkPod (evFrameError p) (modLink p (fun k =>
              { k with state := .fault, badRun := 3, sending := .idle, wait := none, confirmed := false,
                       due := k.due ++ List.replicate 16 ⟨k.held, false⟩ }) s))))))) ∧
    ((s.pods.links[p]).wait = none → exec (.statusWordReceived p true code hyst) s = .next s) ∧
    exec (.statusWordReceived p false code hyst) s = .next s

/-- SET_POD clamps the code, stores the shadow unconfirmed and sends it when the link is UP. SET_POD with a pod index above 3
or a hysteresis step above 3 is answered BAD_ARGUMENT and changes nothing but the response slot. Otherwise the shadow
takes the code clamped to 8 to 248 and the step, unconfirmed; in UP a set-up word carries it and a new wait starts at 0,
in another link state the wait is as it was; the RESPONSE is OK with the effective code. -/
def Obligations.SetPodStoresTheShadow : Prop :=
  ∀ (tag : Tag) (pod code hyst : Word) (s : State), canDispatch s = true →
    (3 < pod.toNat ∨ 3 < hyst.toNat →
      exec (.setPod tag pod code hyst) s = .next (answered tag 1 .badArgument [] s)) ∧
    (∀ p : Pod, pod.toNat = p.val → hyst.toNat ≤ 3 →
      ((s.pods.links[p]).state = .up →
        exec (.setPod tag pod code hyst) s = .next (answered tag 1 .ok [word (max 8 (min code.toNat 248))]
          (modLink p (fun k =>
            { k with code := BitVec.ofNat 8 (max 8 (min code.toNat 248)), hyst := BitVec.ofNat 2 hyst.toNat,
                     confirmed := false, wait := some 0,
                     sending := .setup (BitVec.ofNat 8 (max 8 (min code.toNat 248))) (BitVec.ofNat 2 hyst.toNat) }) s))) ∧
      ((s.pods.links[p]).state ≠ .up →
        exec (.setPod tag pod code hyst) s = .next (answered tag 1 .ok [word (max 8 (min code.toNat 248))]
          (modLink p (fun k =>
            { k with code := BitVec.ofNat 8 (max 8 (min code.toNat 248)), hyst := BitVec.ofNat 2 hyst.toNat,
                     confirmed := false }) s))))

/-- RETRAIN takes UP and FAULT to TRAINING and refuses the rest. RETRAIN of a pod above 3 is answered BAD_ARGUMENT, of a link
in ABSENT or TRAINING WRONG_STATE, and changes nothing but the response slot. From UP or FAULT the link enters TRAINING
with both training counts at 0, sends train requests, has no wait, a shadow that was in a wait is unconfirmed (R11), and
from UP POD_DOWN is raised; the RESPONSE is OK. The word sent is log 30. -/
def Obligations.RetrainFromUpOrFault : Prop :=
  ∀ (tag : Tag) (pod : Word) (s : State), canDispatch s = true →
    (3 < pod.toNat → exec (.retrain tag pod) s = .next (answered tag 2 .badArgument [] s)) ∧
    (∀ p : Pod, pod.toNat = p.val →
      ((s.pods.links[p]).state = .absent ∨ (s.pods.links[p]).state = .training →
        exec (.retrain tag pod) s = .next (answered tag 2 .wrongState [] s)) ∧
      ((s.pods.links[p]).state = .up →
        exec (.retrain tag pod) s = .next (answered tag 2 .ok [] (raise blkPod (evPodDown p) (modLink p (fun k =>
          { k with state := .training, lockRun := 0, words := 0, wait := none,
                   confirmed := k.confirmed && k.wait.isNone, sending := .trainRequest }) s)))) ∧
      ((s.pods.links[p]).state = .fault →
        exec (.retrain tag pod) s = .next (answered tag 2 .ok [] (modLink p (fun k =>
          { k with state := .training, lockRun := 0, words := 0, wait := none,
                   confirmed := k.confirmed && k.wait.isNone, sending := .trainRequest }) s))))

/-- SET_DESKEW and SET_GLITCH judge in order, clamp and store, channel by channel. SET_DESKEW with a first channel above 31,
an empty list or a list past channel 31 is answered BAD_ARGUMENT, otherwise BUSY while sampling runs. Otherwise it answers
OK and changes the deskew list only, in which every channel from the first one upward has its value clamped to 15 and
every other channel keeps its own. SET_GLITCH with a pod above 3 is answered BAD_ARGUMENT, otherwise BUSY while sampling
runs, otherwise OK with the width clamped to 7 as the pod's glitch width and nothing else changed. -/
def Obligations.DeskewAndGlitchSettings : Prop :=
  ∀ (tag : Tag) (first : Word) (values : List Word) (pod width : Word) (s : State), canDispatch s = true →
    s.pods.deskew.length = 32 →
    (31 < first.toNat ∨ values = [] ∨ 32 < first.toNat + values.length →
      exec (.setDeskew tag first values) s = .next (answered tag 3 .badArgument [] s)) ∧
    (values ≠ [] → first.toNat + values.length ≤ 32 →
      (s.time.sampling = true → exec (.setDeskew tag first values) s = .next (answered tag 3 .busy [] s)) ∧
      (s.time.sampling = false → ∃ deskew : List Nat,
        exec (.setDeskew tag first values) s =
          .next (answered tag 3 .ok [] { s with pods := { s.pods with deskew := deskew } }) ∧
        deskew.length = 32 ∧
        ∀ k : Nat, k < 32 → deskew[k]? =
          if first.toNat ≤ k ∧ k < first.toNat + values.length
          then (values[k - first.toNat]?).map (fun v => min v.toNat 15)
          else s.pods.deskew[k]?)) ∧
    (3 < pod.toNat → exec (.setGlitch tag pod width) s = .next (answered tag 4 .badArgument [] s)) ∧
    (∀ p : Pod, pod.toNat = p.val →
      (s.time.sampling = true → exec (.setGlitch tag pod width) s = .next (answered tag 4 .busy [] s)) ∧
      (s.time.sampling = false →
        exec (.setGlitch tag pod width) s =
          .next (answered tag 4 .ok [] (modLink p (fun k => { k with glitchWidth := min width.toNat 7 }) s))))

/-- A pulse that returns within the glitch width is suppressed and flagged, any other change passes. For one channel with
glitch width w at a tick not within a suppressed pulse, look j being its deskewed level j ticks ahead and out its output
level: with no difference nothing happens and the flag is 0; when the level returns to out at a least j below w, the
output is kept, the flag is 1 and the j - 1 following ticks are passed over; otherwise the new level passes with flag 0.
Within a suppressed pulse the output is kept with flag 0. A width of 0 or 1 suppresses nothing. -/
def Obligations.GlitchQualificationOfAChannel : Prop :=
  ∀ (look : Nat → Bool) (w : Nat) (out : Bool),
    (look 0 = out → qualify look w out 0 = ⟨out, 0, false⟩) ∧
    (∀ j, look 0 ≠ out → j < w → look j = out → (∀ i, i < j → look i ≠ out) →
      qualify look w out 0 = ⟨out, j - 1, true⟩) ∧
    (look 0 ≠ out → (∀ j, j < w → look j ≠ out) → qualify look w out 0 = ⟨look 0, 0, false⟩) ∧
    (∀ n, qualify look w out (n + 1) = ⟨out, n, false⟩) ∧
    (w ≤ 1 → (qualify look w out 0).glitch = false ∧ (qualify look w out 0).level = look 0)

/-- POD_STATUS reports the pod and clears its eight accumulator bits. POD_STATUS of a pod above 3 is answered BAD_ARGUMENT.
Otherwise the RESPONSE is OK with, in order, link state, kind, lock run, training word count, bad-frame run, code, step,
confirmed, the wait with its presence word, glitch width, the eight deskews and the eight accumulator bits; the pod's
accumulator bits become 0, the other bits stay, and nothing else changes. The layout of the eight bits in one word is the
model's choice (log 22). -/
def Obligations.PodStatusReportsAndClears : Prop :=
  ∀ (tag : Tag) (pod : Word) (s : State), canDispatch s = true →
    (3 < pod.toNat → exec (.podStatus tag pod) s = .next (answered tag 5 .badArgument [] s)) ∧
    (∀ p : Pod, pod.toNat = p.val → ∃ acc : BitVec 32,
      exec (.podStatus tag pod) s = .next (answered tag 5 .ok
        ([(s.pods.links[p]).state.code, (s.pods.links[p]).kind.code, word (s.pods.links[p]).lockRun,
          word (s.pods.links[p]).words, word (s.pods.links[p]).badRun, (s.pods.links[p]).code.zeroExtend 32,
          (s.pods.links[p]).hyst.zeroExtend 32, flagWord (s.pods.links[p]).confirmed,
          flagWord (s.pods.links[p]).wait.isSome, word ((s.pods.links[p]).wait.getD 0),
          word (s.pods.links[p]).glitchWidth]
          ++ (List.range 8).map (fun i => word (s.pods.deskew.getD (8 * p.val + i) 0))
          ++ [(s.pods.accumulator >>> (8 * p.val)) &&& 0xFF#32])
        { s with pods := { s.pods with accumulator := acc } }) ∧
      ∀ k : Nat, acc.getLsbD k = (s.pods.accumulator.getLsbD k && !(decide (8 * p.val ≤ k) && decide (k < 8 * p.val + 8))))

/-- Each grid tick delivers one entry per pod: the next tick its frames cover, else held levels with bit 0.
LEVEL_STREAM_SAMPLE always answers a next state. In it every pod's next undelivered tick has been delivered, or the held
levels with pod-valid bit 0 where its frames cover none; the four entries with the TRIG_IN level are the newest tick of
the delay lines, the links are otherwise as they were, and deskew, tables, view, panel and Uplink are unchanged, and so is
every slot of the capture DRAM. The sample made is that of the tick delivered six rows before. In timing mode the level of
channel k with deskew d is the qualified level, and the deskewed level at a tick is what was delivered d ticks before it,
with no deskew of the pod-valid bits; the glitch flag also sets the channel's accumulator bit. In state mode the levels
are as delivered, flags are 0, and glitch qualification and the accumulator stay. That a frame's ticks are the pod's next
undelivered ones is log 3; the delay of 6 ticks and the window of 22 are log 2, and the mode in force and the frozen
qualification are log 11. -/
def Obligations.EveryTickDeliversOneEntryPerPod : Prop :=
  ∀ (trigIn : Bool) (s : State), ∃ t : State, exec (.levelStreamSample trigIn) s = .next t ∧
    (∀ p : Pod, t.pods.links[p] = { s.pods.links[p] with due := (s.pods.links[p]).due.tail }) ∧
    t.pods.deskew = s.pods.deskew ∧ t.tables = s.tables ∧ t.view = s.view ∧ t.panel = s.panel ∧ t.uplink = s.uplink ∧
    t.pending = s.pending ∧ t.resetN = s.resetN ∧ t.capture.dram = s.capture.dram ∧
    (∃ g : GridTick, t.pods.window = (g :: s.pods.window).take 22 ∧ g.trig = trigIn ∧
      ∀ p : Pod,
        ((s.pods.links[p]).due = [] → g.valid.getLsbD p = false ∧
          ∀ k, k < 8 → g.levels.getLsbD (8 * p.val + k) = (s.pods.links[p]).held.getLsbD k) ∧
        (∀ e rest, (s.pods.links[p]).due = e :: rest → g.valid.getLsbD p = e.valid ∧
          ∀ k, k < 8 → g.levels.getLsbD (8 * p.val + k) = e.levels.getLsbD k)) ∧
    t.time.last.valid = (t.pods.window.getD 6 GridTick.zero).valid ∧
    t.time.last.trig = (t.pods.window.getD 6 GridTick.zero).trig ∧
    t.time.last.raw = (t.pods.window.getD 6 GridTick.zero).levels ∧
    (s.time.modeInForce = .timing → ∀ (p : Pod) (c : Nat), c < 8 → ∀ (k : Nat), k = 8 * p.val + c →
      -- the deskewed level of channel k, `ahead` ticks after the tick of the sample
      ∀ (look : Nat → Bool), (∀ ahead, look ahead =
        (t.pods.window.getD (6 - ahead + s.pods.deskew.getD k 0) GridTick.zero).levels.getLsbD k) →
      ∀ (q : Qualified), q = qualify look (s.pods.links[p]).glitchWidth
        ((s.pods.output.map (fun o => o.getLsbD k)).getD (look 0)) (s.pods.skip.getD k 0) →
      t.time.last.levels.getLsbD k = q.level ∧ t.time.last.glitch.getLsbD k = q.glitch ∧
      t.pods.output.map (fun o => o.getLsbD k) = some q.level ∧ t.pods.skip.getD k 0 = q.skip ∧
      t.pods.accumulator.getLsbD k = (s.pods.accumulator.getLsbD k || q.glitch)) ∧
    (s.time.modeInForce = .state → t.time.last.levels = t.time.last.raw ∧ t.time.last.glitch = 0 ∧
      t.pods.output = s.pods.output ∧ t.pods.skip = s.pods.skip ∧ t.pods.accumulator = s.pods.accumulator)

/-- While sampling is STOPPED a grid tick reaches no consumer and the tick counter keeps its value. With sampling STOPPED, the
controller IDLE or CLOSING and every lane OFF, LEVEL_STREAM_SAMPLE answers a next state that differs only in the pod
interface (the tick delivered and qualified in the mode in force), the latest sample of the stream and the end of a
TRIG_OUT pulse (log 15); the capture tick counter, the records, the sequencer and the lanes are as they were. The mode in
force while sampling is STOPPED is that of the last start (log 11). -/
def Obligations.SamplesAreNotStampedWhileStopped : Prop :=
  ∀ (trigIn : Bool) (s : State), s.time.sampling = false → s.capture.ctl = .idle ∨ s.capture.ctl = .closing →
    allLanesOff s →
    exec (.levelStreamSample trigIn) s = .next { s with
      pods := qualifiedPods s.time.modeInForce (deliverTick trigIn s.pods)
      time := { s.time with last := streamSample s.time.modeInForce (deliverTick trigIn s.pods) }
      trigger := { s.trigger with trigOut := false } }

/-- In MONITOR each grid tick adds 1 to the capture tick counter, the first is 0, and no record is produced. In MONITOR with
sampling RUNNING, every lane OFF and the sequencer IDLE, LEVEL_STREAM_SAMPLE answers a next state: the first sample of the
sampling is stamped 0, each later one 1 more than the one before, as long as the counter is below 2^48 - 1; the whole
capture store, lanes, record path and events are unchanged, the sequencer stays IDLE, and an evaluated sample becomes the
sequencer's previous one, while another leaves it. The flag of a sampling with no sample stamped yet is the model's own
(log 10), the mode in force is log 11. -/
def Obligations.MonitorStampsEveryTick : Prop :=
  ∀ (trigIn : Bool) (n : Nat) (s : State), s.capture.ctl = .monitor → s.time.sampling = true → allLanesOff s →
    s.trigger.state = .idle →
    (s.time.fresh = true → ∃ t : State, exec (.levelStreamSample trigIn) s = .next t ∧ t.time.tick = some 0 ∧
      t.time.fresh = false ∧ t.time.sampling = true ∧ t.capture = s.capture ∧ t.lanes = s.lanes ∧ t.rpath = s.rpath ∧
      t.events = s.events ∧ t.trigger.state = .idle ∧ t.trigger.counters = s.trigger.counters ∧
      (evaluatedSample s.time t.time.last = true → t.trigger.prev = t.time.last) ∧
      (evaluatedSample s.time t.time.last = false → t.trigger.prev = s.trigger.prev)) ∧
    (s.time.fresh = false → s.time.tick = some n → n < 281474976710655 →
      ∃ t : State, exec (.levelStreamSample trigIn) s = .next t ∧ t.time.tick = some (n + 1) ∧
      t.time.fresh = false ∧ t.time.sampling = true ∧ t.capture = s.capture ∧ t.lanes = s.lanes ∧ t.rpath = s.rpath ∧
      t.events = s.events ∧ t.trigger.state = .idle ∧ t.trigger.counters = s.trigger.counters ∧
      (evaluatedSample s.time t.time.last = true → t.trigger.prev = t.time.last) ∧
      (evaluatedSample s.time t.time.last = false → t.trigger.prev = s.trigger.prev))

/-- In state mode a stamped sample is evaluated exactly at a clock edge at which the qualifier holds. In timing mode every
stamped sample is evaluated. In state mode a stamped sample is evaluated exactly when the state clock channel changed in
the selected direction against the tick before and every channel of the qualifier mask has the level of the qualifier
value. -/
def Obligations.StateSampleOnAQualifiedClockEdge : Prop :=
  ∀ (t : Timebase) (sm : Sample),
    (t.modeInForce = .timing → evaluatedSample t sm = true) ∧
    (t.modeInForce = .state →
      (evaluatedSample t sm = true ↔
        ((t.clockEdge = .rising ∧ t.last.raw.getLsbD t.clockChan = false ∧ sm.raw.getLsbD t.clockChan = true) ∨
         (t.clockEdge = .falling ∧ t.last.raw.getLsbD t.clockChan = true ∧ sm.raw.getLsbD t.clockChan = false) ∨
         (t.clockEdge = .both ∧ t.last.raw.getLsbD t.clockChan ≠ sm.raw.getLsbD t.clockChan)) ∧
        ∀ k, k < 32 → t.qMask.getLsbD k = true → sm.raw.getLsbD k = t.qValue.getLsbD k))

/-- At 2^48 - 1 the time limit stops sampling, flags and closes the current segment and raises TIME_LIMIT. TIME_LIMIT, with
sampling RUNNING, the counter at 2^48 - 1 and every lane OFF: in MONITOR sampling is STOPPED, the controller IDLE and the
TIME_LIMIT event raised, nothing else changed. In CAPTURING a segment i with no overrun pending the controller is CLOSING,
sampling STOPPED, the sequencer IDLE, the segment CLOSING with close kind STOPPED, its TIME_LIMIT flag set, its end time
2^48 - 1, its END record at the tail of the writer queue and counted as produced, and the event raised. Where the limit is
not reached TIME_LIMIT changes nothing (the row as a step of its own is the model's choice, log 4). -/
def Obligations.TimeLimitStopsSampling : Prop :=
  ∀ (i : Nat) (s : State), allLanesOff s →
    (s.time.sampling = true → s.time.fresh = false → s.time.tick = some 281474976710655 →
      (s.capture.ctl = .monitor →
        exec .timeLimit s = .next (raise blkCapture evTimeLimit { s with
          time := { s.time with sampling := false, fresh := false }
          capture := { s.capture with ctl := .idle } })) ∧
      (s.capture.ctl = .capturing i → i < s.capture.segs.length → (segAt s i).overrun = none →
        ∃ t : State, exec .timeLimit s = .next t ∧ t.capture.ctl = .closing ∧ t.time.sampling = false ∧
          t.time.tick = s.time.tick ∧ t.trigger.state = .idle ∧ t.events = s.events.set blkCapture
            ((s.events[blkCapture]).raise evTimeLimit) ∧
          t.capture.queue = s.capture.queue ++ [⟨i, ⟨.close, s.time.last.valid, 281474976710655,
            s.time.last.levels &&& (segAt s i).mask, 0⟩, false⟩] ∧
          segAt t i = { segAt s i with
            state := .closing, closeStopped := true, endTime := some 281474976710655
            produced := (segAt s i).produced + 1
            flags := { (segAt s i).flags with timeLimit := true } } ∧
          t.capture.dram = s.capture.dram ∧ t.pods = s.pods ∧ t.tables = s.tables ∧ t.rpath = s.rpath ∧ t.view = s.view ∧
          t.panel = s.panel ∧ t.uplink = s.uplink)) ∧
    (s.time.sampling = false ∨ s.time.tick ≠ some 281474976710655 → exec .timeLimit s = .next s)

/-- A reference count advances the subsecond unless withheld, carries into the seconds and applies the correction. For a
subsecond below 32,768 and an amount of at most 63, with the sequencer not in WAIT_ARM, and roll off or no record written
in the viewport's segment, one reference count changes only the timebase (roll is in ClockRowsAreTheirReferenceCount).
Inside a correction interval: with withheld counts the subsecond stays and they fall by 1; otherwise the subsecond rises
by 1, from 32,767 to 0 with the seconds advancing. At the interval's end the interval count is 0 and, the count first
taken, PLUS raises the subsecond by the amount, with a carry into the seconds at 32,768; MINUS makes the amount the
withheld counts; NONE does neither; under both a count at 32,767 takes the subsecond to 0 and advances the seconds. The
end is stated with no count withheld. -/
def Obligations.ReferenceCountAdvancesTheWallClock : Prop :=
  ∀ (s : State), s.time.subsecond < 32768 → s.time.corrAmount ≤ 63 → s.trigger.state ≠ .waitArm →
    s.view.roll = false ∨ (segAt s s.view.seg).viewLimit = none →
    (s.time.intervalCount + 1 < (if s.time.corrLong then 1966080 else 327680) →
      (0 < s.time.withheld →
        exec .wallClockReferenceCount s = .next { s with time := { s.time with
          withheld := s.time.withheld - 1, intervalCount := s.time.intervalCount + 1 } }) ∧
      (s.time.withheld = 0 → s.time.subsecond < 32767 →
        exec .wallClockReferenceCount s = .next { s with time := { s.time with
          subsecond := s.time.subsecond + 1, intervalCount := s.time.intervalCount + 1 } }) ∧
      (s.time.withheld = 0 → s.time.subsecond = 32767 →
        exec .wallClockReferenceCount s = .next { s with time := { s.time with
          subsecond := 0, seconds := s.time.seconds + 1, intervalCount := s.time.intervalCount + 1 } })) ∧
    (s.time.intervalCount + 1 = (if s.time.corrLong then 1966080 else 327680) → s.time.withheld = 0 →
      (s.time.corrDir = .plus → s.time.subsecond + 1 + s.time.corrAmount < 32768 →
        exec .wallClockReferenceCount s = .next { s with time := { s.time with
          subsecond := s.time.subsecond + 1 + s.time.corrAmount, intervalCount := 0 } }) ∧
      (s.time.corrDir = .plus → 32768 ≤ s.time.subsecond + 1 + s.time.corrAmount →
        exec .wallClockReferenceCount s = .next { s with time := { s.time with
          subsecond := s.time.subsecond + 1 + s.time.corrAmount - 32768, seconds := s.time.seconds + 1
          intervalCount := 0 } }) ∧
      (s.time.corrDir = .minus → s.time.subsecond < 32767 →
        exec .wallClockReferenceCount s = .next { s with time := { s.time with
          subsecond := s.time.subsecond + 1, intervalCount := 0, withheld := s.time.corrAmount } }) ∧
      (s.time.corrDir = .minus → s.time.subsecond = 32767 →
        exec .wallClockReferenceCount s = .next { s with time := { s.time with
          subsecond := 0, seconds := s.time.seconds + 1, intervalCount := 0, withheld := s.time.corrAmount } }) ∧
      (s.time.corrDir = .none → s.time.subsecond < 32767 →
        exec .wallClockReferenceCount s = .next { s with time := { s.time with
          subsecond := s.time.subsecond + 1, intervalCount := 0 } }) ∧
      (s.time.corrDir = .none → s.time.subsecond = 32767 →
        exec .wallClockReferenceCount s = .next { s with time := { s.time with
          subsecond := 0, seconds := s.time.seconds + 1, intervalCount := 0 } }))

/-- SECONDS_ADVANCE, CORRECTION_INTERVAL_END and ROLL_REFRESH are the reference count that brings them about (log 5). For an
unwithheld count inside a correction interval of a subsecond below 32,768: SECONDS_ADVANCE is the reference count that
takes 32,767 to 0, and any other changes nothing; ROLL_REFRESH is the count that takes the subsecond to a multiple of the
period's counts, and any other changes nothing. CORRECTION_INTERVAL_END is the count that would bring the interval count
to the interval length, and any other changes nothing. The roll-refresh event, with the sequencer not in WAIT_ARM, does
nothing with roll off or with no record written in the viewport's segment. With roll on and a record written it sets T0 to
the view limit less floor(720 Q / 256), or to 0, keeps Q and the cursors, and makes a view request; a count at no multiple
changes only the clock, roll on or off. That a row given at another count changes nothing is the model's choice (log 5). -/
def Obligations.ClockRowsAreTheirReferenceCount : Prop :=
  ∀ (s : State),
    (s.time.intervalCount + 1 = (if s.time.corrLong then 1966080 else 327680) →
      exec .correctionIntervalEnd s = exec .wallClockReferenceCount s ∧
      ∃ t, exec .correctionIntervalEnd s = .next t ∧ t.time.intervalCount = 0) ∧
    (s.time.intervalCount + 1 < (if s.time.corrLong then 1966080 else 327680) →
      exec .correctionIntervalEnd s = .next s ∧
      (s.time.withheld = 0 → s.time.subsecond = 32767 →
        exec .secondsAdvance s = exec .wallClockReferenceCount s ∧
        ∃ t, exec .secondsAdvance s = .next t ∧ t.time.seconds = s.time.seconds + 1 ∧ t.time.subsecond = 0) ∧
      (s.time.withheld = 0 → s.time.subsecond < 32767 →
        exec .secondsAdvance s = .next s ∧
        ((s.time.subsecond + 1) % (2048 * 2 ^ s.time.rollPeriod) = 0 →
          exec .rollRefresh s = exec .wallClockReferenceCount s ∧
          ∃ t, exec .rollRefresh s = .next t ∧ t.time.subsecond = s.time.subsecond + 1) ∧
        ((s.time.subsecond + 1) % (2048 * 2 ^ s.time.rollPeriod) ≠ 0 →
          exec .rollRefresh s = .next s ∧
          exec .wallClockReferenceCount s = .next { s with time := { s.time with
            subsecond := s.time.subsecond + 1, intervalCount := s.time.intervalCount + 1 } })) ∧
      -- the roll-refresh event
      (s.time.withheld = 0 → s.time.subsecond < 32768 → s.trigger.state ≠ .waitArm →
        (s.time.subsecond + 1) % (2048 * 2 ^ s.time.rollPeriod) = 0 →
        ∀ u : Timebase, u = { s.time with
            subsecond := (s.time.subsecond + 1) % 32768, intervalCount := s.time.intervalCount + 1
            seconds := if s.time.subsecond = 32767 then s.time.seconds + 1 else s.time.seconds } →
          (s.view.roll = false ∨ (segAt s s.view.seg).viewLimit = none →
            exec .rollRefresh s = .next { s with time := u }) ∧
          (∀ limit : Nat, s.view.roll = true → (segAt s s.view.seg).viewLimit = some limit →
            ∃ t : State, exec .rollRefresh s = .next t ∧
              viewRequested { s.view.snapshot with t0 := min (limit - 720 * s.view.q / 256) 281474976710655 }
                { s with time := u } t)))

/-- SET_CLOCK, SET_CORRECTION and SET_ROLL_PERIOD store their settings. SET_CLOCK, with the sequencer not in WAIT_ARM, answers
OK: the seconds take the value, subsecond, interval count and withheld counts become 0, and nothing else changes.
SET_CORRECTION with a direction code above 2 or an interval code above 1 is answered BAD_ARGUMENT; otherwise OK with the
amount clamped to 63, stored with direction and interval, and the interval count and withheld counts become 0.
SET_ROLL_PERIOD with a code above 4 is answered BAD_ARGUMENT, otherwise OK and stored. -/
def Obligations.WallClockCommands : Prop :=
  ∀ (tag : Tag) (seconds dir amount interval code : Word) (s : State), canDispatch s = true →
    (s.trigger.state ≠ .waitArm →
      exec (.setClock tag seconds) s = .next (answered tag 8 .ok [] { s with time := { s.time with
        seconds := seconds, subsecond := 0, intervalCount := 0, withheld := 0 } })) ∧
    (2 < dir.toNat ∨ 1 < interval.toNat →
      exec (.setCorrection tag dir amount interval) s = .next (answered tag 9 .badArgument [] s)) ∧
    (∀ d : Direction, dir = d.code → interval.toNat ≤ 1 →
      exec (.setCorrection tag dir amount interval) s =
        .next (answered tag 9 .ok [word (min amount.toNat 63)] { s with time := { s.time with
          corrDir := d, corrAmount := min amount.toNat 63, corrLong := decide (interval = 1), intervalCount := 0
          withheld := 0 } })) ∧
    (4 < code.toNat → exec (.setRollPeriod tag code) s = .next (answered tag 10 .badArgument [] s)) ∧
    (code.toNat ≤ 4 →
      exec (.setRollPeriod tag code) s =
        .next (answered tag 10 .ok [] { s with time := { s.time with rollPeriod := code.toNat } }))

/-- SET_TIMEBASE: BUSY, then BAD_ARGUMENT, then LANE_ACTIVE, else stored with D clamped and the qualifier masked. While
sampling is RUNNING the command is answered BUSY. Otherwise a mode code above 1, an edge code above 2 or a clock channel
above 31 is answered BAD_ARGUMENT. Otherwise a mode of STATE with a live lane not OFF is answered LANE_ACTIVE. A refusal
changes nothing but the response slot. Otherwise it is answered OK with the effective D (0 as 1, above 65,536 as 65,536),
the mask without the clock channel's bit and the value without the bits the stored mask lacks, which are stored with mode,
channel and edge; the mode in force stays. -/
def Obligations.SetTimebaseJudgedInOrder : Prop :=
  ∀ (tag : Tag) (d mode chan edge mask value : Word) (s : State), canDispatch s = true →
    (s.time.sampling = true →
      exec (.setTimebase tag d mode chan edge mask value) s = .next (answered tag 6 .busy [] s)) ∧
    (s.time.sampling = false →
      (1 < mode.toNat ∨ 2 < edge.toNat ∨ 31 < chan.toNat →
        exec (.setTimebase tag d mode chan edge mask value) s = .next (answered tag 6 .badArgument [] s)) ∧
      (∀ (m : Mode) (e : Edge), mode = m.code → edge = e.code → chan.toNat ≤ 31 →
        (m = .state → (∃ l : LaneId, (s.lanes[l]).state ≠ .off ∧ (s.lanes[l]).isReplay = false) →
          exec (.setTimebase tag d mode chan edge mask value) s = .next (answered tag 6 .laneActive [] s)) ∧
        (m = .timing ∨ (∀ l : LaneId, (s.lanes[l]).state = .off ∨ (s.lanes[l]).isReplay = true) →
          exec (.setTimebase tag d mode chan edge mask value) s =
            .next (answered tag 6 .ok
              [word (max 1 (min d.toNat 65536)), mask &&& ~~~(1#32 <<< chan.toNat),
                value &&& (mask &&& ~~~(1#32 <<< chan.toNat))]
              { s with time := { s.time with
                divider := max 1 (min d.toNat 65536), mode := m, clockChan := chan.toNat, clockEdge := e
                qMask := mask &&& ~~~(1#32 <<< chan.toNat)
                qValue := value &&& (mask &&& ~~~(1#32 <<< chan.toNat)) } }))))

/-- SET_CAPTURE: BUSY, then BAD_ARGUMENT for the count and the sum, else the six settings are stored. With the controller not
IDLE the command is answered BUSY. Otherwise an S that is not one of 1, 2, 4, ..., 256, or a prefill + postfill + 1 above
2^24/S, is answered BAD_ARGUMENT, and so is (the model's choice, log 21) a hold or auto code above 1. A refusal changes
nothing but the response slot. Otherwise the settings are stored and the RESPONSE is OK with the six of them; layout,
descriptors, records and the settings in force are unchanged. -/
def Obligations.SetCaptureJudgedInOrder : Prop :=
  ∀ (tag : Tag) (mask count prefill postfill : Word) (hold auto : Bool) (s : State), canDispatch s = true →
    (s.capture.ctl ≠ .idle →
      exec (.setCapture tag mask count prefill postfill (flagWord hold) (flagWord auto)) s =
        .next (answered tag 11 .busy [] s)) ∧
    (s.capture.ctl = .idle →
      (count.toNat ∉ [1, 2, 4, 8, 16, 32, 64, 128, 256] →
        exec (.setCapture tag mask count prefill postfill (flagWord hold) (flagWord auto)) s =
          .next (answered tag 11 .badArgument [] s)) ∧
      (count.toNat ∈ [1, 2, 4, 8, 16, 32, 64, 128, 256] →
        (16777216 / count.toNat < prefill.toNat + postfill.toNat + 1 →
          exec (.setCapture tag mask count prefill postfill (flagWord hold) (flagWord auto)) s =
            .next (answered tag 11 .badArgument [] s)) ∧
        (prefill.toNat + postfill.toNat + 1 ≤ 16777216 / count.toNat →
          exec (.setCapture tag mask count prefill postfill (flagWord hold) (flagWord auto)) s =
            .next (answered tag 11 .ok [mask, count, prefill, postfill, flagWord hold, flagWord auto]
              { s with capture := { s.capture with
                stored := ⟨mask, count.toNat, prefill.toNat, postfill.toNat, hold, auto⟩ } }))) ∧
      (∀ h a : Word, 1 < h.toNat ∨ 1 < a.toNat →
        exec (.setCapture tag mask count prefill postfill h a) s = .next (answered tag 11 .badArgument [] s)))

/-- RUN is judged in order; taken, the stored settings come into force and segment 0 starts filling. RUN with the controller
not IDLE is answered BUSY; otherwise with a lane replaying LANE_ACTIVE; otherwise with a record or frame readout in flight
BUSY. Otherwise (every lane OFF, and a stored count of at least 1, which the invariant on settings gives) it is answered
OK: the stored settings are in force, their count is the layout, segment 0 is FILLING from tick 0 with the mask, mode, D
and wall seconds in force and every other segment EMPTY, every frame log and the log write queue are empty, sampling is
RUNNING with no sample stamped, the controller is CAPTURING 0, the sequencer's counters and latches are cleared and it is
in WAIT_ARM when the seconds are below a present arm time, otherwise in RUNNING at stage 0. The view engine gives up its
pass, its ready mark and its pending request, ends a running measurement as overtaken with MEASURE_DONE, takes segment 0
for a viewport whose segment is not in the new layout, keeps the front buffer, the rest of the viewport and the cursors,
and makes a view request: for segment 0 it starts its pass at column 0 at once, for another segment, which is EMPTY,
nothing is stored. Pods, tables, lanes, panel and every DRAM slot are unchanged. -/
def Obligations.RunStartsACapture : Prop :=
  ∀ (tag : Tag) (s : State), canDispatch s = true →
    (s.capture.ctl ≠ .idle → exec (.run tag) s = .next (answered tag 12 .busy [] s)) ∧
    (s.capture.ctl = .idle →
      ((∃ l : LaneId, (s.lanes[l]).state ≠ .off ∧ (s.lanes[l]).isReplay = true) →
        exec (.run tag) s = .next (answered tag 12 .laneActive [] s)) ∧
      (allLanesOff s →
        (s.capture.readout.isSome ∨ s.rpath.readout.isSome → exec (.run tag) s = .next (answered tag 12 .busy [] s)) ∧
        (s.capture.readout = none → s.rpath.readout = none → 0 < s.capture.stored.count →
          ∃ t : State, exec (.run tag) s = .next (answered tag 12 .ok [] t) ∧
            t.capture.ctl = .capturing 0 ∧ t.capture.inForce = s.capture.stored ∧ t.capture.stored = s.capture.stored ∧
            t.capture.layout = s.capture.stored.count ∧ t.capture.segs.length = s.capture.stored.count ∧
            segAt t 0 = { Segment.empty s.capture.stored.count with
              state := .filling, wallStart := s.time.seconds, mask := s.capture.stored.mask, mode := s.time.mode
              divider := s.time.divider } ∧
            (∀ i, 0 < i → i < s.capture.stored.count → segAt t i = Segment.empty s.capture.stored.count) ∧
            t.rpath.logs = List.replicate s.capture.stored.count [] ∧ t.rpath.logQueue = [] ∧
            t.time.sampling = true ∧ t.time.fresh = true ∧ t.time.modeInForce = s.time.mode ∧
            t.time.seconds = s.time.seconds ∧
            (∀ a, s.trigger.armTime = some a → s.time.seconds < a →
              t.trigger.state = .waitArm ∧
              ∀ k : CounterId, (t.trigger.counters[k]).value = 0 ∧ (t.trigger.counters[k]).running = false) ∧
            ((∀ a, s.trigger.armTime = some a → a ≤ s.time.seconds) →
              t.trigger.state = .running ∧ t.trigger.stage = 0 ∧ t.trigger.force = false ∧
              (∀ n : Fin 4, t.trigger.latches[n] = none) ∧
              ∀ k : CounterId, (t.trigger.counters[k]).value = 0 ∧ (t.trigger.counters[k]).matched = false) ∧
            -- the view engine
            t.view.seg = (if s.view.seg < s.capture.stored.count then s.view.seg else 0) ∧
            t.view.t0 = s.view.t0 ∧ t.view.q = s.view.q ∧ t.view.roll = s.view.roll ∧
            t.view.cursorA = s.view.cursorA ∧ t.view.cursorB = s.view.cursorB ∧ t.view.front = s.view.front ∧
            t.view.columns = s.view.columns ∧ t.view.passCount = s.view.passCount ∧
            t.view.pending = none ∧ t.view.ready = false ∧
            (t.view.seg = 0 → ∃ p : Pass, t.view.pass = some p ∧ p.snap = t.view.snapshot ∧ p.rows = s.panel.rowMap ∧
              p.col = 0 ∧ p.reader = .idle) ∧
            (t.view.seg ≠ 0 → t.view.pass = none) ∧
            (∀ m : MeasureRun, s.view.meas = .running m →
              t.view.meas = .waiting m.tag { m.result with overtaken := true } ∧
              t.events[blkView] = (s.events[blkView]).raise evMeasureDone) ∧
            (s.view.measuring = false → t.view.meas = s.view.meas ∧ t.events[blkView] = s.events[blkView]) ∧
            t.pods = s.pods ∧ t.tables = s.tables ∧ t.lanes = s.lanes ∧ t.panel = s.panel ∧ t.uplink = s.uplink ∧
            t.capture.dram = s.capture.dram)))

/-- MONITOR starts sampling without records; STOP acts by the controller state and answers the state before. MONITOR is
answered BUSY unless the controller is IDLE; with every lane OFF it is answered OK, the controller is MONITOR, sampling
RUNNING with no sample stamped, the sequencer's state, the segments, logs and DRAM as they were. STOP is answered OK with
the controller state before: with sampling STOPPED in IDLE and CLOSING nothing changes; in MONITOR, with every lane OFF
and the counter below 2^48 - 1, sampling is STOPPED and the controller IDLE and nothing else changes; in CAPTURING i with
no overrun pending and a sample stamped, the controller is CLOSING, sampling STOPPED, the sequencer IDLE, segment i
CLOSING with close kind STOPPED, its trigger kept, its end time the last tick, and its END record at the tail of the
writer queue. -/
def Obligations.MonitorAndStop : Prop :=
  ∀ (tag : Tag) (i n : Nat) (s : State), canDispatch s = true → allLanesOff s →
    (s.capture.ctl ≠ .idle → exec (.monitor tag) s = .next (answered tag 13 .busy [] s)) ∧
    (s.capture.ctl = .idle → ∃ t : State, exec (.monitor tag) s = .next (answered tag 13 .ok [] t) ∧
      t.capture = { s.capture with ctl := .monitor } ∧
      t.time = { s.time with sampling := true, fresh := true, modeInForce := s.time.mode } ∧
      t.trigger.state = s.trigger.state ∧ t.trigger.counters = s.trigger.counters ∧ t.trigger.prev = s.time.last ∧
      t.pods = s.pods ∧ t.tables = s.tables ∧ t.lanes = s.lanes ∧ t.rpath = s.rpath ∧ t.view = s.view ∧
      t.panel = s.panel ∧ t.events = s.events ∧ t.uplink = s.uplink) ∧
    (s.time.sampling = false → s.capture.ctl = .idle ∨ s.capture.ctl = .closing →
      exec (.stop tag) s = .next (answered tag 14 .ok [s.capture.ctl.code] s)) ∧
    (s.capture.ctl = .monitor → s.time.tick ≠ some 281474976710655 →
      exec (.stop tag) s = .next (answered tag 14 .ok [1] { s with
        time := { s.time with sampling := false, fresh := false }
        capture := { s.capture with ctl := .idle } })) ∧
    (s.capture.ctl = .capturing i → i < s.capture.segs.length → (segAt s i).overrun = none → s.time.fresh = false →
      s.time.tick = some n → n ≠ 281474976710655 →
      ∃ t : State, exec (.stop tag) s = .next (answered tag 14 .ok [2] t) ∧ t.capture.ctl = .closing ∧
        t.time = { s.time with sampling := false, fresh := false } ∧ t.trigger.state = .idle ∧
        t.capture.queue = s.capture.queue ++ [⟨i, ⟨.close, s.time.last.valid, n,
          s.time.last.levels &&& (segAt s i).mask, 0⟩, false⟩] ∧
        segAt t i = { segAt s i with
          state := .closing, closeStopped := true, endTime := some n, produced := (segAt s i).produced + 1 } ∧
        (∀ j, j ≠ i → segAt t j = segAt s j) ∧ t.capture.dram = s.capture.dram ∧ t.pods = s.pods ∧
        t.tables = s.tables ∧ t.lanes = s.lanes ∧ t.rpath = s.rpath ∧ t.view = s.view ∧ t.panel = s.panel ∧
        t.events = s.events ∧ t.uplink = s.uplink)

/-- A stamped sample of a segment produces START, CHANGE or POD records by its mode, or none. While segment i is FILLING with
the sequencer RUNNING in a stage with no terms, or in POST_FILL below its postfill with the sequencer TRIGGERED (its
records then carry the post-trigger mark, log 14), nothing pending, two slots free in the writer queue and every lane OFF:
the sample is stamped with the tick after the last, the first one after sampling starts with 0. The segment's first sample
produces its START record, so the one of segment 0 after RUN is at tick 0, and in state mode a state sample a CHANGE
record after it. Later, in timing mode, a sample whose pod-valid mask differs from the reference produces one POD record,
setting POD_FAULT when a bit falls; else one whose enabled levels differ from the reference, or with an enabled glitch
flag, one CHANGE record; else none. In state mode a changed mask produces a POD record, and a state sample a CHANGE record
after it, whatever its levels. A record carries the sample's tick, mask, enabled levels and enabled glitch flags (0 in
state mode), enters at the tail of the queue, is counted as produced and becomes the reference; the rest of the segment
and the other segments stay. The mode in force is log 11. -/
def Obligations.RecordsOfASample : Prop :=
  ∀ (trigIn post ev : Bool) (m : Mode) (i now : Nat) (sm : Sample) (s : State), allLanesOff s → s.time.sampling = true →
    (s.time.fresh = true ∧ now = 0) ∨
      (s.time.fresh = false ∧ ∃ n, s.time.tick = some n ∧ n < 281474976710655 ∧ now = n + 1) → s.time.modeInForce = m →
    s.capture.ctl = .capturing i → i < s.capture.segs.length →
    (segAt s i).mode = m → (segAt s i).overrun = none → s.capture.queue.length + 2 ≤ 4096 →
    (post = false ∧ (segAt s i).state = .filling ∧ s.trigger.state = .running ∧ s.trigger.force = false ∧
      (s.trigger.stages.getD s.trigger.stage Stage.cleared).advance.terms = [] ∧
      (s.trigger.stages.getD s.trigger.stage Stage.cleared).alternate = none) ∨
    (post = true ∧ (segAt s i).state = .postFill ∧ s.trigger.state = .triggered ∧
      (segAt s i).postCount < s.capture.inForce.postfill) →
    sm = streamSample m (deliverTick trigIn s.pods) → ev = evaluatedSample s.time sm →
    ∀ (rec : RecordKind → Record), (∀ k, rec k =
      ⟨k, sm.valid, now, sm.levels &&& (segAt s i).mask, if m = .state then 0 else sm.glitch &&& (segAt s i).mask⟩) →
    ∃ t : State, exec (.levelStreamSample trigIn) s = .next t ∧ t.time.tick = some now ∧ t.time.fresh = false ∧
      t.capture.ctl = s.capture.ctl ∧ (∀ j, j ≠ i → segAt t j = segAt s j) ∧ t.events = s.events ∧ t.rpath = s.rpath ∧
      t.capture.needStart = false ∧
      (s.capture.needStart = true →
        (m = .timing ∨ ev = false →
          t.capture.queue = s.capture.queue ++ [⟨i, rec .start, false⟩] ∧
          segAt t i = { segAt s i with
            produced := (segAt s i).produced + 1, refLevels := sm.levels &&& (segAt s i).mask, refPods := sm.valid }) ∧
        (m = .state → ev = true →
          t.capture.queue = s.capture.queue ++ [⟨i, rec .start, false⟩, ⟨i, rec .change, false⟩] ∧
          segAt t i = { segAt s i with
            produced := (segAt s i).produced + 2, refLevels := sm.levels &&& (segAt s i).mask
            refPods := sm.valid })) ∧
      (s.capture.needStart = false →
        (sm.valid ≠ (segAt s i).refPods →
          (m = .timing ∨ ev = false →
            t.capture.queue = s.capture.queue ++ [⟨i, rec .pod, post⟩] ∧
            segAt t i = { segAt s i with
              produced := (segAt s i).produced + 1, refLevels := sm.levels &&& (segAt s i).mask, refPods := sm.valid
              flags := { (segAt s i).flags with
                podFault := (segAt s i).flags.podFault || ((segAt s i).refPods &&& ~~~sm.valid) != 0 } }) ∧
          (m = .state → ev = true →
            t.capture.queue = s.capture.queue ++ [⟨i, rec .pod, post⟩, ⟨i, rec .change, post⟩] ∧
            segAt t i = { segAt s i with
              produced := (segAt s i).produced + 2, refLevels := sm.levels &&& (segAt s i).mask, refPods := sm.valid
              flags := { (segAt s i).flags with
                podFault := (segAt s i).flags.podFault || ((segAt s i).refPods &&& ~~~sm.valid) != 0 } })) ∧
        (sm.valid = (segAt s i).refPods →
          ((m = .timing ∧ (sm.levels &&& (segAt s i).mask ≠ (segAt s i).refLevels ∨
              sm.glitch &&& (segAt s i).mask ≠ 0)) ∨ (m = .state ∧ ev = true) →
            t.capture.queue = s.capture.queue ++ [⟨i, rec .change, post⟩] ∧
            segAt t i = { segAt s i with
              produced := (segAt s i).produced + 1, refLevels := sm.levels &&& (segAt s i).mask
              refPods := sm.valid }) ∧
          ((m = .timing ∧ sm.levels &&& (segAt s i).mask = (segAt s i).refLevels ∧
              sm.glitch &&& (segAt s i).mask = 0) ∨ (m = .state ∧ ev = false) →
            t.capture.queue = s.capture.queue ∧ segAt t i = segAt s i)))

/-- A record that finds the writer queue full is lost; the next that is not is preceded by an OVERRUN record. For a CHANGE or
POD record r produced for segment i: with no overrun pending and 4,096 or more waiting, or with one pending and fewer than
two free slots, the record is lost: the queue stays, it is counted as produced and lost, the segment's OVERRUN flag is
set, OVERRUN is raised, and an overrun opens with the record's time or the pending one counts it. With one pending and two
free slots the OVERRUN record enters first (time of the first lost record, levels and mask of r, the number lost saturated
at 65,535) and r after it, both counted as produced, and the overrun closes. In each case r becomes the reference. -/
def Obligations.LossAndOverrunOfRecords : Prop :=
  ∀ (i : Nat) (r : Record) (post : Bool) (s : State), i < s.capture.segs.length →
    ((segAt s i).overrun = none → 4096 ≤ s.capture.queue.length →
      (produce i r post s).capture.queue = s.capture.queue ∧
      (produce i r post s).events = s.events.set blkCapture ((s.events[blkCapture]).raise evOverrun) ∧
      segAt (produce i r post s) i = { segAt s i with
        produced := (segAt s i).produced + 1, lost := (segAt s i).lost + 1
        flags := { (segAt s i).flags with overrun := true }
        overrun := some ⟨r.time, 1⟩, refLevels := r.levels, refPods := r.pods }) ∧
    (∀ o : Overrun, (segAt s i).overrun = some o →
      (4096 < s.capture.queue.length + 2 →
        (produce i r post s).capture.queue = s.capture.queue ∧
        (produce i r post s).events = s.events.set blkCapture ((s.events[blkCapture]).raise evOverrun) ∧
        segAt (produce i r post s) i = { segAt s i with
          produced := (segAt s i).produced + 1, lost := (segAt s i).lost + 1
          flags := { (segAt s i).flags with overrun := true }
          overrun := some ⟨o.first, o.lost + 1⟩, refLevels := r.levels, refPods := r.pods }) ∧
      (s.capture.queue.length + 2 ≤ 4096 →
        (produce i r post s).capture.queue = s.capture.queue ++
          [⟨i, ⟨.overrun, r.pods, o.first, r.levels, BitVec.ofNat 32 (min o.lost 65535)⟩, post⟩, ⟨i, r, post⟩] ∧
        (produce i r post s).events = s.events ∧
        segAt (produce i r post s) i = { segAt s i with
          produced := (segAt s i).produced + 2, overrun := none, refLevels := r.levels, refPods := r.pods }))

/-- Post-fill completion closes the segment as DONE and continues with the next segment or stops sampling.
POST_FILL_COMPLETION, with the current segment i in POST_FILL, its post-fill count at the postfill or above, no overrun
pending, a sample n stamped and every lane OFF: the segment is CLOSING with close kind DONE and end time n, and its END
record is at the tail of the queue. With auto-continue and a next segment, segment i + 1 is FILLING from tick n + 1 and
current, awaiting its START record, sampling stays RUNNING and the sequencer is RUNNING at stage 0 with counters at 0;
otherwise the controller is CLOSING, sampling STOPPED and the sequencer IDLE. With the count below the postfill, or no
segment in POST_FILL, the row changes nothing (the model's choice, log 4). -/
def Obligations.PostFillCompletionClosesAndContinues : Prop :=
  ∀ (i n : Nat) (s : State), allLanesOff s → s.capture.ctl = .capturing i → i < s.capture.segs.length →
    (segAt s i).overrun = none → s.time.fresh = false → s.time.tick = some n →
    ((segAt s i).state = .postFill → s.capture.inForce.postfill ≤ (segAt s i).postCount →
      ∃ t : State, exec .postFillCompletion s = .next t ∧
        t.capture.queue = s.capture.queue ++ [⟨i, ⟨.close, s.time.last.valid, n,
          s.time.last.levels &&& (segAt s i).mask, 0⟩, false⟩] ∧
        segAt t i = { segAt s i with
          state := .closing, closeStopped := false, endTime := some n, produced := (segAt s i).produced + 1 } ∧
        t.capture.dram = s.capture.dram ∧ t.pods = s.pods ∧ t.tables = s.tables ∧ t.lanes = s.lanes ∧
        t.rpath = s.rpath ∧ t.view = s.view ∧ t.panel = s.panel ∧ t.uplink = s.uplink ∧
        (s.capture.inForce.auto = true → i + 1 < s.capture.layout → i + 1 < s.capture.segs.length →
          t.capture.ctl = .capturing (i + 1) ∧ t.capture.needStart = true ∧ t.time = s.time ∧
          segAt t (i + 1) = { Segment.empty s.capture.layout with
            size := (segAt s (i + 1)).size, state := .filling, startTime := n + 1, wallStart := s.time.seconds
            mask := s.capture.inForce.mask, mode := s.time.modeInForce, divider := s.time.divider } ∧
          t.trigger.state = .running ∧ t.trigger.stage = 0 ∧ t.trigger.force = false ∧
          ∀ k : CounterId, (t.trigger.counters[k]).value = 0 ∧ (t.trigger.counters[k]).matched = false) ∧
        (s.capture.inForce.auto = false ∨ s.capture.layout ≤ i + 1 →
          t.capture.ctl = .closing ∧ t.time = { s.time with sampling := false, fresh := false } ∧
          t.trigger.state = .idle ∧ t.trigger.force = false ∧
          (∀ k : CounterId, (t.trigger.counters[k]).value = (s.trigger.counters[k]).value) ∧ t.events = s.events)) ∧
    ((segAt s i).state ≠ .postFill ∨ (segAt s i).postCount < s.capture.inForce.postfill →
      exec .postFillCompletion s = .next s)

/-- A writer grant writes the head record into its ring slot and leaves every other slot as it was. With the DRAM in canonical
form, ARBITER_GRANT with a START, CHANGE, POD or OVERRUN record of segment j at the head of the writer queue, post-fill
not due, and the writer first (1,024 or more waiting, or the pointer naming lane 5): the record stands in the ring slot of
the segment's next record number, every other DRAM slot reads as before, the queue is its rest, the written count rises by
1 and the newest time is the record's time. Below the segment's size the retained count rises by 1; at its size it stays,
WRAPPED is set and the oldest time becomes that of the record then oldest: the entries of that segment that start before
it go from its log and from the log write queue, and every other entry stays. A record with the post-trigger mark adds 1
to the post-fill count while the segment is in POST_FILL or closing as DONE, and any other record adds nothing (log 14).
Pods, timebase, sequencer, tables, lanes, panel, Uplink and every other segment's descriptor are unchanged. -/
def Obligations.RingWriteKeepsTheOtherSlots : Prop :=
  ∀ (q : Queued) (rest : List Queued) (slot : Nat) (s : State), s.capture.queue = q :: rest → q.record.kind ≠ .close →
    Mem.wf Record.blank s.capture.dram = true →
    q.seg < s.capture.segs.length → postFillDue s = false →
    1024 ≤ s.capture.queue.length ∨ s.capture.rotation = .lane 5 →
    slot = q.seg * (segAt s q.seg).size + (segAt s q.seg).written % (segAt s q.seg).size → slot < 16777216 →
    ∃ t : State, exec .arbiterGrant s = .next t ∧
      Mem.read Record.blank t.capture.dram slot = q.record ∧
      (∀ a, a ≠ slot → Mem.read Record.blank t.capture.dram a = Mem.read Record.blank s.capture.dram a) ∧
      t.capture.queue = rest ∧ t.capture.ctl = s.capture.ctl ∧
      (segAt t q.seg).written = (segAt s q.seg).written + 1 ∧ (segAt t q.seg).newest = some q.record.time ∧
      (segAt t q.seg).state = (segAt s q.seg).state ∧ (segAt t q.seg).produced = (segAt s q.seg).produced ∧
      ((segAt s q.seg).retained < (segAt s q.seg).size →
        (segAt t q.seg).retained = (segAt s q.seg).retained + 1 ∧
        (segAt t q.seg).oldest = some ((segAt s q.seg).oldest.getD q.record.time) ∧
        (segAt t q.seg).flags = (segAt s q.seg).flags ∧ t.rpath = s.rpath) ∧
      ((segAt s q.seg).retained = (segAt s q.seg).size → 1 < (segAt s q.seg).size →
        (segAt s q.seg).size ≤ (segAt s q.seg).written →
        (segAt t q.seg).retained = (segAt s q.seg).retained ∧ (segAt t q.seg).flags.wrapped = true ∧
        (segAt t q.seg).oldest = some (recordNumber s q.seg
          ((segAt s q.seg).written + 1 - (segAt s q.seg).retained)).time ∧
        (segAt t q.seg).flags.logOverflow = (segAt s q.seg).flags.logOverflow ∧
        (∀ oldest, (segAt t q.seg).oldest = some oldest →
          logAt t q.seg = (logAt s q.seg).filter (fun e => decide (oldest ≤ e.start)) ∧
          t.rpath.logQueue = s.rpath.logQueue.filter (fun e => decide (e.1 ≠ q.seg) || decide (oldest ≤ e.2.start)) ∧
          ∀ j, j ≠ q.seg → logAt t j = logAt s j)) ∧
      (segAt t q.seg).postCount =
        (if q.post = true ∧ ((segAt s q.seg).state = .postFill ∨
            ((segAt s q.seg).state = .closing ∧ (segAt s q.seg).closeStopped = false))
          then (segAt s q.seg).postCount + 1 else (segAt s q.seg).postCount) ∧
      (∀ j, j ≠ q.seg → segAt t j = segAt s j) ∧
      t.pods = s.pods ∧ t.time = s.time ∧ t.trigger = s.trigger ∧ t.tables = s.tables ∧ t.lanes = s.lanes ∧
      t.panel = s.panel ∧ t.uplink = s.uplink

/-- The END record goes into its ring slot; writing it makes the segment DONE or STOPPED, raises SEGMENT_DONE, and the last
ends the capture. With the DRAM in canonical form, ARBITER_GRANT with the END record of segment j at the head of the
writer queue, the writer first and post-fill not due: the record stands in the ring slot of the written count and every
other DRAM slot reads as before; the written count rises by 1, the newest time is the record's, and below the segment's
size the retained count rises by 1, the oldest time staying, or being the record's when there was none; at its size the
retained count stays, WRAPPED is set, the oldest time is that of the record then oldest, and that segment's log and queued
entries that start before it go. A record without the post-trigger mark leaves the post-fill count. The segment is DONE or
STOPPED as its close kind says. With the controller CLOSING and nothing else in the queue the controller is IDLE and
SEGMENT_DONE and CAPTURE_COMPLETE are raised; otherwise the controller is unchanged and of the CAPTURE events SEGMENT_DONE
is raised. With no trigger the trigger record index stays as it was, absent; with a trigger at or after the oldest time it
is the index of the first retained record at or after the trigger time, and with one before the oldest time it is 0 and
TRIGGER_TRIMMED is set. The rest of the descriptor, every other segment's, pods, timebase, sequencer, tables, lanes, panel
and Uplink are unchanged. -/
def Obligations.SegmentClosesAtItsEndRecord : Prop :=
  ∀ (q : Queued) (rest : List Queued) (slot : Nat) (d : Segment) (s : State), s.capture.queue = q :: rest →
    q.record.kind = .close → Mem.wf Record.blank s.capture.dram = true →
    q.seg < s.capture.segs.length → postFillDue s = false →
    1024 ≤ s.capture.queue.length ∨ s.capture.rotation = .lane 5 → d = segAt s q.seg →
    slot = q.seg * d.size + d.written % d.size → slot < 16777216 →
    ∃ t : State, exec .arbiterGrant s = .next t ∧ t.capture.queue = rest ∧
      Mem.read Record.blank t.capture.dram slot = q.record ∧
      (∀ a, a ≠ slot → Mem.read Record.blank t.capture.dram a = Mem.read Record.blank s.capture.dram a) ∧
      segAt t q.seg = { d with
        state := if d.closeStopped then .stopped else .done
        written := d.written + 1
        newest := some q.record.time
        retained := if d.retained < d.size then d.retained + 1 else d.retained
        oldest := (segAt t q.seg).oldest
        trigIndex := (segAt t q.seg).trigIndex
        postCount := (segAt t q.seg).postCount
        flags := { d.flags with
          wrapped := d.flags.wrapped || decide (d.size ≤ d.retained)
          triggerTrimmed := (segAt t q.seg).flags.triggerTrimmed } } ∧
      (q.post = false → (segAt t q.seg).postCount = d.postCount) ∧
      (d.retained < d.size → (segAt t q.seg).oldest = some (d.oldest.getD q.record.time) ∧ t.rpath = s.rpath) ∧
      (d.retained = d.size → 1 < d.size → d.size ≤ d.written →
        (segAt t q.seg).oldest = some (recordNumber s q.seg (d.written + 1 - d.retained)).time ∧
        ∀ oldest, (segAt t q.seg).oldest = some oldest →
          logAt t q.seg = (logAt s q.seg).filter (fun e => decide (oldest ≤ e.start)) ∧
          t.rpath.logQueue = s.rpath.logQueue.filter (fun e => decide (e.1 ≠ q.seg) || decide (oldest ≤ e.2.start)) ∧
          ∀ j, j ≠ q.seg → logAt t j = logAt s j) ∧
      ((segAt s q.seg).trigger = none → (segAt t q.seg).trigIndex = (segAt s q.seg).trigIndex) ∧
      (∀ (f : TriggerFacts) (oldest : Nat), (segAt s q.seg).trigger = some f → (segAt t q.seg).oldest = some oldest →
        (f.time < oldest →
          (segAt t q.seg).trigIndex = some 0 ∧ (segAt t q.seg).flags.triggerTrimmed = true) ∧
        (oldest ≤ f.time →
          (segAt t q.seg).flags.triggerTrimmed = (segAt s q.seg).flags.triggerTrimmed ∧
          ∃ k : Nat, (segAt t q.seg).trigIndex = some k ∧ k ≤ (segAt t q.seg).retained ∧
            (∀ j, j < k → (recordAt t q.seg j).time < f.time) ∧
            (k < (segAt t q.seg).retained → f.time ≤ (recordAt t q.seg k).time))) ∧
      (segAt t q.seg).oldest.isSome ∧
      (s.capture.ctl = .closing → rest = [] → t.capture.ctl = .idle ∧
        t.events[blkCapture] = ((s.events[blkCapture]).raise evSegmentDone).raise evCaptureComplete) ∧
      (s.capture.ctl ≠ .closing ∨ rest ≠ [] → t.capture.ctl = s.capture.ctl ∧
        t.events[blkCapture] = (s.events[blkCapture]).raise evSegmentDone) ∧
      (∀ j, j ≠ q.seg → segAt t j = segAt s j) ∧
      t.pods = s.pods ∧ t.time = s.time ∧ t.trigger = s.trigger ∧ t.tables = s.tables ∧ t.lanes = s.lanes ∧
      t.panel = s.panel ∧ t.uplink = s.uplink

/-- A rotation grant goes to the first waiting requester after the pointer; the watermark keeps the pointer. With post-fill
not due. When no requester waits ARBITER_GRANT changes nothing. With fewer than 1,024 records waiting, the grant goes to
the waiting requester that comes first after the rotation pointer in the cyclic order writer, readout, view engine, lanes
0 to 5, and the pointer names it afterwards; a grant to any requester but the writer answers a next state. With 1,024 or
more waiting, the writer is granted and the pointer stays. -/
def Obligations.ArbiterRotatesAmongTheWaiting : Prop :=
  ∀ (s : State), postFillDue s = false →
    ((∀ r : Requester, requesterWaits s r = false) → exec .arbiterGrant s = .next s) ∧
    (s.capture.queue.length < 1024 → ∀ r : Requester, requesterWaits s r = true →
      (∀ r' : Requester, requesterWaits s r' = true →
        (r.code + 8 - s.capture.rotation.code) % 9 ≤ (r'.code + 8 - s.capture.rotation.code) % 9) →
      (∀ t, exec .arbiterGrant s = .next t → t.capture.rotation = r) ∧
      (r ≠ .writer → ∃ t, exec .arbiterGrant s = .next t)) ∧
    (1024 ≤ s.capture.queue.length → ∀ t, exec .arbiterGrant s = .next t →
      t.capture.rotation = s.capture.rotation ∧ t.capture.queue = s.capture.queue.tail)

/-- READ_RECORDS judges, clamps and starts a readout; a readout grant reads one record; ABORT_READ ends the reading.
READ_RECORDS: a segment not below the layout count is answered BAD_ARGUMENT, otherwise a readout in flight BUSY, otherwise
a segment not DONE or STOPPED WRONG_STATE; otherwise OK with the start index clamped to the retained count and the number
to be sent, a count of 0 meaning all, and the readout is in flight. A grant to readout alone reads the record at the next
index. ABORT_READ always answers OK with a flag for each readout, record then frame; the record readout in flight reads no
further records. A readout whose final packet is on the link is still in flight there (log 29), and the word layouts are
log 22. -/
def Obligations.RecordReadoutLifecycle : Prop :=
  ∀ (tag : Tag) (seg start count : Word) (s : State), canDispatch s = true →
    (s.capture.layout ≤ seg.toNat →
      exec (.readRecords tag seg start count) s = .next (answered tag 16 .badArgument [] s)) ∧
    (seg.toNat < s.capture.layout →
      (s.capture.readout.isSome → exec (.readRecords tag seg start count) s = .next (answered tag 16 .busy [] s)) ∧
      (s.capture.readout = none →
        ((segAt s seg.toNat).state ≠ .done → (segAt s seg.toNat).state ≠ .stopped →
          exec (.readRecords tag seg start count) s = .next (answered tag 16 .wrongState [] s)) ∧
        (∀ first n : Nat, (segAt s seg.toNat).state = .done ∨ (segAt s seg.toNat).state = .stopped →
          first = min start.toNat (segAt s seg.toNat).retained →
          n = (if count = 0 then (segAt s seg.toNat).retained - first
            else min count.toNat ((segAt s seg.toNat).retained - first)) →
          exec (.readRecords tag seg start count) s = .next (answered tag 16 .ok [word first, word n]
            { s with capture := { s.capture with readout := some ⟨tag, seg.toNat, first, n, first, [], false⟩ } })))) ∧
    exec (.abortRead tag) s = .next (answered tag 18 .ok [flagWord s.capture.readout.isSome, flagWord s.rpath.readout.isSome]
      { s with
        capture := { s.capture with readout := s.capture.readout.map fun r => { r with remaining := 0 } }
        rpath := { s.rpath with readout := s.rpath.readout.map fun r => { r with ended := true } } }) ∧
    (∀ r : RecordReadout, s.capture.readout = some r → s.rpath.readout = none → 0 < r.remaining → r.held.length < 255 →
      s.capture.queue = [] → s.rpath.logQueue = [] → s.capture.rotation = .writer → postFillDue s = false →
      exec .arbiterGrant s = .next { s with capture := { s.capture with
        rotation := .readout, turnFrames := true
        readout := some { r with
          next := r.next + 1, remaining := r.remaining - 1, held := r.held ++ [recordAt s r.seg r.next] } } })

/-- LOAD_TRIGGER is refused in the order of its cases, and a program taken replaces the old one whole. LOAD_TRIGGER outside
IDLE is answered BUSY; in IDLE an image of another length than its stage count declares BAD_LENGTH; one of the right
length with a stage count of 0 or above 8 BAD_ARGUMENT; each changes nothing but the response slot. In IDLE, the image of
n stages that defines pattern 0 and the glitch unit only, with compares c0 to c3, ratios dx and dy and n stage entries of
zeros, is answered OK with n: n cleared stages, that pattern and glitch unit and no other unit, counters at 0 with both
compares as given, ratios clamped to 1 to 65,536, phases 0, latches empty, stage 0, and state, arm time, force, previous
sample and TRIG_OUT as they were. Of any image with 1 to 8 stages and the right length: it is answered BAD_ARGUMENT,
nothing changed, when an edge or comparison code is 3; when a defined comparator names a lane above 5, or has an enabled
data item of length 0 or above 4 or passing byte 64, or an enabled unit count above 65,535; when a counter's TERM source
is COUNTER, ALWAYS, an undefined unit or no source; or when a stage has more than 4 advance terms, a term that names no
source that exists, or a target that is neither a stage below the count nor TRIGGER, the same for a present alternate.
Otherwise it is answered OK with the stage count and every unit, counter, divider and stage is what its words say. The
glitch unit's 'defined' word read by bit 0 is log 21; that an undefined unit's codes are judged and an absent alternate is
not, log 20; that the term source code of a counter without source TERM is not judged is the model's choice (log 42). -/
def Obligations.LoadTriggerJudgedInOrder : Prop :=
  (∀ (tag : Tag) (image : List Word) (n : Nat) (p0 p1 p2 g0 g1 c0 c1 c2 c3 dx dy : Word) (s : State), canDispatch s = true →
    (s.trigger.state ≠ .idle → exec (.loadTrigger tag image) s =
      .next (placeResponse ⟨tag, typeTable, 0, .busy, []⟩ s)) ∧
    (s.trigger.state = .idle →
      (image.length ≠ 85 + 4 * (image.headD 0).toNat → exec (.loadTrigger tag image) s =
        .next (placeResponse ⟨tag, typeTable, 0, .badLength, []⟩ s)) ∧
      (image.length = 85 + 4 * (image.headD 0).toNat → (image.headD 0).toNat = 0 ∨ 8 < (image.headD 0).toNat →
        exec (.loadTrigger tag image) s = .next (placeResponse ⟨tag, typeTable, 0, .badArgument, []⟩ s)) ∧
      (1 ≤ n → n ≤ 8 →
        image = word n :: p0 :: p1 :: p2 :: (List.replicate 37 0 ++
          [g0, g1, 0, c0, 0, c1, 0, c2, 0, c3, dx, dy] ++ List.replicate (32 + 4 * n) 0) →
        exec (.loadTrigger tag image) s = .next (placeResponse ⟨tag, typeTable, 0, .ok, [word n]⟩
          { s with trigger := { s.trigger with
              stage := 0
              stages := List.replicate n Stage.cleared
              patterns := (Vector.replicate 8 none).set 0
                (if p0.getLsbD 0 then some ⟨p1, p2, p0.getLsbD 1⟩ else none)
              edges := Vector.replicate 8 none
              glitchUnit := if g0.getLsbD 0 then some g1 else none
              comps := Vector.replicate 4 none
              counters := #v[⟨0, false, false, .sample, c0, c0, false, false, false⟩,
                ⟨0, false, false, .sample, c1, c1, false, false, false⟩,
                ⟨0, false, false, .sample, c2, c2, false, false, false⟩,
                ⟨0, false, false, .sample, c3, c3, false, false, false⟩]
              divX := ⟨max 1 (min dx.toNat 65536), 0⟩
              divY := ⟨max 1 (min dy.toNat 65536), 0⟩
              latches := Vector.replicate 4 none } })))) ∧
  -- the static rules, and what a program that keeps them means
  (∀ (tag : Tag) (image : List Word) (n : Nat) (s : State) (w : Nat → Word) (named goal : Nat → Prop) (valid : Prop),
    canDispatch s = true → s.trigger.state = .idle → 1 ≤ n → n ≤ 8 → image.length = 85 + 4 * n →
    (∀ i, w i = image.getD i 0) → (w 0).toNat = n →
    (∀ c, named c ↔ (c < 8 ∧ (w (1 + 3 * c)).getLsbD 0 = true) ∨
      (8 ≤ c ∧ c < 16 ∧ (w (25 + 2 * (c - 8))).getLsbD 0 = true) ∨ (c = 16 ∧ (w 41).getLsbD 0 = true) ∨ c = 17 ∨
      (18 ≤ c ∧ c < 22) ∨ (22 ≤ c ∧ c < 26 ∧ (w (53 + 8 * (c - 22))).getLsbD 0 = true) ∨ c = 26) →
    (∀ g, goal g ↔ g < n ∨ g = 8) →
    (valid ↔
      (∀ i, i < 8 → field (w (25 + 2 * i)) 1 2 ≠ 3) ∧
      (∀ i, i < 4 → field (w (53 + 8 * i)) 16 2 ≠ 3 ∧ ((w (53 + 8 * i)).getLsbD 0 = true →
        field (w (53 + 8 * i)) 1 3 ≤ 5 ∧
        ((w (53 + 8 * i)).getLsbD 7 = true → 1 ≤ field (w (57 + 8 * i)) 8 3 ∧ field (w (57 + 8 * i)) 8 3 ≤ 4 ∧
          field (w (57 + 8 * i)) 0 6 + field (w (57 + 8 * i)) 8 3 ≤ 64) ∧
        ((w (53 + 8 * i)).getLsbD 8 = true → (w (60 + 8 * i)).toNat ≤ 65535))) ∧
      (∀ i c, i < 4 → c = field (w (43 + 2 * i)) 8 5 → field (w (43 + 2 * i)) 1 2 = 3 →
        named c ∧ ¬(18 ≤ c ∧ c < 22) ∧ c ≠ 26) ∧
      (∀ j, j < n → field (w (87 + 4 * j)) 0 3 ≤ 4 ∧
        (∀ k, k < field (w (87 + 4 * j)) 0 3 → named (field (w (85 + 4 * j)) (8 * k) 5)) ∧
        goal (field (w (87 + 4 * j)) 4 4) ∧
        ((w (87 + 4 * j)).getLsbD 8 = true → field (w (87 + 4 * j)) 9 3 ≤ 4 ∧
          (∀ k, k < field (w (87 + 4 * j)) 9 3 → named (field (w (86 + 4 * j)) (8 * k) 5)) ∧
          goal (field (w (87 + 4 * j)) 13 4)))) →
    (¬ valid → exec (.loadTrigger tag image) s = .next (placeResponse ⟨tag, typeTable, 0, .badArgument, []⟩ s)) ∧
    (valid → ∀ (source : Nat → TermSource) (target : Nat → Target) (action : Nat → Action) (edge : Nat → Edge)
      (lane : Nat → LaneId) (compare : Nat → Comparison) (cond : Word → Nat → Bool → Condition)
      (patterns : Vector (Option PatternUnit) 8) (edges : Vector (Option EdgeUnit) 8)
      (comps : Vector (Option Comparator) 4) (counters : Vector Counter 4) (stages : List Stage),
      (∀ k : Fin 8, source k.val = .pattern k ∧ source (8 + k.val) = .edge k) →
      source 16 = .glitch → source 17 = .external → source 26 = .always →
      (∀ k : Fin 4, source (18 + k.val) = .counter k ∧ source (22 + k.val) = .field k) →
      (∀ g, g < n → target g = .stage g) → target 8 = .trigger →
      action 0 = .keep ∧ action 1 = .clear ∧ action 2 = .run ∧ action 3 = .halt →
      edge 0 = .rising ∧ edge 1 = .falling ∧ edge 2 = .both → (∀ l : LaneId, lane l.val = l) →
      compare 0 = .eq ∧ compare 1 = .ge ∧ compare 2 = .le →
      (∀ terms count any, cond terms count any =
        ⟨(List.range count).map fun k => ⟨source (field terms (8 * k) 5), terms.getLsbD (8 * k + 7)⟩, any⟩) →
      (∀ i : Fin 8, patterns[i] = if (w (1 + 3 * i.val)).getLsbD 0
        then some ⟨w (2 + 3 * i.val), w (3 + 3 * i.val), (w (1 + 3 * i.val)).getLsbD 1⟩ else none) →
      (∀ i : Fin 8, edges[i] = if (w (25 + 2 * i.val)).getLsbD 0
        then some ⟨w (26 + 2 * i.val), edge (field (w (25 + 2 * i.val)) 1 2)⟩ else none) →
      (∀ (i : Fin 4) (b : Word), b = w (53 + 8 * i.val) → comps[i] = if b.getLsbD 0 then some {
          lane := lane (field b 1 3)
          kindTag := if b.getLsbD 4 then some (BitVec.ofNat 4 (field b 12 4)) else none
          codes := if b.getLsbD 5 then some (BitVec.ofNat 7 (field (w (54 + 8 * i.val)) 0 7)) else none
          address := if b.getLsbD 6 then some (w (55 + 8 * i.val), w (56 + 8 * i.val)) else none
          data := if b.getLsbD 7 then some ⟨field (w (57 + 8 * i.val)) 0 6, field (w (57 + 8 * i.val)) 8 3,
            w (58 + 8 * i.val), w (59 + 8 * i.val)⟩ else none
          units := if b.getLsbD 8 then some (compare (field b 16 2), (w (60 + 8 * i.val)).toNat) else none } else none) →
      (∀ (i : Fin 4) (a b : Word), a = w (43 + 2 * i.val) → b = w (44 + 2 * i.val) →
        counters[i] = ⟨0, false, a.getLsbD 0, match field a 1 2 with
          | 0 => .sample
          | 1 => .divX
          | 2 => .divY
          | _ => .term (source (field a 8 5)), b, b, false, false, false⟩) →
      stages.length = n →
      (∀ (j : Nat) (t0 t1 c a : Word), j < n → t0 = w (85 + 4 * j) → t1 = w (86 + 4 * j) → c = w (87 + 4 * j) →
        a = w (88 + 4 * j) → stages[j]? = some {
          advance := cond t0 (field c 0 3) (c.getLsbD 3)
          advanceTo := target (field c 4 4)
          alternate := if c.getLsbD 8 then some (cond t1 (field c 9 3) (c.getLsbD 12), target (field c 13 4)) else none
          actions := #v[action (field a 0 2), action (field a 2 2), action (field a 4 2), action (field a 6 2)]
          restartX := a.getLsbD 8, restartY := a.getLsbD 9, watch := a.getLsbD 10 }) →
      exec (.loadTrigger tag image) s = .next (placeResponse ⟨tag, typeTable, 0, .ok, [word n]⟩
        { s with trigger := { s.trigger with
            stage := 0, stages := stages, patterns := patterns, edges := edges, comps := comps, counters := counters
            glitchUnit := if (w 41).getLsbD 0 then some (w 42) else none
            divX := ⟨max 1 (min (w 51).toNat 65536), 0⟩
            divY := ⟨max 1 (min (w 52).toNat 65536), 0⟩
            latches := Vector.replicate 4 none } })))

/-- SET_ARM_TIME, SET_COMPARE and FORCE_TRIGGER by the sequencer's state, and the arming by SET_CLOCK. SET_ARM_TIME: outside
IDLE BUSY; in IDLE the arm time takes the value, or becomes absent, and the answer is OK. SET_COMPARE: index above 3
BAD_ARGUMENT; otherwise the staged compare, and in IDLE the active compare too, takes the value and the answer is OK with
both. FORCE_TRIGGER: in RUNNING or WAIT_ARM force pending is set and the answer is OK; in IDLE or TRIGGERED WRONG_STATE. A
SET_CLOCK taken in WAIT_ARM is answered OK and sets the seconds, with the subsecond, the interval count and the withheld
counts at 0; below the arm time the sequencer keeps waiting. At or above it the sequencer is RUNNING in stage 0: each
counter has its staged compare active and has taken stage 0's action (KEEP, CLEAR, RUN or HALT), both dividers are at
phase 0 with their ratios, STAGE_WATCH is raised when stage 0 is watched, and ARM_TIME_REACHED is raised; the arm time,
the program, the units, force pending, the field latches, the previous sample and TRIG_OUT are as they were. Nothing else
changes. That the presence word of SET_ARM_TIME counts by bit 0 alone is the model's choice (log 21). -/
def Obligations.SequencerCommands : Prop :=
  ∀ (tag : Tag) (pres seconds k value : Word) (s : State), canDispatch s = true →
    (s.trigger.state ≠ .idle → exec (.setArmTime tag pres seconds) s = .next (answered tag 19 .busy [] s)) ∧
    (s.trigger.state = .idle → exec (.setArmTime tag pres seconds) s = .next (answered tag 19 .ok []
      { s with trigger := { s.trigger with armTime := if pres.getLsbD 0 then some seconds else none } })) ∧
    (3 < k.toNat → exec (.setCompare tag k value) s = .next (answered tag 21 .badArgument [] s)) ∧
    (∀ i : CounterId, k.toNat = i.val →
      (s.trigger.state = .idle → exec (.setCompare tag k value) s = .next (answered tag 21 .ok [value, value]
        { s with trigger := { s.trigger with counters := s.trigger.counters.set i { s.trigger.counters[i] with active := value, staged := value } } })) ∧
      (s.trigger.state ≠ .idle → exec (.setCompare tag k value) s =
        .next (answered tag 21 .ok [(s.trigger.counters[i]).active, value]
          { s with trigger := { s.trigger with counters := s.trigger.counters.set i { s.trigger.counters[i] with staged := value } } }))) ∧
    (s.trigger.state = .running ∨ s.trigger.state = .waitArm → exec (.forceTrigger tag) s =
      .next (answered tag 22 .ok [] { s with trigger := { s.trigger with force := true } })) ∧
    (s.trigger.state = .idle ∨ s.trigger.state = .triggered →
      exec (.forceTrigger tag) s = .next (answered tag 22 .wrongState [] s)) ∧
    (∀ a : Word, s.trigger.state = .waitArm → s.trigger.armTime = some a →
      (seconds.toNat < a.toNat → exec (.setClock tag seconds) s = .next (answered tag 8 .ok []
        { s with time := { s.time with seconds := seconds, subsecond := 0, intervalCount := 0, withheld := 0 } })) ∧
      (a.toNat ≤ seconds.toNat → ∀ (st : Stage) (cs : Vector Counter 4) (e : EventSet),
        st = s.trigger.stages.getD 0 Stage.cleared →
        (∀ c : CounterId, cs[c] = match st.actions[c] with
          | .keep => { s.trigger.counters[c] with active := (s.trigger.counters[c]).staged }
          | .clear => { s.trigger.counters[c] with
              active := (s.trigger.counters[c]).staged, value := 0, matched := false, latch := false, suppress := false }
          | .run => { s.trigger.counters[c] with active := (s.trigger.counters[c]).staged, running := true }
          | .halt => { s.trigger.counters[c] with active := (s.trigger.counters[c]).staged, running := false }) →
        e = (if st.watch then (s.events[blkTrigger]).raise evStageWatch else s.events[blkTrigger]) →
        exec (.setClock tag seconds) s = .next (answered tag 8 .ok [] { s with
          time := { s.time with seconds := seconds, subsecond := 0, intervalCount := 0, withheld := 0 }
          trigger := { s.trigger with
            state := .running, stage := 0, counters := cs
            divX := { s.trigger.divX with phase := 0 }, divY := { s.trigger.divY with phase := 0 } }
          events := s.events.set blkTrigger (e.raise evArmTimeReached) })))

/-- SET_COUNTER writes the value and suppresses the next match. SET_COUNTER with a counter index above 3 is answered
BAD_ARGUMENT and changes nothing but the response slot. Otherwise, in every sequencer state, it is answered OK and the
counter has the written value, matched flag and match latch clear and write suppression set, its running flag, mode,
source and both compares kept, and nothing else changes. The next step of that counter clears the suppression and is no
match: it adds 1 and leaves the flag and the latch clear. Taken after a step, the write overwrites the step's result. -/
def Obligations.SetCounterWritesAndSuppresses : Prop :=
  ∀ (tag : Tag) (k value : Word) (s : State), canDispatch s = true →
    (3 < k.toNat → exec (.setCounter tag k value) s = .next (answered tag 20 .badArgument [] s)) ∧
    (∀ i : CounterId, k.toNat = i.val →
      exec (.setCounter tag k value) s = .next (answered tag 20 .ok []
        { s with trigger := { s.trigger with counters := s.trigger.counters.set i { s.trigger.counters[i] with value := value, matched := false, latch := false, suppress := true } } }) ∧
      (∀ t : State, exec (.setCounter tag k value) s = .next t →
        ((t.trigger.counters[i]).step = { t.trigger.counters[i] with value := value + 1, suppress := false } ∧
          (t.trigger.counters[i]).matchDue = false)) ∧
      exec (.setCounter tag k value)
          { s with trigger := { s.trigger with counters := s.trigger.counters.set i (s.trigger.counters[i]).step } } =
        .next (answered tag 20 .ok [] { s with trigger := { s.trigger with counters := s.trigger.counters.set i { (s.trigger.counters[i]).step with value := value, matched := false, latch := false, suppress := true } } }))

/-- Count steps, WRAP and HOLD matches, the sources that fire, divider outputs at every N-th tick, and what entering a stage
does. A WRAP counter with compare c above 0 that starts from 0 unsuppressed: after n steps its value is n modulo c, and
the next step is a match exactly when c divides n + 1. A divider of ratio N above 0 from phase 0: after n ticks its phase
is n modulo N, and the next tick gives an output exactly when N divides n + 1. While RUNNING, COUNTER_MATCH on a running
counter whose next step is a match makes that step, and DIVIDER_OUTPUT on a divider whose next tick gives one sets its
phase to 0 and steps each running counter that counts it, once; both always answer a next state and change nothing else.
Otherwise, outside RUNNING or with no match or output due, they change nothing. That the two rows act alone, at the moment
the step is imminent, is the model's choice (log 6). One count step adds 1; suppressed, it clears the suppression and is
no match; yielding the active compare, a WRAP counter goes to 0 with its latch set, a HOLD counter stays at the compare,
not running, with its matched flag set. The steps of a tick while RUNNING advance both dividers and step each running
counter whose source fires: SAMPLE at an evaluated sample, DIVX and DIVY at that divider's output, a TERM naming a
pattern, edge, glitch or external unit at an evaluated sample at which it is true and was false at the previous one; a
sample that is not evaluated does these steps and no more. Entering stage n: each counter's staged compare becomes active
and the counter takes its action, a divider whose restart flag is set returns to phase 0, the stage is n, STAGE_WATCH is
raised if it is watched, and nothing else changes. -/
def Obligations.CountersAndDividersRepeat : Prop :=
  (∀ (k : Counter) (n : Nat), k.value = 0 → k.suppress = false → k.hold = false → 0 < k.active.toNat →
    (Nat.repeat Counter.step n k).value.toNat = n % k.active.toNat ∧
    ((Nat.repeat Counter.step n { k with running := true }).matchDue = true ↔ (n + 1) % k.active.toNat = 0) ∧
    ((Nat.repeat Counter.step n k).latch = true ↔ k.latch = true ∨ k.active.toNat ≤ n)) ∧
  (∀ (d : DividerUnit) (n : Nat), d.phase = 0 → 0 < d.ratio →
    (Nat.repeat (fun u => u.tick.1) n d).phase = n % d.ratio ∧
    ((Nat.repeat (fun u => u.tick.1) n d).tick.2 = true ↔ (n + 1) % d.ratio = 0)) ∧
  (∀ (k : CounterId) (s : State),
    (s.trigger.state = .running → (s.trigger.counters[k]).matchDue = true →
      exec (.counterMatch k) s = .next { s with trigger := { s.trigger with
        counters := s.trigger.counters.set k (s.trigger.counters[k]).step } }) ∧
    (s.trigger.state ≠ .running ∨ (s.trigger.counters[k]).matchDue = false → exec (.counterMatch k) s = .next s) ∧
    (s.trigger.state = .running → s.trigger.divX.ratio ≤ s.trigger.divX.phase + 1 →
      ∃ cs : Vector Counter 4, exec (.dividerOutput .x) s = .next { s with trigger := { s.trigger with
          divX := { s.trigger.divX with phase := 0 }, counters := cs } } ∧
        cs[k] = if (s.trigger.counters[k]).running ∧ (s.trigger.counters[k]).source = .divX
          then (s.trigger.counters[k]).step else s.trigger.counters[k]) ∧
    (s.trigger.state = .running → s.trigger.divY.ratio ≤ s.trigger.divY.phase + 1 →
      ∃ cs : Vector Counter 4, exec (.dividerOutput .y) s = .next { s with trigger := { s.trigger with
          divY := { s.trigger.divY with phase := 0 }, counters := cs } } ∧
        cs[k] = if (s.trigger.counters[k]).running ∧ (s.trigger.counters[k]).source = .divY
          then (s.trigger.counters[k]).step else s.trigger.counters[k]) ∧
    (s.trigger.divX.phase + 1 < s.trigger.divX.ratio → exec (.dividerOutput .x) s = .next s) ∧
    (s.trigger.divY.phase + 1 < s.trigger.divY.ratio → exec (.dividerOutput .y) s = .next s) ∧
    (s.trigger.state ≠ .running → exec (.dividerOutput .x) s = .next s ∧ exec (.dividerOutput .y) s = .next s)) ∧
  -- one count step
  (∀ k : Counter,
    (k.suppress = true → k.step = { k with value := k.value + 1, suppress := false }) ∧
    (k.suppress = false → k.value + 1 ≠ k.active → k.step = { k with value := k.value + 1 }) ∧
    (k.suppress = false → k.value + 1 = k.active →
      (k.hold = true → k.step = { k with value := k.active, running := false, matched := true }) ∧
      (k.hold = false → k.step = { k with value := 0, latch := true }))) ∧
  -- the steps of one tick
  (∀ (tr : Trigger) (ev : Bool) (v : TermValues) (k : CounterId) (fires : Prop) (counters : Vector Counter 4),
    counters = (tr.tickSteps ev v).counters →
    (fires ↔ match (tr.counters[k]).source with
      | .sample => ev = true
      | .divX => tr.divX.ratio ≤ tr.divX.phase + 1
      | .divY => tr.divY.ratio ≤ tr.divY.phase + 1
      | .term (.pattern n) => ev = true ∧ v.pattern.getLsbD n = true ∧ tr.prevTerms.pattern.getLsbD n = false
      | .term (.edge n) => ev = true ∧ v.edge.getLsbD n = true ∧ tr.prevTerms.edge.getLsbD n = false
      | .term .glitch => ev = true ∧ v.glitch = true ∧ tr.prevTerms.glitch = false
      | .term .external => ev = true ∧ v.external = true ∧ tr.prevTerms.external = false
      | .term (.field _) => False
      | .term (.counter _) => False
      | .term .always => False) →
    tr.tickSteps ev v = { tr with divX := tr.divX.tick.1, divY := tr.divY.tick.1, counters := counters } ∧
    ((tr.counters[k]).running = true → fires → counters[k] = (tr.counters[k]).step) ∧
    ((tr.counters[k]).running = false ∨ ¬ fires → counters[k] = tr.counters[k])) ∧
  (∀ (sm : Sample) (n : Nat) (s : State), sequencerSample sm false n s =
    if s.trigger.state = .running then { s with trigger := s.trigger.tickSteps false (s.trigger.termValues sm) }
    else s) ∧
  -- entering a stage
  (∀ (n : Nat) (s : State) (st : Stage) (cs : Vector Counter 4), st = s.trigger.stages.getD n Stage.cleared →
    (∀ c : CounterId, cs[c] = match st.actions[c] with
      | .keep => { s.trigger.counters[c] with active := (s.trigger.counters[c]).staged }
      | .clear => { s.trigger.counters[c] with
          active := (s.trigger.counters[c]).staged, value := 0, matched := false, latch := false, suppress := false }
      | .run => { s.trigger.counters[c] with active := (s.trigger.counters[c]).staged, running := true }
      | .halt => { s.trigger.counters[c] with active := (s.trigger.counters[c]).staged, running := false }) →
    enterStage n s = { s with
      trigger := { s.trigger with
        stage := n, counters := cs
        divX := if st.restartX then { s.trigger.divX with phase := 0 } else s.trigger.divX
        divY := if st.restartY then { s.trigger.divY with phase := 0 } else s.trigger.divY }
      events := if st.watch then s.events.set blkTrigger ((s.events[blkTrigger]).raise evStageWatch) else s.events })

/-- Term and condition values; a pending force or a true condition takes its transition at the evaluated sample; prefill hold
blocks only TRIGGER. The sequencer's work at an evaluated sample at tick n, segment i current. With force pending in
RUNNING or WAIT_ARM: the segment enters POST_FILL with trigger time n, cause FORCE, the wall seconds and the counter
values after the sample's steps; the sequencer is TRIGGERED, force clear (log 38), TRIG_OUT pulsed (log 15), dividers at
phase 0, latches empty, and TRIGGERED is raised. In RUNNING with no force: an advance to TRIGGER on ALWAYS triggers at n
with cause SEQUENCER unless prefill hold blocks it; with prefill hold on and the written count below the prefill the
segment is unchanged, and an alternate on ALWAYS to a stage is taken. Whatever the condition to TRIGGER (the advance, or
with it false the alternate), when it is true and not blocked it triggers: with a FIELD term that is not negated and true,
cause FIELD and as time the earliest tick in those terms' latches, else cause SEQUENCER and time n; the cases of one and
two FIELD terms, under OR, and negated are spelled out. A true advance to a stage enters it, else a true alternate does,
else the stage is kept; then every latch is emptied and the sample is kept as the previous one. In the other states, no
force taken, the sample is only kept. Term values: PATTERN (LEVEL: the masked levels equal the value's; ENTERED: and did
not at the previous evaluated sample), EDGE (a masked channel changed in the unit's direction), GLITCH (a masked flag is
set), EXTERNAL (TRIG_IN), COUNTER (matched flag or latch), FIELD (latch set), ALWAYS; an undefined unit is false. A
condition of 0 terms is false; under OR one contributed value must be true, under AND all; a negated term contributes the
opposite. -/
def Obligations.SequencerTakesTheTrigger : Prop :=
  (∀ (sm : Sample) (n i : Nat) (s t : State), s.capture.ctl = .capturing i → i < s.capture.segs.length →
    t = sequencerSample sm true n s →
    (s.trigger.force = true → s.trigger.state = .running ∨ s.trigger.state = .waitArm →
      t.trigger.state = .triggered ∧ t.trigger.force = false ∧ t.trigger.trigOut = true ∧
      t.trigger.divX.phase = 0 ∧ t.trigger.divY.phase = 0 ∧ t.trigger.latches = Vector.replicate 4 none ∧
      t.events = s.events.set blkTrigger ((s.events[blkTrigger]).raise evTriggered) ∧
      segAt t i = { segAt s i with
        state := .postFill, postCount := 0
        trigger := some ⟨n, .force, s.time.seconds, #v[(t.trigger.counters[0]).value, (t.trigger.counters[1]).value,
          (t.trigger.counters[2]).value, (t.trigger.counters[3]).value]⟩ }) ∧
    (∀ st : Stage, s.trigger.state = .running → s.trigger.force = false →
      s.trigger.stages.getD s.trigger.stage Stage.cleared = st → st.advance.terms = [⟨.always, false⟩] →
      st.advanceTo = .trigger →
      (s.capture.inForce.hold = false ∨ s.capture.inForce.prefill ≤ (segAt s i).written →
        t.trigger.state = .triggered ∧ t.trigger.trigOut = true ∧
        segAt t i = { segAt s i with
          state := .postFill, postCount := 0
          trigger := some ⟨n, .sequencer, s.time.seconds, #v[(t.trigger.counters[0]).value,
            (t.trigger.counters[1]).value, (t.trigger.counters[2]).value, (t.trigger.counters[3]).value]⟩ }) ∧
      (s.capture.inForce.hold = true → (segAt s i).written < s.capture.inForce.prefill →
        segAt t i = segAt s i ∧ t.trigger.state = .running ∧
        (st.alternate = none → t.trigger.stage = s.trigger.stage ∧ t.events = s.events) ∧
        (∀ (c : Condition) (k : Nat), st.alternate = some (c, .stage k) → c.terms = [⟨.always, false⟩] →
          t.trigger.stage = k))) ∧
    -- the cause and the time of a trigger on FIELD terms
    (∀ (st : Stage) (f g : Fin 4) (time : Nat) (cause : Cause), s.trigger.state = .running → s.trigger.force = false →
      s.trigger.stages.getD s.trigger.stage Stage.cleared = st → st.advanceTo = .trigger → st.alternate = none →
      s.capture.inForce.hold = false ∨ s.capture.inForce.prefill ≤ (segAt s i).written →
      ((∃ e, st.advance.terms = [⟨.field f, false⟩] ∧ s.trigger.latches[f] = some e ∧ time = e ∧ cause = .field) ∨
        (∃ e e', st.advance.terms = [⟨.field f, false⟩, ⟨.field g, false⟩] ∧ s.trigger.latches[f] = some e ∧
          s.trigger.latches[g] = some e' ∧ time = min e e' ∧ cause = .field) ∨
        (∃ e, st.advance.any = true ∧ st.advance.terms = [⟨.field f, false⟩, ⟨.always, false⟩] ∧
          s.trigger.latches[f] = some e ∧ time = e ∧ cause = .field) ∨
        (st.advance.any = true ∧ st.advance.terms = [⟨.field f, false⟩, ⟨.always, false⟩] ∧
          s.trigger.latches[f] = none ∧ time = n ∧ cause = .sequencer) ∨
        (st.advance.terms = [⟨.field f, true⟩] ∧ s.trigger.latches[f] = none ∧ time = n ∧ cause = .sequencer) →
        t.trigger.state = .triggered ∧ (segAt t i).state = .postFill ∧
        (segAt t i).trigger.map (fun x => (x.time, x.cause)) = some (time, cause)) ∧
      (st.advance.terms = [⟨.field f, false⟩] → s.trigger.latches[f] = none →
        t.trigger.state = .running ∧ segAt t i = segAt s i)) ∧
    -- any condition to TRIGGER
    (∀ (st : Stage) (c : Condition) (u : Trigger) (v : TermValues), s.trigger.state = .running → s.trigger.force = false →
      st = s.trigger.stages.getD s.trigger.stage Stage.cleared → v = s.trigger.termValues sm →
      u = s.trigger.tickSteps true v → u.conditionTrue v c = true →
      s.capture.inForce.hold = false ∨ s.capture.inForce.prefill ≤ (segAt s i).written →
      (st.advanceTo = .trigger ∧ st.advance = c) ∨
        (u.conditionTrue v st.advance = false ∧ st.alternate = some (c, .trigger)) →
      t.trigger.state = .triggered ∧ t.trigger.trigOut = true ∧
      t.events = s.events.set blkTrigger ((s.events[blkTrigger]).raise evTriggered) ∧
      ∃ (time : Nat) (cause : Cause),
        segAt t i = { segAt s i with
          state := .postFill, postCount := 0
          trigger := some ⟨time, cause, s.time.seconds, #v[(u.counters[0]).value, (u.counters[1]).value,
            (u.counters[2]).value, (u.counters[3]).value]⟩ } ∧
        ((∃ f : Fin 4, ⟨.field f, false⟩ ∈ c.terms ∧ (s.trigger.latches[f]).isSome) → cause = .field ∧
          (∃ f : Fin 4, ⟨.field f, false⟩ ∈ c.terms ∧ s.trigger.latches[f] = some time) ∧
          ∀ (f : Fin 4) (e : Nat), ⟨.field f, false⟩ ∈ c.terms → s.trigger.latches[f] = some e → time ≤ e) ∧
        ((∀ f : Fin 4, ⟨.field f, false⟩ ∈ c.terms → s.trigger.latches[f] = none) →
          cause = .sequencer ∧ time = n))) ∧
  -- the values of the terms
  (∀ (tr : Trigger) (sm : Sample) (v : TermValues), v = tr.termValues sm →
    (∀ (n : Fin 8),
      (tr.patterns[n] = none → tr.sourceTrue v (.pattern n) = false) ∧
      (∀ (u : PatternUnit) (now before : Prop), tr.patterns[n] = some u →
        (now ↔ ∀ k, u.mask.getLsbD k = true → sm.levels.getLsbD k = u.value.getLsbD k) →
        (before ↔ ∀ k, u.mask.getLsbD k = true → tr.prev.levels.getLsbD k = u.value.getLsbD k) →
        (tr.sourceTrue v (.pattern n) = true ↔ now ∧ (u.entered = true → ¬ before))) ∧
      (tr.edges[n] = none → tr.sourceTrue v (.edge n) = false) ∧
      (∀ u : EdgeUnit, tr.edges[n] = some u →
        (tr.sourceTrue v (.edge n) = true ↔ ∃ k, u.mask.getLsbD k = true ∧
          tr.prev.levels.getLsbD k ≠ sm.levels.getLsbD k ∧
          (u.edge = .rising → sm.levels.getLsbD k = true) ∧ (u.edge = .falling → sm.levels.getLsbD k = false)))) ∧
    (tr.glitchUnit = none → tr.sourceTrue v .glitch = false) ∧
    (∀ m : Word, tr.glitchUnit = some m →
      (tr.sourceTrue v .glitch = true ↔ ∃ k, m.getLsbD k = true ∧ sm.glitch.getLsbD k = true)) ∧
    tr.sourceTrue v .external = sm.trig ∧ tr.sourceTrue v .always = true ∧
    (∀ n : CounterId, tr.sourceTrue v (.counter n) = ((tr.counters[n]).matched || (tr.counters[n]).latch)) ∧
    (∀ n : Fin 4, tr.sourceTrue v (.field n) = (tr.latches[n]).isSome) ∧
    -- the value of a condition
    (∀ c : Condition,
      (c.terms = [] → tr.conditionTrue v c = false) ∧
      (c.terms ≠ [] → c.any = true →
        (tr.conditionTrue v c = true ↔ ∃ x ∈ c.terms, tr.sourceTrue v x.source ≠ x.negate)) ∧
      (c.terms ≠ [] → c.any = false →
        (tr.conditionTrue v c = true ↔ ∀ x ∈ c.terms, tr.sourceTrue v x.source ≠ x.negate)))) ∧
  -- transitions to a stage, and samples that are only kept
  (∀ (sm : Sample) (n : Nat) (s r e : State) (st : Stage) (u : Trigger) (v : TermValues),
    st = s.trigger.stages.getD s.trigger.stage Stage.cleared → v = s.trigger.termValues sm →
    u = s.trigger.tickSteps true v → r = { s with trigger := u } →
    (s.trigger.state = .running → s.trigger.force = false →
      (∃ k, st.advanceTo = .stage k ∧ u.conditionTrue v st.advance = true ∧ e = enterStage k r) ∨
        (u.conditionTrue v st.advance = false ∧
          ∃ c k, st.alternate = some (c, .stage k) ∧ u.conditionTrue v c = true ∧ e = enterStage k r) ∨
        (u.conditionTrue v st.advance = false ∧
          (∀ c g, st.alternate = some (c, g) → u.conditionTrue v c = false) ∧ e = r) →
      sequencerSample sm true n s = { e with trigger := { e.trigger with
        latches := Vector.replicate 4 none
        counters := e.trigger.counters.map fun c => { c with latch := false }
        prev := sm, prevTerms := v } }) ∧
    (s.trigger.state = .idle ∨ s.trigger.state = .triggered ∨
        (s.trigger.state = .waitArm ∧ s.trigger.force = false) →
      sequencerSample sm true n s = { s with trigger := { s.trigger with prev := sm, prevTerms := v } }))

/-- A completed LIVE frame offered while RUNNING sets the latch of every comparator it matches, keeping the earliest end tick.
Offering a completed frame to the comparators. With the sequencer RUNNING and a LIVE frame: a comparator that names the
frame's lane and whose enabled items all match has its latch at the frame's end tick, or at the earlier of that and the
tick it held; every other latch is unchanged. A counter whose source is no FIELD term, or that is not running, is
unchanged. With the sequencer in another state or a REPLAY frame nothing changes. In every case the program, the units,
the dividers, the sequencer's state and stage and the previous sample are unchanged. A running counter whose source is
FIELD n makes one step at a match of comparator n and none otherwise. A comparator accepts a frame exactly when every
enabled item matches: the kind tag is equal, the condition code is in the set, the frame has an address value equal under
the mask, the data bytes from the offset reach and are equal under their masks, and the unit count is equal, at least or
at most the value. -/
def Obligations.FieldComparatorsLatchTheEarliest : Prop :=
  ∀ (t : Trigger) (r : FrameRecord) (address : Option Word),
    (t.state = .running → r.isReplay = false → ∀ n : Fin 4,
      (∀ c : Comparator, t.comps[n] = some c → c.lane = r.lane → c.accepts r address = true →
        (t.offer r address).latches[n] = some (match t.latches[n] with
          | none => r.endTick
          | some e => min e r.endTick)) ∧
      (t.comps[n] = none → (t.offer r address).latches[n] = t.latches[n]) ∧
      (∀ c : Comparator, t.comps[n] = some c → c.lane ≠ r.lane ∨ c.accepts r address = false →
        (t.offer r address).latches[n] = t.latches[n]) ∧
      (((t.counters[n]).running = false ∨ ∀ f : Fin 4, (t.counters[n]).source ≠ .term (.field f)) →
        (t.offer r address).counters[n] = t.counters[n]) ∧
      (∀ (f : Fin 4) (c : Comparator), (t.counters[n]).running = true → (t.counters[n]).source = .term (.field f) →
        t.comps[f] = some c →
        (c.lane = r.lane → c.accepts r address = true →
          (t.offer r address).counters[n] = (t.counters[n]).step) ∧
        (c.lane ≠ r.lane ∨ c.accepts r address = false → (t.offer r address).counters[n] = t.counters[n]))) ∧
    (∀ c : Comparator, c.accepts r address = true ↔
      (∀ k, c.kindTag = some k → r.tag = k.toNat) ∧
      (∀ set, c.codes = some set → set.getLsbD r.code.code = true) ∧
      (∀ v m, c.address = some (v, m) → ∃ a, address = some a ∧ a &&& m = v &&& m) ∧
      (∀ d, c.data = some d → d.offset + d.length ≤ r.data.length ∧ ∀ j, j < d.length →
        r.data.getD (d.offset + j) 0 &&& byteOf d.mask j = byteOf d.value j &&& byteOf d.mask j) ∧
      (∀ u, c.units = some (.eq, u) → r.units = u) ∧ (∀ u, c.units = some (.ge, u) → u ≤ r.units) ∧
      (∀ u, c.units = some (.le, u) → r.units ≤ u)) ∧
    (t.state ≠ .running ∨ r.isReplay = true → t.offer r address = t) ∧
    t.offer r address =
      { t with latches := (t.offer r address).latches, counters := (t.offer r address).counters }

/-- LOAD_FRAME_TABLE and UNLOAD_TABLE judge in order; a load charges the pool and an unload returns the charge. Both commands:
a lane above 5 is answered BAD_ARGUMENT, a lane not OFF LANE_ACTIVE. LOAD_FRAME_TABLE of an OFF lane: a length that
disagrees with the declared entry count BAD_LENGTH; a table that breaks a static rule BAD_ARGUMENT with one result word; a
table whose charge exceeds the free amounts with the replaced charge added back NO_RESOURCE with those amounts; otherwise
OK with the charge and the free amounts, the slot holding table and charge, and only the slot and the free amounts change.
An image of one plain 8-bit DATA entry over TWO-WIRE is such a load with charge 1, 0, 0. The charge of any table is its
entry count, its branch count, and 1 check unit unless its check kind is NONE. UNLOAD_TABLE of an OFF lane: EMPTY answers
0 and changes nothing, LOADED answers 1, the slot is EMPTY with charge 0 and the charge is free again. The static rules,
for an image of the right length with 1 to 32 entries: the refusal's word is the index of the first entry that breaks a
rule of R103 (role code, width, a repeat on a role other than DATA, FIXED n, a BY_LENGTH reference or offset, TO_END
before the last entry or with end-on-last-entry, an in-check CHECK, a branch's entry or target, a seventeenth entry that
is not DATA, a fifth branch); with none, 32 when the front end breaks R104, then 33 when the units limit or G does, then
34 when the check breaks R105. Which part a rule over the whole table is charged to, and that entries come before front
end, frame parameters and check, are the model's choice (log 19). A table that keeps them is what its words say. -/
def Obligations.FrameTableCommandsJudgedInOrder : Prop :=
  (∀ (tag : Tag) (lane : Word) (image : List Word) (s : State), canDispatch s = true →
    (5 < lane.toNat →
      exec (.loadFrameTable tag lane image) s = .next (placeResponse ⟨tag, typeTable, 1, .badArgument, []⟩ s) ∧
      exec (.unloadTable tag lane) s = .next (answered tag 24 .badArgument [] s)) ∧
    (∀ l : LaneId, lane.toNat = l.val →
      ((s.lanes[l]).state ≠ .off →
        exec (.loadFrameTable tag lane image) s = .next (placeResponse ⟨tag, typeTable, 1, .laneActive, []⟩ s) ∧
        exec (.unloadTable tag lane) s = .next (answered tag 24 .laneActive [] s)) ∧
      ((s.lanes[l]).state = .off →
        (image.length ≠ 11 + 4 * (image.getD 10 0).toNat → exec (.loadFrameTable tag lane image) s =
          .next (placeResponse ⟨tag, typeTable, 1, .badLength, []⟩ s)) ∧
        (image.length = 11 + 4 * (image.getD 10 0).toNat →
          (∀ w, parseTable image = .error w → exec (.loadFrameTable tag lane image) s =
            .next (placeResponse ⟨tag, typeTable, 1, .badArgument, [w]⟩ s)) ∧
          (∀ (t : FrameTable) (av : Charge), parseTable image = .ok t →
            av = s.tables.free.add (s.tables.slots[l]).charge →
            (av.entries < t.charge.entries ∨ av.branches < t.charge.branches ∨ av.checks < t.charge.checks →
              exec (.loadFrameTable tag lane image) s = .next (placeResponse ⟨tag, typeTable, 1, .noResource,
                [word av.entries, word av.branches, word av.checks]⟩ s)) ∧
            (t.charge.entries ≤ av.entries → t.charge.branches ≤ av.branches → t.charge.checks ≤ av.checks →
              exec (.loadFrameTable tag lane image) s = .next (placeResponse ⟨tag, typeTable, 1, .ok,
                [word t.charge.entries, word t.charge.branches, word t.charge.checks,
                  word (av.entries - t.charge.entries), word (av.branches - t.charge.branches),
                  word (av.checks - t.charge.checks)]⟩
                { s with tables := ⟨s.tables.slots.set l ⟨some t, t.charge⟩, av.sub t.charge⟩ })))) ∧
        (∀ clock data limit gap : Nat, clock < 32 → data < 32 → clock ≠ data → 1 ≤ limit → limit ≤ 256 → 1 ≤ gap →
          gap < 4294967296 →
          image = [word (2 + clock * 256 + data * 65536), 0, 0, word limit, word gap, 0, 0, 0, 0, 0, 1,
            word (8 * 256 + 3 * 65536), 0, 0, 0] →
          parseTable image = .ok ⟨.twoWire ⟨clock, data, false⟩, limit, gap, false, ⟨.none, 0, 0, 0, false, false⟩,
            [⟨0, 8, false, .data, .once, false, none⟩]⟩) ∧
        ((s.tables.slots[l]).table = none → exec (.unloadTable tag lane) s = .next (answered tag 24 .ok [0] s)) ∧
        ((s.tables.slots[l]).table.isSome → exec (.unloadTable tag lane) s = .next (answered tag 24 .ok [1]
          { s with tables := ⟨s.tables.slots.set l ⟨none, ⟨0, 0, 0⟩⟩,
            s.tables.free.add (s.tables.slots[l]).charge⟩ }))))) ∧
  -- the charge of a table, and sums and differences of charges
  (∀ t : FrameTable, t.charge =
    ⟨t.entries.length, (t.entries.filter fun e => e.branch.isSome).length, if t.check.kind = .none then 0 else 1⟩) ∧
  (∀ a b : Charge, a.add b = ⟨a.entries + b.entries, a.branches + b.branches, a.checks + b.checks⟩ ∧
    a.sub b = ⟨a.entries - b.entries, a.branches - b.branches, a.checks - b.checks⟩) ∧
  -- the static rules, and what a table that keeps them means
  (∀ (tag : Tag) (lane : Word) (l : LaneId) (image : List Word) (n : Nat) (s : State) (w : Nat → Word)
    (e : Nat → Nat → Word) (faulty : Nat → Prop) (answer : Word → Prop), canDispatch s = true → lane.toNat = l.val →
    (s.lanes[l]).state = .off → image.length = 11 + 4 * n → 1 ≤ n → n ≤ 32 → (∀ i, w i = image.getD i 0) →
    (w 10).toNat = n → (∀ j k, e j k = w (11 + 4 * j + k)) →
    (∀ x, answer x ↔ exec (.loadFrameTable tag lane image) s =
      .next (placeResponse ⟨tag, typeTable, 1, .badArgument, [x]⟩ s)) →
    -- entry j breaks a rule of R103
    (∀ j, faulty j ↔ 5 < field (e j 0) 16 3 ∨ field (e j 0) 8 6 = 0 ∨ 32 < field (e j 0) 8 6 ∨
      (field (e j 0) 20 2 ≠ 0 ∧ field (e j 0) 16 3 ≠ 3) ∨
      (field (e j 0) 20 2 = 1 ∧ (field (e j 1) 0 9 = 0 ∨ 256 < field (e j 1) 0 9)) ∨
      (field (e j 0) 20 2 = 2 ∧ (j ≤ field (e j 1) 0 5 ∨ field (e (field (e j 1) 0 5) 0) 16 3 ≠ 2 ∨
        (8 < field (e j 1) 16 5 ∧ field (e j 1) 16 5 < 24))) ∨
      (field (e j 0) 20 2 = 3 ∧ (j + 1 ≠ n ∨ (w 5).getLsbD 0 = true)) ∨
      (field (e j 0) 16 3 = 4 ∧ (e j 0).getLsbD 22 = true) ∨
      ((e j 0).getLsbD 23 = true ∧ (field (e j 0) 20 2 ≠ 0 ∨ field (e j 0) 16 3 = 4 ∨ field (e j 0) 24 5 ≤ j ∨
        n ≤ field (e j 0) 24 5)) ∨
      16 < ((List.range (j + 1)).filter fun i => field (e i 0) 16 3 ≠ 3).length ∨
      4 < ((List.range (j + 1)).filter fun i => (e i 0).getLsbD 23).length) →
    (∀ j, j < n → faulty j → (∀ i, i < j → ¬ faulty i) → answer (word j)) ∧
    -- the front end, the frame parameters and the check
    ((∀ j, j < n → ¬ faulty j) → ∀ (channels : List Nat) (badFront badFrame badCheck : Prop) (checks : List Nat),
      channels = field (w 0) 8 5 :: ((if (w 0).getLsbD 15 then [field (w 0) 16 5] else []) ++
        (List.range (field (w 0) 24 3)).map fun i => field (w 1) (8 * i) 8) →
      (badFront ↔ field (w 0) 0 2 = 3 ∨
        (field (w 0) 0 2 = 0 ∧ ((w 1).toNat < 512 ∨ 16777216 < (w 1).toNat ∨ field (w 0) 16 4 < 5 ∨
          9 < field (w 0) 16 4 ∨ 4 < field (w 0) 20 3 ∨ field (w 0) 24 2 = 3)) ∨
        (field (w 0) 0 2 = 1 ∧ (field (w 0) 13 2 = 3 ∨ field (w 0) 24 3 = 0 ∨ 4 < field (w 0) 24 3 ∨ (w 2).toNat < 4 ∨
          32 < (w 2).toNat ∨ (w 2).toNat % field (w 0) 24 3 ≠ 0 ∨ ¬ channels.Nodup ∨ ∃ k ∈ channels, 32 ≤ k)) ∨
        (field (w 0) 0 2 = 2 ∧ field (w 0) 8 5 = field (w 0) 16 5)) →
      (badFrame ↔ (w 3).toNat = 0 ∨ 256 < (w 3).toNat ∨ (w 4).toNat = 0) →
      checks = (List.range n).filter (fun i => field (e i 0) 16 3 = 4) →
      (badCheck ↔ 4 < field (w 6) 0 3 ∨ (field (w 6) 0 3 = 0 ∧ checks ≠ []) ∨
        (1 ≤ field (w 6) 0 3 ∧ field (w 6) 0 3 ≤ 4 ∧ ¬ ∃ i, checks = [i] ∧
          field (e i 0) 8 6 = if field (w 6) 0 3 = 4 then 16 else 8) ∨
        (field (w 6) 0 3 = 3 ∧ (256 ≤ (w 7).toNat ∨ 256 ≤ (w 8).toNat ∨ 256 ≤ (w 9).toNat)) ∨
        (field (w 6) 0 3 = 4 ∧ (65536 ≤ (w 7).toNat ∨ 65536 ≤ (w 8).toNat ∨ 65536 ≤ (w 9).toNat))) →
      (badFront → answer 32) ∧ (¬ badFront → badFrame → answer 33) ∧ (¬ badFront → ¬ badFrame → badCheck → answer 34) ∧
      (¬ badFront → ¬ badFrame → ¬ badCheck → ∃ t : FrameTable, parseTable image = .ok t ∧
        t.unitsLimit = (w 3).toNat ∧ t.gap = (w 4).toNat ∧ t.endOnLast = (w 5).getLsbD 0 ∧ t.entries.length = n ∧
        t.check = ⟨t.check.kind, (w 7).toNat, (w 8).toNat, (w 9).toNat, (w 6).getLsbD 8, (w 6).getLsbD 9⟩ ∧
        t.check.kind.code.toNat = field (w 6) 0 3 ∧
        (field (w 0) 0 2 = 0 → ∃ (parity : Parity) (stop : StopBits), t.front = .startStop ⟨field (w 0) 8 5,
            (w 0).getLsbD 13, (w 1).toNat, field (w 0) 16 4, parity, stop, (w 0).getLsbD 26⟩ ∧
          [Parity.none, .even, .odd, .mark, .space][field (w 0) 20 3]? = some parity ∧
          [StopBits.one, .oneHalf, .two][field (w 0) 24 2]? = some stop) ∧
        (field (w 0) 0 2 = 1 → ∃ edge : Edge, t.front = .strobed ⟨field (w 0) 8 5, edge,
            if (w 0).getLsbD 15 then some (field (w 0) 16 5) else none, (w 0).getLsbD 21,
            (List.range (field (w 0) 24 3)).map (fun i => field (w 1) (8 * i) 8), (w 2).toNat⟩ ∧
          [Edge.rising, .falling, .both][field (w 0) 13 2]? = some edge) ∧
        (field (w 0) 0 2 = 2 → t.front = .twoWire ⟨field (w 0) 8 5, field (w 0) 16 5, (w 0).getLsbD 24⟩) ∧
        ∀ j, j < n → ∃ (role : Role) (rep : Repeat), t.entries[j]? = some ⟨field (e j 0) 0 5, field (e j 0) 8 6,
            (e j 0).getLsbD 15, role, rep, (e j 0).getLsbD 22, if (e j 0).getLsbD 23 then
              some ⟨e j 2, e j 3, field (e j 1) 24 4, field (e j 0) 24 5⟩ else none⟩ ∧
          [Role.address, .command, .length, .data, .check, .other][field (e j 0) 16 3]? = some role ∧
          (field (e j 0) 20 2 = 0 → rep = .once) ∧ (field (e j 0) 20 2 = 1 → rep = .fixed (field (e j 1) 0 9)) ∧
          (field (e j 0) 20 2 = 2 → rep = .byLength (field (e j 1) 0 5)
            (if field (e j 1) 16 5 < 16 then (field (e j 1) 16 5 : Int) else (field (e j 1) 16 5 : Int) - 32)) ∧
          (field (e j 0) 20 2 = 3 → rep = .toEnd))))

/-- Check values: SUM8, XOR8 and the CRC step, reflection and closing of R102; units and field entries are taken as R99 to
R101, R128 to R130 say. For every list of bytes: the SUM8 value and the bytes sum to 0 modulo 256; the XOR8 value is their
exclusive OR; with no bytes both are 0. For CRC8 and CRC16 whose parameters fit the register: it starts at the initial
value; one data bit makes each bit the bit below it (0 at the bottom), changed where the polynomial has a 1 and the top
bit differs from the data bit; a byte is eight such steps, top bit first, or with reflect in lowest first; the value is
the register, with reflect out in reverse, XOR the final XOR. With final XOR 0 and reflect in equal to reflect out,
feeding the value (CRC16: top byte first, with reflect low byte first) gives 0. A unit beyond the units limit or after the
last entry sets the long mark and delivers nothing; any other joins the gatherer's tail and entries are taken while their
width is there. A taking removes width bits, first bit most or least significant by the order; DATA bytes are appended up
to 64, beyond that TRUNCATED; other values join the field list, the first ADDRESS is the address value, a LENGTH value is
kept for its entry, a CHECK value is compared with the check value unless the kind is NONE; an in-check entry feeds its
bytes. A branch whose masked value matches sets the kind tag and goes to its target; otherwise the entry is taken once
less, or the next is reached; TO_END stays. An entry reached has 1, n, or the referenced length plus offset takings (at
most 256; 0 or below: passed). -/
def Obligations.CheckValuesClose : Prop :=
  (∀ (c : Check) (bytes : List Nat) (acc : Nat), (∀ b ∈ bytes, b < 256) → acc = bytes.foldl c.feed c.start →
    (c.kind = .sum8 → (bytes.sum + c.value acc) % 256 = 0 ∧ c.value acc < 256) ∧
    (c.kind = .xor8 → c.value acc = bytes.foldl (· ^^^ ·) 0) ∧
    (c.kind = .sum8 ∨ c.kind = .xor8 → c.value c.start = 0) ∧
    (∀ w : Nat, c.kind = .crc8 ∧ w = 8 ∨ c.kind = .crc16 ∧ w = 16 → c.poly < 2 ^ w → c.init < 2 ^ w → c.xorOut < 2 ^ w →
      c.start = c.init ∧ acc < 2 ^ w ∧ c.value acc < 2 ^ w ∧
      (∀ (reg i : Nat) (b : Bool), reg < 2 ^ w → i < w →
        (crcBit w c.poly reg b).testBit i = ((decide (0 < i) && reg.testBit (i - 1)) !=
          ((reg.testBit (w - 1) != b) && c.poly.testBit i))) ∧
      (∀ (byte : Nat) (regs : Nat → Nat), byte < 256 →
        (∀ i, i < 8 → regs (i + 1) = crcBit w c.poly (regs i) (byte.testBit (if c.reflectIn then i else 7 - i))) →
        c.feed (regs 0) byte = regs 8) ∧
      (∀ i, i < w → (c.value acc).testBit i =
        ((if c.reflectOut then acc.testBit (w - 1 - i) else acc.testBit i) != c.xorOut.testBit i)) ∧
      (c.xorOut = 0 → c.reflectIn = c.reflectOut →
        (w = 8 → c.feed acc (c.value acc) = 0) ∧
        (w = 16 → c.reflectIn = false → c.feed (c.feed acc (c.value acc / 256)) (c.value acc % 256) = 0) ∧
        (w = 16 → c.reflectIn = true → c.feed (c.feed acc (c.value acc % 256)) (c.value acc / 256) = 0)))) ∧
  -- units (R128) and the taking of entries (R129)
  (∀ (t : FrameTable) (ln : Lane) (f : PartialFrame), ln.frame = some f → (∀ e ∈ t.entries, 1 ≤ e.width) →
    (∀ (bits g : List Bool) (first last : Nat) (f1 : PartialFrame), g = ln.gatherer ++ bits →
      f1 = { f with
        units := min (f.units + 1) 65535, start := if f.lastEnd = none then first else f.start, lastEnd := some last } →
      (t.unitsLimit ≤ f.units ∨ t.entries.length ≤ ln.pos.entry →
        deliverUnit t bits first last ln = { ln with frame := some { f1 with long := true } }) ∧
      (f.units < t.unitsLimit → ln.pos.entry < t.entries.length →
        deliverUnit t bits first last ln = extract t (g.length + 1) { ln with frame := some f1, gatherer := g })) ∧
    (t.entries.length ≤ ln.pos.entry → extract t (ln.gatherer.length + 1) ln = ln) ∧
    (∀ e, t.entries[ln.pos.entry]? = some e →
      (ln.gatherer.length < e.width → extract t (ln.gatherer.length + 1) ln = ln) ∧
      (e.width ≤ ln.gatherer.length →
        extract t (ln.gatherer.length + 1) ln =
          extract t ((takeEntry t ln f e).gatherer.length + 1) (takeEntry t ln f e) ∧
        (∀ (v : Nat) (bytes : List Byte), v < 2 ^ e.width →
          (∀ i, i < e.width → v.testBit i = ln.gatherer.getD (if e.lsbFirst then i else e.width - 1 - i) false) →
          bytes.length = (e.width + 7) / 8 →
          (∀ i, i < bytes.length → bytes[i]? = some (BitVec.ofNat 8 (v / 256 ^ (bytes.length - 1 - i)))) →
          ∃ (f' : PartialFrame) (pos : Extract), takeEntry t ln f e = { ln with
              gatherer := ln.gatherer.drop e.width, frame := some f', pos := pos
              acc := if e.inCheck then bytes.foldl (fun a b => t.check.feed a b.toNat) ln.acc else ln.acc } ∧
            f' = { f with
              tag := f'.tag
              data := if e.role = .data then (f.data ++ bytes).take 64 else f.data
              truncated := f.truncated || (decide (e.role = .data) && decide (64 < (f.data ++ bytes).length))
              fields := if e.role = .data then f.fields else f.fields ++ [(e.name, BitVec.ofNat 32 v)]
              address := if e.role = .address then some (f.address.getD (BitVec.ofNat 32 v)) else f.address
              lengths := if e.role = .length then (ln.pos.entry, v) :: f.lengths else f.lengths
              checkFailed := f.checkFailed || (decide (e.role = .check) && decide (t.check.kind ≠ .none) &&
                decide (t.check.value ln.acc ≠ v)) } ∧
            (∀ b, e.branch = some b → BitVec.ofNat 32 v &&& b.mask = b.value &&& b.mask →
              f'.tag = b.tag ∧ pos = reach t.entries f'.lengths (t.entries.length + 1) b.target) ∧
            ((∀ b, e.branch = some b → BitVec.ofNat 32 v &&& b.mask ≠ b.value &&& b.mask) → f'.tag = f.tag ∧
              (ln.pos.left = none → pos = ln.pos) ∧
              (∀ n, ln.pos.left = some (n + 2) → pos = ⟨ln.pos.entry, some (n + 1)⟩) ∧
              (ln.pos.left = some 1 →
                pos = reach t.entries f'.lengths (t.entries.length + 1) (ln.pos.entry + 1))))))) ∧
  -- the takings of an entry that extraction reaches (R100)
  (∀ (entries : List Entry) (lengths : List (Nat × Nat)) (i : Nat) (reached : Nat → Extract),
    (∀ j, reached j = reach entries lengths (entries.length + 1) j) →
    (entries.length ≤ i → reached i = ⟨i, some 0⟩) ∧
    (∀ e, entries[i]? = some e →
      (e.rep = .once → reached i = ⟨i, some 1⟩) ∧
      (∀ n, e.rep = .fixed n → 1 ≤ n → reached i = ⟨i, some n⟩) ∧
      (e.rep = .toEnd → reached i = ⟨i, none⟩) ∧
      (∀ (r : Nat) (off count : Int), e.rep = .byLength r off →
        count = ((lengths.lookup r).getD 0 : Nat) + off →
        (count ≤ 0 → reached i = reached (i + 1)) ∧ (0 < count → reached i = ⟨i, some (min count.toNat 256)⟩))))

/-- LANE_START judges in order; a LIVE lane takes each stamped sample; START-STOP, STROBED and TWO-WIRE turn levels into
units. LANE_START of a lane above 5 is answered BAD_ARGUMENT; of a lane not OFF, with an EMPTY slot, or in sampling mode
STATE, WRONG_STATE. Otherwise the answer is OK, the lane is in HUNT with source LIVE, no previous levels, resynchronising
flag no, no errors and no frame, and nothing else changes. In MONITOR with the sequencer IDLE, LEVEL_STREAM_SAMPLE gives
the one live lane the tick stamped, with the levels of its channel set, and hands its frame to the stream where it is
streamed; the other lanes are unchanged. A lane with no previous levels only records them. START-STOP: a start edge that
counts (if resynchronising, after the character time of idle) begins a character; bit i is read at start + floor((2i + 1)
P / 512); an idle start bit is a false start, any other opens a frame in HUNT; data, parity and stop bits follow, and the
last idle stop bit makes the data bits a unit, a failed parity setting check failed. STROBED: a sampling edge while
selected takes one bit of each data channel, opens a frame in HUNT, and ends a unit at the unit width; while
resynchronising it is ignored; the flag clears when select leaves its active level, or with no select G ticks after the
first tick or the last ignored edge (log 17; at once where they are past when the flag is set, the model's choice, log
43). TWO-WIRE: a start condition opens a frame, a rising edge in a frame takes a bit, the ninth ends the unit, and the
first stop condition clears the flag. After a unit the frame ends at once if end-on-last-entry is on and the entries are
passed. Other ends are in FrameEndJudgesAndHandsOver, a unit's bits in CheckValuesClose. -/
def Obligations.LaneStartJudgedInOrder : Prop :=
  (∀ (tag : Tag) (lane : Word) (s : State), canDispatch s = true →
    (5 < lane.toNat → exec (.laneStart tag lane) s = .next (answered tag 26 .badArgument [] s)) ∧
    (∀ l : LaneId, lane.toNat = l.val →
      ((s.lanes[l]).state ≠ .off ∨ (s.tables.slots[l]).table = none ∨ s.time.mode = .state →
        exec (.laneStart tag lane) s = .next (answered tag 26 .wrongState [] s)) ∧
      ((s.lanes[l]).state = .off → (s.tables.slots[l]).table.isSome → s.time.mode = .timing →
        exec (.laneStart tag lane) s = .next (answered tag 26 .ok [] { s with
          lanes := s.lanes.set l (⟨.hunt, false, false, none, FrontState.empty, 0, [], ⟨0, some 0⟩, none, 0, 0, none⟩ : Lane)
          })))) ∧
  -- a LIVE lane and the level stream
  (∀ (trigIn : Bool) (l : LaneId) (t : FrameTable) (n : Nat) (ln : Lane) (s : State), s.capture.ctl = .monitor →
    s.time.sampling = true → s.trigger.state = .idle → (∀ m : LaneId, m ≠ l → (s.lanes[m]).state = .off) →
    ln = s.lanes[l] → ln.state ≠ .off → ln.isReplay = false → ln.replay = none → (s.tables.slots[l]).table = some t →
    gapDue t ln = false → s.time.fresh = false → s.time.tick = some n → n < 281474976710655 →
    ∃ s' : State, exec (.levelStreamSample trigIn) s = .next s' ∧ s'.time.tick = some (n + 1) ∧
      (∀ m : LaneId, m ≠ l → s'.lanes[m] = s.lanes[m]) ∧
      (∀ out : LaneOut, out = laneTick t l (n + 1) s'.time.last.levels ln →
        s'.lanes[l] = out.lane ∧
        (out.frame = none ∨ s.rpath.mask.getLsbD l = false → s'.rpath = s.rpath) ∧
        (∀ e, out.frame = some e → s.rpath.mask.getLsbD l = true → s.rpath.stream.length < 512 →
          s'.rpath = { s.rpath with
            stream := s.rpath.stream ++ [{ e.record with droppedBefore := s.rpath.dropped[l] }]
            dropped := s.rpath.dropped.set l 0 }) ∧
        (out.frame = none → out.sync = false → out.off = false → s'.events = s.events))) ∧
  -- the front ends
  (∀ (t : FrameTable) (l : LaneId) (tick : Nat) (levels was : BitVec 32) (ln : Lane) (out : LaneOut) (fin : Lane → Lane)
    (close : LaneOut → LaneOut), out = laneTick t l tick levels ln → (∀ k ∈ t.front.channels, k < 32) →
    (∀ x, fin x = { x with prev := some (levels &&& t.channelMask), lastTick := tick }) →
    (∀ o, close o = if o.off then o else { o with lane := fin o.lane }) →
    (∀ k, k < 32 → (t.channelMask.getLsbD k = true ↔ k ∈ t.front.channels)) ∧
    (ln.prev = none → out.frame = none ∧ out.sync = false ∧ out.off = false ∧
      out.lane = fin { ln with front := out.lane.front } ∧ out.lane.front.char = none ∧ out.lane.front.unitBits = [] ∧
      out.lane.front.quietFrom = some tick) ∧
    (∀ x, x.frame.isSome → afterUnit t l tick x =
      if t.endOnLast ∧ t.entries.length ≤ x.pos.entry then endFrame t l tick false false false x else .quiet x) ∧
    (∀ x n, openFrame t n x = { x with
      state := .inFrame, gatherer := [], acc := t.check.start, pos := reach t.entries [] (t.entries.length + 1) 0
      frame := some { start := n, units := 0, tag := 0, fields := [], data := [], truncated := false, lastEnd := none,
                      framing := false, timeout := false, checkFailed := false, long := false, address := none,
                      lengths := [] } }) ∧
    (∀ (p : StartStop) (v : Bool) (run : Nat) (fr : Option CharState → FrontState), ln.prev = some was →
      t.front = .startStop p → v = levels.getLsbD p.chan → run = (if v = p.idle then ln.front.idleRun + 1 else 0) →
      (∀ c, fr c = { ln.front with char := c, idleRun := run }) →
      (ln.front.char = none → ∀ h : Nat,
        h = 2 * (1 + p.dataBits + (if p.parity = .none then 0 else 1)) +
          (if p.stop = .one then 2 else if p.stop = .oneHalf then 3 else 4) →
        out = .quiet (fin (if v ≠ p.idle ∧ was.getLsbD p.chan = p.idle ∧
            (ln.resync = false ∨ h * p.period ≤ 512 * ln.front.idleRun)
          then { ln with resync := false, front := fr (some ⟨tick, 0, []⟩) } else { ln with front := fr none }))) ∧
      (∀ c, ln.front.char = some c → ∀ stop1 stop2 : Nat,
        stop1 = 1 + p.dataBits + (if p.parity = .none then 0 else 1) →
        stop2 = stop1 + (if p.stop = .two then 1 else 0) →
        (tick ≠ c.start + (2 * c.taken + 1) * p.period / 512 → out = .quiet (fin { ln with front := fr (some c) })) ∧
        (tick = c.start + (2 * c.taken + 1) * p.period / 512 →
          (c.taken = 0 → v = p.idle → out = .quiet (fin { ln with front := fr none })) ∧
          (c.taken = 0 → v ≠ p.idle → out = .quiet (fin { (if ln.state = .hunt then openFrame t c.start ln else ln) with
            front := fr (some ⟨c.start, 1, []⟩) })) ∧
          (0 < c.taken → c.taken < stop1 →
            out = .quiet (fin { ln with front := fr (some ⟨c.start, c.taken + 1, c.bits ++ [v]⟩) })) ∧
          (stop1 ≤ c.taken → c.taken < stop2 → v = p.idle →
            out = .quiet (fin { ln with front := fr (some ⟨c.start, c.taken + 1, c.bits⟩) })) ∧
          (stop2 ≤ c.taken → v = p.idle → ∀ (pf : PartialFrame) (data : List Bool) (par ok : Bool),
            ln.frame = some pf → data = c.bits.take p.dataBits → par = c.bits.getD p.dataBits false →
            ok = (match p.parity with
              | .none => true
              | .even => (data ++ [par]).count true % 2 == 0
              | .odd => (data ++ [par]).count true % 2 == 1
              | .mark => par
              | .space => !par) →
            out = close (afterUnit t l tick (deliverUnit t (if p.msbFirst then data.reverse else data) c.start tick
              { ln with front := fr none, frame := some { pf with checkFailed := pf.checkFailed || !ok } })))))) ∧
    (∀ (p : Strobed) (sel edge resync : Bool), ln.prev = some was → t.front = .strobed p →
      (sel = true ↔ ∀ k, p.select = some k → levels.getLsbD k = p.active) →
      edge = (match p.edge with
        | .rising => !was.getLsbD p.clock && levels.getLsbD p.clock
        | .falling => was.getLsbD p.clock && !levels.getLsbD p.clock
        | .both => was.getLsbD p.clock != levels.getLsbD p.clock) →
      (resync = true ↔ ln.resync = true ∧
        ¬(p.select = none ∧ ∃ q, ln.front.quietFrom = some q ∧ q + t.gap ≤ tick)) →
      (sel = false → ln.frame = none → out = .quiet (fin { ln with resync := false })) ∧
      (sel = true → edge = false → out = .quiet (fin { ln with resync := resync })) ∧
      (sel = true → edge = true → resync = true →
        out = .quiet (fin { ln with resync := true, front := { ln.front with quietFrom := some tick } })) ∧
      (sel = true → edge = true → resync = false → ∀ (x : Lane) (bits : List Bool) (first : Nat),
        x = (if ln.frame.isSome then ln else openFrame t tick ln) →
        bits = ln.front.unitBits ++ p.data.map (fun k => levels.getLsbD k) →
        first = (if ln.front.unitBits = [] then tick else ln.front.unitStart) →
        (bits.length < p.width → out = .quiet (fin { x with resync := false, front := { ln.front with
          quietFrom := none, unitBits := bits, unitStart := first, lastEdge := tick } })) ∧
        (p.width ≤ bits.length → out = close (afterUnit t l tick (deliverUnit t bits first tick
          { x with resync := false, front := { ln.front with
            quietFrom := none, unitBits := [], unitStart := first, lastEdge := tick } }))))) ∧
    (∀ (p : TwoWire) (c0 c1 d0 d1 : Bool), ln.prev = some was → t.front = .twoWire p →
      c0 = was.getLsbD p.clock → c1 = levels.getLsbD p.clock → d0 = was.getLsbD p.data → d1 = levels.getLsbD p.data →
      (ln.frame = none →
        (c0 && c1 && d0 && !d1 → ln.resync = false → out = .quiet (fin (openFrame t tick { ln with
          front := { ln.front with unitBits := [], unitStart := tick, lastEdge := tick } }))) ∧
        (c0 && c1 && d0 && !d1 → ln.resync = true → out = .quiet (fin ln)) ∧
        (c0 && c1 && !d0 && d1 → out = .quiet (fin { ln with resync := false })) ∧
        ((c0 && c1 && (d0 != d1)) = false → out = .quiet (fin ln))) ∧
      (∀ (pf : PartialFrame) (bits : List Bool) (first : Nat), ln.frame = some pf → bits = ln.front.unitBits ++ [d1] →
        first = (if ln.front.unitBits = [] ∧ pf.units ≠ 0 then tick else ln.front.unitStart) →
        (!c0 && c1 → bits.length < 9 → out = .quiet (fin { ln with
          front := { ln.front with unitBits := bits, unitStart := first, lastEdge := tick } })) ∧
        (!c0 && c1 → 9 ≤ bits.length →
          out = close (afterUnit t l tick (deliverUnit t (if p.keepAck then bits else bits.take 8) first tick { ln with
            front := { ln.front with unitBits := [], unitStart := first, lastEdge := tick } }))) ∧
        ((!c0 && c1) = false → (c0 && c1 && (d0 != d1)) = false → out = .quiet (fin ln)))))

/-- LANE_STOP GRACEFUL and NOW by the lane's state; an open frame is drained, or abandoned. LANE_STOP of a lane above 5 is
answered BAD_ARGUMENT. With no gap run out on the lane: of an OFF lane both kinds answer OK with OFF and change nothing
else; of a lane in HUNT both take it OFF, raise LANE_STOPPED or for a replay REPLAY_DONE, and answer OFF. GRACEFUL of a
lane IN_FRAME takes it to DRAINING and in DRAINING changes nothing, each answered DRAINING. NOW of a lane with an open
frame takes it OFF and answers OFF: with no complete unit the frame is discarded and only that event is raised; with one,
for a replaying lane that logs nothing and is streamed with room in the stream queue, the frame enters the stream as
ABANDONED with the lane's dropped count, which becomes 0. Whatever the source, a frame with a complete unit is handed to
the record path as ABANDONED (comparators, log, stream: CompletedFramesReachLogAndStream), a LIVE lane's for the current
segment if there is one, a storing replay's for its own segment, SYNC_LOST is raised when it is the third consecutive
error, and then LANE_STOPPED or REPLAY_DONE; for such a lane that is not streamed, with room in the log write queue and,
if LIVE, the sequencer not RUNNING, the frame joins that queue and nothing else changes. -/
def Obligations.LaneStopByState : Prop :=
  ∀ (tag : Tag) (lane : Word) (s : State), canDispatch s = true →
    (5 < lane.toNat →
      exec (.laneStopGraceful tag lane) s = .next (answered tag 27 .badArgument [] s) ∧
      exec (.laneStopNow tag lane) s = .next (answered tag 27 .badArgument [] s)) ∧
    (∀ (l : LaneId) (ln : Lane) (ev : Word), lane.toNat = l.val → ln = s.lanes[l] →
      (∀ t : FrameTable, (s.tables.slots[l]).table = some t → gapDue t ln = false) →
      ev = (if ln.isReplay then evReplayDone l else evLaneStopped l) →
      (ln.state = .off →
        exec (.laneStopGraceful tag lane) s = .next (answered tag 27 .ok [0] s) ∧
        exec (.laneStopNow tag lane) s = .next (answered tag 27 .ok [0] s)) ∧
      (ln.state = .hunt →
        exec (.laneStopGraceful tag lane) s = .next (answered tag 27 .ok [0] { s with
          lanes := (s.lanes.set l { Lane.reset with isReplay := ln.isReplay })
          events := s.events.set blkDecode ((s.events[blkDecode]).raise ev) }) ∧
        exec (.laneStopNow tag lane) s = exec (.laneStopGraceful tag lane) s) ∧
      (ln.state = .inFrame → exec (.laneStopGraceful tag lane) s = .next (answered tag 27 .ok [3]
        { s with lanes := s.lanes.set l { ln with state := .draining } })) ∧
      (ln.state = .draining → exec (.laneStopGraceful tag lane) s = .next (answered tag 27 .ok [3] s)) ∧
      (∀ f : PartialFrame, ln.state = .inFrame ∨ ln.state = .draining → (s.tables.slots[l]).table.isSome → ln.frame = some f →
        (f.lastEnd = none → ln.errors < 3 → exec (.laneStopNow tag lane) s = .next (answered tag 27 .ok [0] { s with
          lanes := (s.lanes.set l { Lane.reset with isReplay := ln.isReplay })
          events := s.events.set blkDecode ((s.events[blkDecode]).raise ev) })) ∧
        (∀ e : Nat, f.lastEnd = some e → ln.errors < 2 → ln.isReplay = true →
          (∀ r : Replay, ln.replay = some r → r.store = false) → ln.replay.isSome →
          s.rpath.mask.getLsbD l = true → s.rpath.stream.length < 512 →
          exec (.laneStopNow tag lane) s = .next (answered tag 27 .ok [0] { s with
            lanes := s.lanes.set l { Lane.reset with isReplay := true }
            rpath := { s.rpath with
              stream := s.rpath.stream ++ [⟨l, true, f.tag, .abandoned, f.start, e, f.units, f.fields, f.data,
                f.truncated, s.rpath.dropped[l]⟩]
              dropped := s.rpath.dropped.set l 0 }
            events := s.events.set blkDecode ((s.events[blkDecode]).raise (evReplayDone l)) })) ∧
        -- a frame with a complete unit, of a LIVE lane or of any replay
        (∀ (e : Nat) (x : Ended) (target : Option Nat) (u : State), f.lastEnd = some e → ln.errors < 3 →
          x = ⟨⟨l, ln.isReplay, f.tag, .abandoned, f.start, e, f.units, f.fields, f.data, f.truncated, 0⟩, f.address⟩ →
          (∀ r, ln.replay = some r → target = if r.store then some r.seg else none) →
          (ln.replay = none → (∀ i, s.capture.ctl = .capturing i → target = some i) ∧
            ((∀ i, s.capture.ctl ≠ .capturing i) → target = none)) →
          u = takeFrame target x { s with lanes := s.lanes.set l { Lane.reset with isReplay := ln.isReplay } } →
          exec (.laneStopNow tag lane) s = .next (answered tag 27 .ok [0]
            (raise blkDecode ev (raiseIf (decide (ln.errors = 2)) blkDecode (evSyncLost l) u)))) ∧
        (∀ (e i : Nat), f.lastEnd = some e → ln.errors < 2 →
          (ln.isReplay = false ∧ ln.replay = none ∧ s.capture.ctl = .capturing i ∧ s.trigger.state ≠ .running) ∨
            (ln.isReplay = true ∧ ∃ r, ln.replay = some r ∧ r.store = true ∧ r.seg = i) →
          i < s.capture.segs.length → (segAt s i).oldest.getD (segAt s i).startTime ≤ f.start →
          s.rpath.logQueue.length < 64 → s.rpath.mask.getLsbD l = false →
          exec (.laneStopNow tag lane) s = .next (answered tag 27 .ok [0] { s with
            lanes := s.lanes.set l { Lane.reset with isReplay := ln.isReplay }
            rpath := { s.rpath with logQueue := s.rpath.logQueue ++ [(i, ⟨l, ln.isReplay, f.tag, .abandoned, f.start, e,
              f.units, f.fields, f.data.take (min 64 (108 - 5 * f.fields.length)),
              f.truncated || decide (min 64 (108 - 5 * f.fields.length) < f.data.length), 0⟩)] }
            events := s.events.set blkDecode ((s.events[blkDecode]).raise ev) }))))

/-- A frame's end, by the line or the gap, gives the first mark set, its ticks, the error count and the lane's next state; a
third error SYNC_LOST. Ending the open frame of a lane by an end cause at a tick, its error count below 3: the frame
record carries lane, source, kind tag, unit count, fields, data and TRUNCATED of the partial frame, its start tick, the
end tick of its last complete unit or else the tick of the cause, and the code FRAMING, TIMEOUT, CHECK, LONG, SHORT or
GOOD by the first mark set. GOOD sets the error count to 0; any other adds 1, and the third raises SYNC_LOST, sets the
count to 0 and the resynchronising flag. The lane is in HUNT with no frame and an empty gatherer; a DRAINING lane enters
OFF instead, its third such frame raising SYNC_LOST all the same. Such a tick is: START-STOP, a stop bit that reads
non-idle (framing mark); STROBED, select at its inactive level; TWO-WIRE, a stop condition, or a start condition, after
which a new frame opens there unless the lane is OFF or resynchronising. The gap is due when no character is in progress
and the last tick taken is G or more after the last unit's end (or the start) for START-STOP, the last sampling edge or
activity for the others. GAP_TIMEOUT of a live lane with the gap due, in MONITOR with the lane not streamed and the
sequencer not RUNNING, is that end at the last tick taken, with the timeout mark for TWO-WIRE and for STROBED with select
whose frame is incomplete, LANE_STOPPED where the lane enters OFF. With no gap due, and for a lane that is OFF or replays,
it changes nothing. GAP_TIMEOUT as a step of its own at the last tick taken is the model's choice (log 4). -/
def Obligations.FrameEndJudgesAndHandsOver : Prop :=
  ∀ (t : FrameTable) (l : LaneId) (tick : Nat) (ln : Lane) (f : PartialFrame) (out : LaneOut), ln.frame = some f →
    ln.errors < 3 → out = endFrame t l tick false false false ln →
    (t.finished ln.pos = true ↔
      t.entries.length ≤ ln.pos.entry ∨ (ln.pos.entry + 1 = t.entries.length ∧ ln.pos.left = none)) ∧
    (∃ r : FrameRecord, out.frame = some ⟨r, f.address⟩ ∧
      r.lane = l ∧ r.isReplay = ln.isReplay ∧ r.tag = f.tag ∧ r.start = f.start ∧ r.endTick = f.lastEnd.getD tick ∧
      r.units = f.units ∧ r.fields = f.fields ∧ r.data = f.data ∧ r.truncated = f.truncated ∧
      (f.framing = true → r.code = .framing) ∧
      (f.framing = false → f.timeout = true → r.code = .timeout) ∧
      (f.framing = false → f.timeout = false →
        (f.checkFailed = true → r.code = .check) ∧
        (f.checkFailed = false →
          (f.long = true ∨ ln.front.unitBits ≠ [] ∨ ln.gatherer ≠ [] → r.code = .long) ∧
          (f.long = false → ln.front.unitBits = [] → ln.gatherer = [] →
            r.code = if t.finished ln.pos then .good else .short))) ∧
      (ln.state = .draining →
        out.lane = { Lane.reset with isReplay := ln.isReplay } ∧ out.off = true ∧
        (r.code = .good ∨ ln.errors < 2 → out.sync = false) ∧ (r.code ≠ .good → ln.errors = 2 → out.sync = true)) ∧
      (ln.state ≠ .draining →
        out.off = false ∧ out.lane.state = .hunt ∧ out.lane.frame = none ∧ out.lane.gatherer = [] ∧
        (r.code = .good → out.sync = false ∧ out.lane.errors = 0 ∧ out.lane.resync = ln.resync) ∧
        (r.code ≠ .good → ln.errors < 2 →
          out.sync = false ∧ out.lane.errors = ln.errors + 1 ∧ out.lane.resync = ln.resync) ∧
        (r.code ≠ .good → ln.errors = 2 → out.sync = true ∧ out.lane.errors = 0 ∧ out.lane.resync = true))) ∧
    -- the ends that the line gives
    (∀ (levels was : BitVec 32) (got : LaneOut) (close : LaneOut → LaneOut), ln.prev = some was →
      (∀ k ∈ t.front.channels, k < 32) → got = laneTick t l tick levels ln →
      (∀ o, close o = if o.off then o else
        { o with lane := { o.lane with prev := some (levels &&& t.channelMask), lastTick := tick } }) →
      (∀ (p : StartStop) (c : CharState), t.front = .startStop p → ln.front.char = some c →
        tick = c.start + (2 * c.taken + 1) * p.period / 512 →
        1 + p.dataBits + (if p.parity = .none then 0 else 1) ≤ c.taken → levels.getLsbD p.chan ≠ p.idle →
        got = close (endFrame t l tick false false false { ln with
          front := { ln.front with char := none, idleRun := 0 }, frame := some { f with framing := true } })) ∧
      (∀ (p : Strobed) (k : Nat), t.front = .strobed p → p.select = some k → levels.getLsbD k ≠ p.active →
        got = close (endFrame t l tick false false false { ln with resync := false })) ∧
      (∀ p : TwoWire, t.front = .twoWire p → was.getLsbD p.clock = true → levels.getLsbD p.clock = true →
        (was.getLsbD p.data = false → levels.getLsbD p.data = true → got = close out) ∧
        (was.getLsbD p.data = true → levels.getLsbD p.data = false →
          (out.off = true ∨ out.sync = true → got = close out) ∧
          (out.off = false → out.sync = false → got = close { out with
            lane := openFrame t tick { out.lane with
              front := { out.lane.front with unitBits := [], unitStart := tick, lastEdge := tick } } })))) ∧
    -- the gap
    (gapDue t ln = true ↔ ln.front.char = none ∧
      (match t.front with
        | .startStop _ => f.lastEnd.getD f.start
        | .strobed _ => ln.front.lastEdge
        | .twoWire _ => ln.front.lastEdge) + t.gap ≤ ln.lastTick) ∧
    (∀ s : State, s.lanes[l] = ln → (s.tables.slots[l]).table = some t →
      (gapDue t ln = false ∨ ln.isReplay = true ∨ ln.state = .off → exec (.gapTimeout l) s = .next s) ∧
      (∀ (late : Bool) (o : LaneOut), gapDue t ln = true → ln.state ≠ .off → ln.isReplay = false → ln.replay = none →
        ln.lastTick = tick → s.trigger.state ≠ .running → s.rpath.mask.getLsbD l = false → s.capture.ctl = .monitor →
        (late = true ↔ (∃ p, t.front = .twoWire p) ∨
          ∃ p, t.front = .strobed p ∧ p.select.isSome ∧ (ln.front.unitBits ≠ [] ∨ t.finished ln.pos = false)) →
        o = endFrame t l tick false false false (if late then { ln with frame := some { f with timeout := true } } else ln) →
        exec (.gapTimeout l) s = .next (raiseIf o.off blkDecode (evLaneStopped l)
          (raiseIf o.sync blkDecode (evSyncLost l) { s with lanes := s.lanes.set l o.lane }))))

/-- LANE_REPLAY judges in order and clamps its range; a grant reads one record, the lane takes the ticks before it; OVERRUN;
the end of the replay. LANE_REPLAY: a lane above 5 or a segment not below the layout count is answered BAD_ARGUMENT; then
a lane not OFF, an EMPTY slot or a segment not DONE or STOPPED WRONG_STATE; then a channel of the table outside the
segment's mask, or a START-STOP table on a STATE segment, BAD_ARGUMENT. Then the from tick is raised to the oldest time,
the to tick lowered to the end time, and a from tick above the to tick is answered BAD_ARGUMENT; otherwise OK with both,
the lane in HUNT with source REPLAY and its context, and without the store flag nothing else changes; with it, that
segment's log and the whole log write queue lose the lane's entries, a frame readout keeps its place, and nothing else of
the record path changes. A grant to the lane reads one record: the ticks before its time are taken one by one with the
levels that stood, then its levels stand; a record after the to tick, or the last, lets it take the ticks up to the to
tick and enter OFF with REPLAY_DONE (frame none open). A tick is a lane's tick with those levels; at an OVERRUN record's
tick an open frame, here with no complete unit, is closed first and the flag set, or a DRAINING lane enters OFF; that with
no frame open a character whose start bit is not judged is dropped there is the model's choice (log 40). The store flag
read by bit 0 and ticks compared on 64 bits are log 21; the record a replay begins with is log 28. -/
def Obligations.LaneReplayJudgedInOrder : Prop :=
  (∀ (tag : Tag) (lane seg : Word) (fromT toT : DWord) (store : Word) (s : State), canDispatch s = true →
    (5 < lane.toNat ∨ s.capture.layout ≤ seg.toNat →
      exec (.laneReplay tag lane seg fromT toT store) s = .next (answered tag 28 .badArgument [] s)) ∧
    (∀ (l : LaneId) (i : Nat) (d : Segment), lane.toNat = l.val → i = seg.toNat → i < s.capture.layout → d = segAt s i →
      ((s.lanes[l]).state ≠ .off ∨ (s.tables.slots[l]).table = none ∨ (d.state ≠ .done ∧ d.state ≠ .stopped) →
        exec (.laneReplay tag lane seg fromT toT store) s = .next (answered tag 28 .wrongState [] s)) ∧
      (∀ (t : FrameTable) (oldest last f e : Nat), (s.lanes[l]).state = .off → (s.tables.slots[l]).table = some t →
        d.state = .done ∨ d.state = .stopped → d.oldest = some oldest → d.endTime = some last →
        f = max fromT.toNat oldest → e = min toT.toNat last →
        (t.channelMask &&& ~~~d.mask ≠ 0 ∨ (t.front.code = 0 ∧ d.mode = .state) ∨ e < f →
          exec (.laneReplay tag lane seg fromT toT store) s = .next (answered tag 28 .badArgument [] s)) ∧
        (t.channelMask &&& ~~~d.mask = 0 → t.front.code ≠ 0 ∨ d.mode = .timing → f ≤ e →
          ∃ (k : Nat) (p : RecordPath),
            exec (.laneReplay tag lane seg fromT toT store) s = .next (answered tag 28 .ok (timeWords f ++ timeWords e)
              { s with
                lanes := s.lanes.set l { Lane.reset with
                  state := .hunt, isReplay := true, replay := some ⟨i, f, e, store.getLsbD 0, k, 0, none⟩ }
                rpath := p }) ∧
            (0 < d.retained → (recordAt s i 0).time ≤ f →
              (∀ a b, a < b → b < d.retained → (recordAt s i a).time ≤ (recordAt s i b).time) →
              k < d.retained ∧
              ((∃ j, j < d.retained ∧ (recordAt s i j).time = f) →
                (recordAt s i k).time = f ∧ ∀ j, j < k → (recordAt s i j).time < f) ∧
              ((∀ j, j < d.retained → (recordAt s i j).time ≠ f) →
                (recordAt s i k).time < f ∧ ∀ j, k < j → j < d.retained → f < (recordAt s i j).time)) ∧
            (store.getLsbD 0 = false → p = s.rpath) ∧
            (store.getLsbD 0 = true → i < s.rpath.logs.length → ∀ log : List FrameRecord, log = s.rpath.logs.getD i [] →
              p = { s.rpath with
                logs := s.rpath.logs.set i (log.filter fun r => r.lane ≠ l)
                logQueue := s.rpath.logQueue.filter fun q => q.2.lane ≠ l
                readout := p.readout } ∧
              (∀ r, s.rpath.readout = some r →
                (r.seg ≠ i → p.readout = some r) ∧
                (r.seg = i → ∀ pos, pos = r.pos - ((log.take r.pos).filter fun x => x.lane = l).length →
                  p.readout = some { r with
                    pos := pos
                    ended := r.ended || decide ((log.filter fun x => x.lane ≠ l).length ≤ pos) })) ∧
              (s.rpath.readout = none → p.readout = none)))))) ∧
  -- the grants of a replaying lane and its ticks
  (∀ (l : LaneId) (t : FrameTable) (s : State) (ln : Lane) (r : Replay), ln = s.lanes[l] →
    (s.tables.slots[l]).table = some t → ln.state ≠ .off → ln.isReplay = true → ln.replay = some r →
    -- one tick
    (∀ (x : Lane) (out : LaneOut), out = laneTick t l r.nextTick r.levels x → out.frame = none → out.sync = false →
      out.off = false → gapDue t out.lane = false →
      (r.overrunAt ≠ some r.nextTick ∧ x = ln ∨
        r.overrunAt = some r.nextTick ∧ ln.state ≠ .draining ∧
          (ln.frame = none ∧ x = { ln with state := .hunt, front := ln.front.discard, resync := true } ∨
            ∃ f, ln.frame = some f ∧ f.lastEnd = none ∧ ln.errors < 3 ∧ x = { ln with
              state := .hunt, front := ln.front.discard, resync := true, frame := none, gatherer := []
              pos := ⟨0, some 0⟩, acc := 0 })) →
      replayTick t l s = { s with lanes := s.lanes.set l { out.lane with
        replay := some { r with nextTick := r.nextTick + 1, overrunAt := none } } }) ∧
    (r.overrunAt = some r.nextTick → ln.state = .draining → ln.errors < 3 → (∀ f, ln.frame = some f → f.lastEnd = none) →
      replayTick t l s = raise blkDecode (evReplayDone l)
        { s with lanes := s.lanes.set l { Lane.reset with isReplay := true } }) ∧
    (∀ n, replayTicks t l 0 s = s ∧ replayTicks t l (n + 1) s = replayTicks t l n (replayTick t l s)) ∧
    -- one grant
    (∀ (s1 s2 : State) (ln2 : Lane) (record : Record) (n : Nat), postFillDue s = false →
      (∀ q, requesterWaits s q = true → q = .lane l) → record = recordAt s r.seg r.nextIndex →
      s1 = { s with capture := { s.capture with rotation := .lane l } } → s2 = replayTicks t l n s1 → ln2 = s2.lanes[l] →
      ln2.state ≠ .off → ln2.isReplay = true →
      (record.time ≤ r.toTick → n = record.time - r.nextTick → ∀ (taken s3 s4 : State),
        taken = { s2 with lanes := s2.lanes.set l { ln2 with replay := ln2.replay.map fun q => { q with
          nextIndex := q.nextIndex + 1, levels := record.levels
          overrunAt := if record.kind = .overrun then some record.time else q.overrunAt } } } →
        (r.nextIndex + 1 < (segAt s r.seg).retained → exec .arbiterGrant s = .next taken) ∧
        ((segAt s r.seg).retained ≤ r.nextIndex + 1 →
          s3 = replayTicks t l (r.toTick + 1 - max r.nextTick record.time) taken →
          (s3.lanes[l]).state ≠ .off → (s3.lanes[l]).isReplay = true → (s3.lanes[l]).frame = none →
          s4 = { s3 with lanes := s3.lanes.set l { Lane.reset with isReplay := true } } →
          exec .arbiterGrant s = .next (raise blkDecode (evReplayDone l) s4))) ∧
      (r.toTick < record.time → n = r.toTick + 1 - r.nextTick → ln2.frame = none →
        exec .arbiterGrant s = .next (raise blkDecode (evReplayDone l)
          { s2 with lanes := s2.lanes.set l { Lane.reset with isReplay := true } }))))

/-- SET_STREAM takes six bits; READ_FRAMES judges in order and starts a frame readout. SET_STREAM with a bit above 5 is
answered BAD_ARGUMENT; otherwise OK, the stream mask takes the value, and the queue and the dropped counts are kept.
READ_FRAMES: a segment not below the layout count or a mask with a bit above 5 BAD_ARGUMENT, otherwise a frame readout in
flight BUSY, otherwise a segment not DONE or STOPPED WRONG_STATE; otherwise OK with the number of log entries whose lane
is in the mask and whose start tick is at or above the from tick, and the readout stands at the first entry with the
count, or with all for a count of 0. The from tick compared on all 64 bits and the mask on all 32 are log 21; a readout of
an empty log that has ended at once is log 26. -/
def Obligations.StreamAndFrameReadoutCommands : Prop :=
  ∀ (tag : Tag) (mask seg count : Word) (fromT : DWord) (s : State), canDispatch s = true →
    (63 < mask.toNat →
      exec (.setStream tag mask) s = .next (answered tag 30 .badArgument [] s) ∧
      exec (.readFrames tag seg mask fromT count) s = .next (answered tag 31 .badArgument [] s)) ∧
    (s.capture.layout ≤ seg.toNat →
      exec (.readFrames tag seg mask fromT count) s = .next (answered tag 31 .badArgument [] s)) ∧
    (mask.toNat ≤ 63 →
      exec (.setStream tag mask) s = .next (answered tag 30 .ok []
        { s with rpath := { s.rpath with mask := mask.truncate 6 } }) ∧
      (seg.toNat < s.capture.layout →
        (s.rpath.readout.isSome → exec (.readFrames tag seg mask fromT count) s = .next (answered tag 31 .busy [] s)) ∧
        (s.rpath.readout = none →
          ((segAt s seg.toNat).state ≠ .done → (segAt s seg.toNat).state ≠ .stopped →
            exec (.readFrames tag seg mask fromT count) s = .next (answered tag 31 .wrongState [] s)) ∧
          ((segAt s seg.toNat).state = .done ∨ (segAt s seg.toNat).state = .stopped →
            exec (.readFrames tag seg mask fromT count) s = .next (answered tag 31 .ok
              [word (((logAt s seg.toNat).filter fun r =>
                mask.getLsbD r.lane && decide (fromT.toNat ≤ r.start)).length)]
              { s with rpath := { s.rpath with 
                readout := some (⟨tag, seg.toNat, mask.truncate 6, fromT.toNat,
                  if count = 0 then none else some count.toNat, 0, 0, [], (logAt s seg.toNat).isEmpty, false⟩ : FrameReadout)
                } })))))

/-- A completed frame reaches the comparators, its segment's log queue and the stream, or is dropped and counted; a writer
grant joins it to its log. The taking of a completed frame: the comparators are offered it
(FieldComparatorsLatchTheEarliest), which changes nothing for a replay's frame or with the sequencer not RUNNING. With no
segment it is not logged. With segment i: a start tick below the segment's oldest time, or with none its start time, is
not logged; otherwise with fewer than 64 entries waiting its log copy (at most 108 less 5 bytes a field pair of data, and
at most 64) joins the tail, else LOG_OVERFLOW is set and raised. A lane in the stream mask with fewer than 512 records
queued puts the record at the tail with the lane's dropped count, which becomes 0; else the count rises by 1 up to 255 and
FRAMES_DROPPED is raised. A live lane's frame is associated with the current segment of CAPTURING, with none in any other
state, and one that STOP closes as abandoned with the segment it closes; a replay's with its own segment when it stores,
else with none. GAP_TIMEOUT in CAPTURING hands its frame over so. A writer grant with an empty writer queue joins the head
entry to its log's end where its start tick still allows; at 65,536 divided by the layout count entries the oldest goes,
and LOG_OVERFLOW is set and raised. -/
def Obligations.CompletedFramesReachLogAndStream : Prop :=
  (∀ (seg : Option Nat) (i : Nat) (e : Ended) (r : FrameRecord) (s t : State), r = e.record →
    t = takeFrame seg e s →
    t.trigger = s.trigger.offer r e.address ∧ (s.trigger.state ≠ .running ∨ r.isReplay = true → t.trigger = s.trigger) ∧
    (seg = none → t.rpath.logQueue = s.rpath.logQueue ∧ t.capture = s.capture) ∧
    (seg = some i → i < s.capture.segs.length →
      (r.start < (segAt s i).oldest.getD (segAt s i).startTime →
        t.rpath.logQueue = s.rpath.logQueue ∧ t.capture = s.capture) ∧
      ((segAt s i).oldest.getD (segAt s i).startTime ≤ r.start →
        (s.rpath.logQueue.length < 64 → t.capture = s.capture ∧
          t.rpath.logQueue = s.rpath.logQueue ++ [(i, { r with
            data := r.data.take (min 64 (108 - 5 * r.fields.length))
            truncated := r.truncated || decide (min 64 (108 - 5 * r.fields.length) < r.data.length)
            droppedBefore := 0 })]) ∧
        (64 ≤ s.rpath.logQueue.length → t.rpath.logQueue = s.rpath.logQueue ∧
          (segAt t i).flags.logOverflow = true ∧
          t.events[blkRecord] = (s.events[blkRecord]).raise 1#32))) ∧
    (s.rpath.mask.getLsbD r.lane = false → t.rpath.stream = s.rpath.stream ∧ t.rpath.dropped = s.rpath.dropped) ∧
    (s.rpath.mask.getLsbD r.lane = true →
      (s.rpath.stream.length < 512 →
        t.rpath.stream = s.rpath.stream ++ [{ r with droppedBefore := s.rpath.dropped[r.lane] }] ∧
        t.rpath.dropped = s.rpath.dropped.set r.lane 0) ∧
      (512 ≤ s.rpath.stream.length → t.rpath.stream = s.rpath.stream ∧
        t.rpath.dropped = s.rpath.dropped.set r.lane (min (s.rpath.dropped[r.lane] + 1) 255) ∧
        t.events[blkDecode] = (s.events[blkDecode]).raise (evFramesDropped r.lane))) ∧
    t.rpath.logs = s.rpath.logs ∧ t.lanes = s.lanes ∧ t.pods = s.pods ∧ t.time = s.time ∧ t.tables = s.tables ∧
    t.view = s.view ∧ t.panel = s.panel ∧ t.uplink = s.uplink) ∧
  -- the segment of a frame (R141, R142)
  (∀ (l : LaneId) (i : Nat) (s : State),
    ((s.lanes[l]).replay = none → (s.capture.ctl = .capturing i → logTarget l s = some i) ∧
      ((∀ j, s.capture.ctl ≠ .capturing j) → logTarget l s = none)) ∧
    (∀ r, (s.lanes[l]).replay = some r → logTarget l s = if r.store then some r.seg else none) ∧
    (∀ (t : FrameTable) (o : LaneOut) (e : Ended), (s.tables.slots[l]).table = some t → gapDue t s.lanes[l] = true →
      (s.lanes[l]).state ≠ .off → (s.lanes[l]).isReplay = false → (s.lanes[l]).replay = none →
      s.capture.ctl = .capturing i → o = endByGap t l s.lanes[l] → o.frame = some e → o.sync = false → o.off = false →
      exec (.gapTimeout l) s = .next (takeFrame (some i) e { s with lanes := s.lanes.set l o.lane })) ∧
    (∀ (tag : Tag) (t : FrameTable) (f : PartialFrame) (e : Nat), canDispatch s = true → s.capture.ctl = .capturing i →
      s.time.tick ≠ some 281474976710655 → i < s.capture.segs.length →
      (∀ m : LaneId, m ≠ l → (s.lanes[m]).state = .off) → (s.lanes[l]).state ≠ .off → (s.lanes[l]).isReplay = false →
      (s.lanes[l]).frame = some f → f.lastEnd = some e → (s.lanes[l]).errors < 2 → (s.tables.slots[l]).table = some t →
      gapDue t s.lanes[l] = false → (segAt s i).oldest.getD (segAt s i).startTime ≤ f.start →
      s.rpath.logQueue.length < 64 →
      ∃ (u : State) (x : FrameRecord), exec (.stop tag) s = .next (answered tag 14 .ok [2] u) ∧
        u.rpath.logQueue = s.rpath.logQueue ++ [(i, x)] ∧ x.lane = l ∧ x.code = .abandoned ∧ x.start = f.start ∧
        x.endTick = e ∧ x.units = f.units ∧ x.fields = f.fields)) ∧
  -- a writer grant with an empty writer queue
  (∀ (i : Nat) (r : FrameRecord) (rest : List (Nat × FrameRecord)) (s : State), i < s.capture.segs.length →
    s.capture.queue = [] → s.rpath.logQueue = (i, r) :: rest → i < s.rpath.logs.length →
    s.capture.rotation = .lane 5 → postFillDue s = false → 0 < s.capture.layout → s.capture.layout ≤ 65536 →
    ∃ u : State, exec .arbiterGrant s = .next u ∧ u.rpath.logQueue = rest ∧
      (∀ j, j ≠ i → logAt u j = logAt s j) ∧
      (r.start < (segAt s i).oldest.getD (segAt s i).startTime → logAt u i = logAt s i ∧ u.events = s.events) ∧
      ((segAt s i).oldest.getD (segAt s i).startTime ≤ r.start →
        ((logAt s i).length < 65536 / s.capture.layout →
          logAt u i = logAt s i ++ [r] ∧ segAt u i = segAt s i ∧ u.events = s.events) ∧
        ((logAt s i).length = 65536 / s.capture.layout →
          logAt u i = (logAt s i).tail ++ [r] ∧ (segAt u i).flags.logOverflow = true ∧
          u.events = s.events.set blkRecord ((s.events[blkRecord]).raise 1#32))))

/-- SET_VIEW, ZOOM, PAN, FIT and SET_CURSOR change the viewport by exact arithmetic, clamp, and make a view request. SET_VIEW:
a segment not below the layout count, or a roll code above 1, is answered BAD_ARGUMENT, then an EMPTY segment WRONG_STATE;
otherwise the viewport takes segment, T0 and Q clamped to 0 to 2^48 - 1 and 1 to 2^40, and roll. ZOOM: pivot above 719
BAD_ARGUMENT; otherwise Q' clamped and T0 the pivot's start less floor(pivot x Q' / 256), clamped at the end. PAN: T0
moved by the count's floor(|d| x Q / 256), clamped, roll off. FIT: no record written WRONG_STATE; otherwise T0 the oldest
time and Q ceil(span x 256 / 720) clamped. SET_CURSOR: code above 1 BAD_ARGUMENT; otherwise the cursor takes the time
clamped, or none. Each taken answers OK with its effective values and makes a view request: none stored for an EMPTY
segment, pending behind a pass or a measurement, and otherwise a pass with that snapshot at column 0, with the row map and
the trigger time of its segment as they stand and the back buffer emptied of its columns. Nothing else changes but the
response slot. That SET_CURSOR's presence is read by its bit 0 and that times compare on all 64 bits of their two words is
log 21. -/
def Obligations.ViewportCommandsMakeRequests : Prop :=
  ∀ (tag : Tag) (seg code pres : Word) (t0 q : DWord) (s : State), canDispatch s = true →
    -- SET_VIEW
    (1 < code.toNat ∨ s.capture.layout ≤ seg.toNat →
      exec (.setView tag seg t0 q code) s = .next (answered tag 33 .badArgument [] s)) ∧
    (∀ roll : Bool, code = flagWord roll → seg.toNat < s.capture.layout →
      ((segAt s seg.toNat).state = .empty → exec (.setView tag seg t0 q code) s = .next (answered tag 33 .wrongState [] s)) ∧
      ((segAt s seg.toNat).state ≠ .empty → ∀ t w : Nat, t = min t0.toNat 281474976710655 →
        w = max 1 (min q.toNat 1099511627776) →
        ∃ u : State, exec (.setView tag seg t0 q code) s =
            .next { u with uplink := (answered tag 33 .ok (timeWords t ++ timeWords w) s).uplink } ∧
          viewRequested ⟨seg.toNat, t, w, roll, s.view.cursorA, s.view.cursorB⟩ s u)) ∧
    -- ZOOM
    (719 < seg.toNat → exec (.zoom tag seg q) s = .next (answered tag 34 .badArgument [] s)) ∧
    (seg.toNat ≤ 719 → ∀ t w : Nat, w = max 1 (min q.toNat 1099511627776) →
      t = min (s.view.t0 + seg.toNat * s.view.q / 256 - seg.toNat * w / 256) 281474976710655 →
      ∃ u : State, exec (.zoom tag seg q) s =
          .next { u with uplink := (answered tag 34 .ok (timeWords t ++ timeWords w) s).uplink } ∧
        viewRequested ⟨s.view.seg, t, w, s.view.roll, s.view.cursorA, s.view.cursorB⟩ s u) ∧
    -- PAN
    (∀ t : Nat, t = min (if seg.toNat < 2147483648 then s.view.t0 + seg.toNat * s.view.q / 256
        else s.view.t0 - (4294967296 - seg.toNat) * s.view.q / 256) 281474976710655 →
      ∃ u : State, exec (.pan tag seg) s =
          .next { u with uplink := (answered tag 35 .ok (timeWords t) s).uplink } ∧
        viewRequested ⟨s.view.seg, t, s.view.q, false, s.view.cursorA, s.view.cursorB⟩ s u) ∧
    -- FIT
    ((segAt s s.view.seg).oldest = none ∨ (segAt s s.view.seg).newest = none →
      exec (.fit tag) s = .next (answered tag 36 .wrongState [] s)) ∧
    (∀ oldest newest limit t w : Nat, (segAt s s.view.seg).oldest = some oldest →
      (segAt s s.view.seg).newest = some newest → limit = (segAt s s.view.seg).endTime.getD newest →
      t = min oldest 281474976710655 → w = max 1 (min (((limit - oldest) * 256 + 719) / 720) 1099511627776) →
      ∃ u : State, exec (.fit tag) s =
          .next { u with uplink := (answered tag 36 .ok (timeWords t ++ timeWords w) s).uplink } ∧
        viewRequested ⟨s.view.seg, t, w, s.view.roll, s.view.cursorA, s.view.cursorB⟩ s u) ∧
    -- SET_CURSOR
    (1 < code.toNat → exec (.setCursor tag code pres t0) s = .next (answered tag 37 .badArgument [] s)) ∧
    (∀ (isB : Bool) (c : Option Nat), code = flagWord isB →
      c = (if pres.getLsbD 0 then some (min t0.toNat 281474976710655) else none) →
      ∃ u : State, exec (.setCursor tag code pres t0) s = .next { u with uplink := (answered tag 37 .ok [] s).uplink } ∧
        viewRequested ⟨s.view.seg, s.view.t0, s.view.q, s.view.roll, if isB then s.view.cursorA else c,
          if isB then c else s.view.cursorB⟩ s u)

/-- The column of a time is the one whose interval holds it; a zoom keeps its pivot, a fit shows the whole span, a pan goes
back. For every T0 and every Q above 0: a time t has column c exactly when c is below 720 and a_c is at or below t and t
is below b_c; a time below T0 or at or above b_719 has none. With Q at least 256 every column holds a tick. After a ZOOM
whose T0 is not clamped the pivot time is again the start of the pivot column. With the Q that FIT forms before its clamp,
b_719 is at or above the view limit. A PAN of d and one of -d bring T0 back unless one is clamped. -/
def Obligations.ColumnsPartitionTime : Prop :=
  ∀ (t0 q : Nat), 0 < q →
    (∀ t c : Nat, columnOf t0 q t = some c ↔ c < 720 ∧ columnStart t0 q c ≤ t ∧ t < columnStart t0 q (c + 1)) ∧
    (∀ t : Nat, t < t0 ∨ columnStart t0 q 720 ≤ t ↔ columnOf t0 q t = none) ∧
    (256 ≤ q → ∀ c : Nat, columnStart t0 q c < columnStart t0 q (c + 1)) ∧
    (∀ p w : Nat, p * w / 256 ≤ columnStart t0 q p → columnStart t0 q p - p * w / 256 ≤ 281474976710655 →
      columnStart (clampT0 ((columnStart t0 q p : Int) - (p * w / 256 : Nat))) w p = columnStart t0 q p) ∧
    (∀ limit : Nat, t0 ≤ limit → limit ≤ columnStart t0 (((limit - t0) * 256 + 719) / 720) 720) ∧
    (∀ d : Int, 0 ≤ (t0 : Int) + panShift d q → (t0 : Int) + panShift d q ≤ 281474976710655 → t0 ≤ 281474976710655 →
      clampT0 ((clampT0 ((t0 : Int) + panShift d q) : Int) + panShift (-d) q) = t0)

/-- MEASURE and READ_COLUMNS judge in order; a measurement takes one record a grant, counts ticks, edges and pulses, and
finishes. MEASURE: a segment not below the layout count, a channel above 31 or a from time above the to time is answered
BAD_ARGUMENT; then a pass in flight or a measurement not none BUSY; then a segment EMPTY or with no record WRONG_STATE;
then a channel outside the mask BAD_ARGUMENT; otherwise OK with the from time raised to the oldest time and the to time
lowered to the view limit, and the measurement runs over them from the latest retained record below the from time on, or
from the oldest where none is below it; an empty stretch with no request pending finishes at once with zero counts and
raises MEASURE_DONE. READ_COLUMNS: first row above 23, count 0 or above 24 BAD_ARGUMENT; a column readout in flight BUSY;
otherwise OK with the number of rows and the readout in flight. A grant to the view engine alone takes the measurement's
next record: the ticks up to its time count as high or low by the level that stood; a rise or fall adds 1 and closes a low
or high pulse, kept in the shortest and longest; the first record gives the level only. When the next written record is at
or after the to time the ticks up to it are counted, the result waits to be sent and MEASURE_DONE is raised; a record
overwritten unread gives OVERTAKEN. Times compare on 64 bits (log 21); where a measurement begins and waits for records is
log 28. -/
def Obligations.MeasureAndColumnReadoutJudged : Prop :=
  (∀ (tag : Tag) (seg chan first count : Word) (fromT toT : DWord) (s : State), canDispatch s = true →
    (s.capture.layout ≤ seg.toNat ∨ 31 < chan.toNat ∨ toT.toNat < fromT.toNat →
      exec (.measure tag seg chan fromT toT) s = .next (answered tag 38 .badArgument [] s)) ∧
    (seg.toNat < s.capture.layout → chan.toNat ≤ 31 → fromT.toNat ≤ toT.toNat →
      (s.view.pass.isSome ∨ s.view.meas ≠ .none →
        exec (.measure tag seg chan fromT toT) s = .next (answered tag 38 .busy [] s)) ∧
      (s.view.pass = none → s.view.meas = .none → ∀ d : Segment, d = segAt s seg.toNat →
        (d.state = .empty ∨ d.oldest = none ∨ d.newest = none →
          exec (.measure tag seg chan fromT toT) s = .next (answered tag 38 .wrongState [] s)) ∧
        (∀ oldest newest f e : Nat, d.state ≠ .empty → d.oldest = some oldest → d.newest = some newest →
          f = max fromT.toNat oldest → e = min toT.toNat (d.endTime.getD newest) →
          (d.mask.getLsbD chan.toNat = false →
            exec (.measure tag seg chan fromT toT) s = .next (answered tag 38 .badArgument [] s)) ∧
          (d.mask.getLsbD chan.toNat = true → f < e →
            ∃ j : Nat, exec (.measure tag seg chan fromT toT) s = .next (answered tag 38 .ok (timeWords f ++ timeWords e)
              { s with view := { s.view with meas := .running (⟨tag, seg.toNat, chan.toNat, e,
                d.written - d.retained + j, none, f, none, none, ⟨0, 0, 0, 0, none, none, false⟩⟩) } }) ∧
              ((∀ x, x < d.retained → f ≤ (recordAt s seg.toNat x).time) → j = 0) ∧
              ((∀ x y, x < y → y < d.retained → (recordAt s seg.toNat x).time ≤ (recordAt s seg.toNat y).time) →
                (∃ x, x < d.retained ∧ (recordAt s seg.toNat x).time < f) →
                j < d.retained ∧ (recordAt s seg.toNat j).time < f ∧
                  ∀ x, j < x → x < d.retained → f ≤ (recordAt s seg.toNat x).time)) ∧
          (d.mask.getLsbD chan.toNat = true → e ≤ f → s.view.pending = none →
            exec (.measure tag seg chan fromT toT) s = .next (answered tag 38 .ok (timeWords f ++ timeWords e)
              { s with
                view := { s.view with meas := .waiting tag ⟨0, 0, 0, 0, none, none, false⟩ }
                events := s.events.set blkView ((s.events[blkView]).raise evMeasureDone) }))))) ∧
    (23 < first.toNat ∨ count = 0 ∨ 24 < count.toNat →
      exec (.readColumns tag first count) s = .next (answered tag 39 .badArgument [] s)) ∧
    (first.toNat ≤ 23 → count ≠ 0 → count.toNat ≤ 24 →
      (s.view.columns.isSome → exec (.readColumns tag first count) s = .next (answered tag 39 .busy [] s)) ∧
      (s.view.columns = none → ∀ n : Nat, n = min count.toNat (s.view.front.rows.length - first.toNat) →
        exec (.readColumns tag first count) s = .next (answered tag 39 .ok [word n]
          { s with view := { s.view with columns := some ⟨tag, first.toNat, n, false⟩ } })))) ∧
  -- one record of a measurement
  (∀ (m : MeasureRun) (r : Record) (v : Bool) (n : Nat) (at_ : MeasureResult), v = r.levels.getLsbD m.chan →
    n = r.time - m.upTo →
    (m.level = none → m.take r = { m with next := m.next + 1, level := some v }) ∧
    (∀ was : Bool, m.level = some was →
      at_ = { m.result with
        high := m.result.high + (if was then n else 0), low := m.result.low + (if was then 0 else n) } →
      (v = was → m.take r = { m with next := m.next + 1, upTo := max m.upTo r.time, result := at_ }) ∧
      (v = true → was = false → m.take r = { m with
        next := m.next + 1, upTo := max m.upTo r.time, level := some true, lastRise := some r.time, lastFall := none
        result := { at_ with
          rises := at_.rises + 1
          lowPulse := match m.lastFall, m.result.lowPulse with
            | none, p => p
            | some f, none => some (r.time - f, r.time - f)
            | some f, some (lo, hi) => some (min lo (r.time - f), max hi (r.time - f)) } }) ∧
      (v = false → was = true → m.take r = { m with
        next := m.next + 1, upTo := max m.upTo r.time, level := some false, lastFall := some r.time, lastRise := none
        result := { at_ with
          falls := at_.falls + 1
          highPulse := match m.lastRise, m.result.highPulse with
            | none, p => p
            | some f, none => some (r.time - f, r.time - f)
            | some f, some (lo, hi) => some (min lo (r.time - f), max hi (r.time - f)) } }))) ∧
  (∀ (m m' : MeasureRun) (s : State), s.view.pass = none → s.view.meas = .running m → s.view.pending = none →
    m.next < (segAt s m.seg).written → (∀ q, requesterWaits s q = true → q = .view) → postFillDue s = false →
    m' = m.take (recordNumber s m.seg m.next) →
    ((segAt s m.seg).written ≤ m'.next ∨ (recordNumber s m.seg m'.next).time < m.toTime →
      exec .arbiterGrant s = .next { s with
        capture := { s.capture with rotation := .view }, view := { s.view with meas := .running m' } }) ∧
    (m'.next < (segAt s m.seg).written → m.toTime ≤ (recordNumber s m.seg m'.next).time →
      ∀ (level : Bool), m'.level = some level →
      exec .arbiterGrant s = .next { s with
        capture := { s.capture with rotation := .view }
        view := { s.view with meas := .waiting m.tag { m'.result with
          high := m'.result.high + (if level then m.toTime - m'.upTo else 0)
          low := m'.result.low + (if level then 0 else m.toTime - m'.upTo) } }
        events := s.events.set blkView ((s.events[blkView]).raise evMeasureDone) }) ∧
    (m.next < (segAt s m.seg).base → measureAfterWrite m.seg s = { s with
      view := { s.view with meas := .waiting m.tag { m.result with overtaken := true } }
      events := s.events.set blkView ((s.events[blkView]).raise evMeasureDone) }))

/-- A pass reads by bisection, then forward; a computed column joins the back buffer, the last finishes the pass; trace and
decode cells. A grant to the view engine for a pass whose column needs an access reads one record, or one log entry:
bisecting over the retained records it halves the range toward the last record before the column's start, then reads
forward; the column needs records until one at or after its end, and the entries of the row map's lanes inside it. A grant
that leaves nothing needed ends the column as PASS_COLUMN_COMPUTED does, which changes nothing with no pass or with an
access needed (logs 1, 27). Then one cell for each row joins the back buffer. With no request pending and the column below
719 the pass is at the next column; at 719 the pass count rises by 1, from 2^32 - 1 to 1, the back buffer has that number,
snapshot and rows, PASS_DONE is raised, no pass is in flight, and the picture is ready, or with the panel OFF is the front
buffer. With a request pending a pass of its snapshot starts at column 0 with no columns kept, at column 719 too (log 27).
A column is NODATA by the four tests of R158, and again if the oldest time has passed its start; a trace row also where
its channel is not enabled. A trace cell over records in time order: L0 is the level in the last record below the column's
start, else in the oldest; n the number of records of the column, the oldest not among them, whose level differs from that
of the one before; class, density, end level and glitch of R159; a decode cell the class, ERROR and START flags of R160
(the ERROR flag clear in a cell of class ERROR: the model's choice, log 44); a BLANK row none. -/
def Obligations.PassColumnsAndCells : Prop :=
  (∀ s : State, s.view.pass = none → exec .passColumnComputed s = .next s) ∧
  (∀ (p : Pass) (s : State), s.view.pass = some p →
    (p.needsAccess s = true → exec .passColumnComputed s = .next s) ∧
    -- a grant
    (∀ (d : Segment) (p' : Pass) (s' : State), d = segAt s p.snap.seg → p.needsAccess s = true →
      (∀ q, requesterWaits s q = true → q = .view) → postFillDue s = false →
      p' = (if p.needsRecord d then passReadRecord p s else { p with logRead := p.logRead + 1 }) →
      s' = { s with capture := { s.capture with rotation := .view }, view := { s.view with pass := some p' } } →
      (p'.needsAccess s' = true → exec .arbiterGrant s = .next s') ∧
      (p'.needsAccess s' = false → exec .arbiterGrant s = exec .passColumnComputed s')) ∧
    (∀ (d : Segment) (a : Nat), d = segAt s p.snap.seg → a = columnStart p.snap.t0 p.snap.q p.col →
      (p.needsAccess s = true ↔ p.noData = false ∧
        (p.needsRecord d = true ∨ p.logRead < p.columnEntries (logAt s p.snap.seg))) ∧
      (p.needsRecord d = true ↔ p.reader = .idle ∨ (∃ lo hi, p.reader = .bisect lo hi) ∨
        ∃ next last, p.reader = .reading next last ∧ next < d.written ∧
          ∀ x, last = some x → x < columnStart p.snap.t0 p.snap.q (p.col + 1)) ∧
      (∀ mid, p.reader = .idle → d.base + 1 < d.written → mid = (d.base + d.written) / 2 →
        passReadRecord p s = { p with reader :=
          if (recordNumber s p.snap.seg mid).time < a then bisectOr mid d.written else bisectOr d.base mid }) ∧
      (p.reader = .idle → d.written ≤ d.base + 1 →
        passReadRecord p s = { p with
          reader := .reading (d.base + 1) (some (recordNumber s p.snap.seg d.base).time) }) ∧
      (∀ lo hi mid : Nat, p.reader = .bisect lo hi → d.base ≤ lo → lo + 1 < hi → mid = (lo + hi) / 2 →
        passReadRecord p s = { p with reader :=
          if (recordNumber s p.snap.seg mid).time < a then bisectOr mid hi else bisectOr lo mid }) ∧
      (∀ lo hi : Nat, bisectOr lo hi = if hi ≤ lo + 1 then .reading lo none else .bisect lo hi) ∧
      (∀ next last, p.reader = .reading next last → d.base ≤ next →
        passReadRecord p s = { p with
          reader := .reading (next + 1) (some (recordNumber s p.snap.seg next).time) })) ∧
    -- the column's end
    (p.needsAccess s = false → ∃ t : State, exec .passColumnComputed s = .next t ∧
      (columnCells p s).length = p.rows.length ∧
      t.capture = s.capture ∧ t.panel = s.panel ∧ t.rpath = s.rpath ∧ t.lanes = s.lanes ∧ t.uplink = s.uplink ∧
      (s.view.pending = none → p.col < 719 →
        t.view.back.cols = s.view.back.cols ++ [columnCells p s] ∧ t.view.front = s.view.front ∧ t.events = s.events ∧
        ∃ p' : Pass, t.view.pass = some p' ∧ p'.col = p.col + 1 ∧ p'.snap = p.snap ∧ p'.rows = p.rows ∧
          p'.noData = (segAt s p.snap.seg).noData (columnStart p.snap.t0 p.snap.q (p.col + 1))) ∧
      (s.view.pending = none → p.col = 719 →
        t.view.pass = none ∧ t.events = s.events.set blkView ((s.events[blkView]).raise evPassDone) ∧
        t.view.passCount = (if s.view.passCount = 0xFFFFFFFF then 1 else s.view.passCount + 1) ∧
        t.view.ready = s.panel.running ∧
        (∀ f : FrameBuffer, f = (if s.panel.running then t.view.back else t.view.front) →
          f.passNo = t.view.passCount ∧ f.snap = some p.snap ∧ f.rows = p.rows ∧
          f.cols = s.view.back.cols ++ [columnCells p s] ∧
          f.colTrig = p.trigTime.bind (columnOf p.snap.t0 p.snap.q)) ∧
        (s.panel.running = true → t.view.front = s.view.front)) ∧
      (∀ n : Snapshot, s.view.pending = some n →
        t.view.pending = none ∧ t.view.ready = false ∧ t.view.back.cols = [] ∧ t.view.front = s.view.front ∧
        t.events = s.events ∧
        ∃ p' : Pass, t.view.pass = some p' ∧ p'.col = 0 ∧ p'.snap = n ∧ p'.rows = s.panel.rowMap))) ∧
  -- the cells
  (∀ (p : Pass) (s : State) (d : Segment) (a b j : Nat) (row : RowEntry), d = segAt s p.snap.seg →
    a = columnStart p.snap.t0 p.snap.q p.col → b = columnStart p.snap.t0 p.snap.q (p.col + 1) → p.rows[j]? = some row →
    (d.noData a = true ↔ 281474976710655 < a ∨ d.oldest = none ∨ d.viewLimit = none ∨
      (∃ o, d.oldest = some o ∧ a < o) ∨ ∃ v, d.viewLimit = some v ∧ v ≤ a) ∧
    (∀ c : Cell, (columnCells p s)[j]? = some c →
      (row.kind = .blank → c = .blank) ∧
      (p.noData = true ∨ (∀ o, d.oldest = some o → a < o) →
        (∀ k, row.kind = .channel k → c = .trace .noData false 0 false) ∧
        (∀ l, row.kind = .lane l → c = .decode .noData false false)) ∧
      (p.noData = false → (∃ o, d.oldest = some o ∧ o ≤ a) →
        (∀ k, row.kind = .channel k → d.mask.getLsbD k = false → c = .trace .noData false 0 false) ∧
        (∀ k, row.kind = .channel k → d.mask.getLsbD k = true → c = traceCell (retainedRecords s p.snap.seg) a b k) ∧
        (∀ l, row.kind = .lane l → c = decodeCell (logAt s p.snap.seg) a b l)))) ∧
  (∀ (r : Record) (rs : List Record) (a b k : Nat), (r :: rs).Pairwise (fun x y => x.time ≤ y.time) → r.time ≤ a → a ≤ b →
    ∀ (n : Nat) (l0 : Bool) (record : Nat → Record), (∀ j, record j = (r :: rs).getD j r) →
    n = ((List.range rs.length).filter fun j => a ≤ (record (j + 1)).time ∧ (record (j + 1)).time < b ∧
      (record (j + 1)).levels.getLsbD k ≠ (record j).levels.getLsbD k).length →
    (∀ j, j ≤ rs.length → (record j).time < a → (∀ j', j < j' → j' ≤ rs.length → a ≤ (record j').time) →
      l0 = (record j).levels.getLsbD k) →
    (a ≤ r.time → l0 = r.levels.getLsbD k) →
    ∃ glitch : Bool,
      traceCell (r :: rs) a b k = .trace (if n = 0 then (if l0 then .high else .low) else
        if n = 1 then (if l0 then .fall else .rise) else .busy) (if n % 2 = 0 then l0 else !l0) (min n 255) glitch ∧
      (glitch = true ↔ ∃ x ∈ r :: rs, a ≤ x.time ∧ x.time < b ∧ x.extra.getLsbD k = true ∧
        (x.kind = .start ∨ x.kind = .change ∨ x.kind = .pod))) ∧
  (∀ (log m : List FrameRecord) (a b l : Nat) (start : Bool), a ≤ b →
    (a < b → m = log.filter fun e => e.lane.val = l ∧ e.start < b ∧ a ≤ e.endTick) → (a = b → m = []) →
    (start = true ↔ ∃ e ∈ log, e.lane.val = l ∧ a ≤ e.start ∧ e.start < b) →
    (m = [] → decodeCell log a b l = .decode .none false start) ∧
    (∀ e, m = [e] → decodeCell log a b l = .decode (if e.code = .good then .good else .error) false start) ∧
    (2 ≤ m.length → ∀ bad : Bool, (bad = true ↔ ∃ e ∈ m, e.code ≠ .good) →
      decodeCell log a b l = .decode .multi bad start))

/-- SET_PANEL, SET_ROW_MAP, SET_PALETTE, SET_BACKLIGHT, FRAME_END and the PWM act on the panel output as their rules say.
SET_PANEL: code above 1 BAD_ARGUMENT; else OK with the state before: ON from OFF starts a frame of the front buffer, OFF
from RUNNING ends scanning and swaps a ready picture to the front, the other two change nothing. SET_ROW_MAP: more than 24
entries, a kind code other than CHANNEL, LANE and BLANK, a channel above 31 or a lane above 5, BAD_ARGUMENT; any other
list is taken whole with heights clamped to 8 to 32. SET_PALETTE: a first entry above 15, no colours or past entry 15
BAD_ARGUMENT; else OK. SET_BACKLIGHT: above 255 BAD_ARGUMENT; else OK with the active level, and the staged level takes
the value. FRAME_END of a scanned frame counts it, swaps a ready picture, copies the written palette and begins the next
frame. PWM_STEP advances the step; at step 255 it, and BACKLIGHT_PERIOD_END, make the staged level active at step 0. The
backlight output is low for level 0, high for 255, and else high for the first level steps. With no frame scanned, as in
OFF, the RGB and sync outputs are 0. BACKLIGHT_PERIOD_END as the step at 255 and nothing otherwise is log 5, FRAME_END
with no frame scanned log 1. -/
def Obligations.PanelCommandsAndSteps : Prop :=
  ∀ (tag : Tag) (code first level : Word) (entries colours : List Word) (s : State),
    (canDispatch s = true →
      (1 < code.toNat → exec (.setPanel tag code) s = .next (answered tag 41 .badArgument [] s)) ∧
      (code = 1 → s.panel.running = false → exec (.setPanel tag code) s = .next (answered tag 41 .ok [0]
        { s with panel := { s.panel with
          running := true
          scan := some ⟨s.view.front, if s.view.front.passNo = 0 then s.panel.rowMap else s.view.front.rows⟩ } })) ∧
      (code = 0 → s.panel.running = true → exec (.setPanel tag code) s = .next (answered tag 41 .ok [1]
        { s with
          panel := { s.panel with running := false, scan := none }
          view := if s.view.ready then { s.view with front := s.view.back, back := s.view.front, ready := false }
            else s.view })) ∧
      (∀ b : Bool, code = flagWord b → s.panel.running = b →
        exec (.setPanel tag code) s = .next (answered tag 41 .ok [flagWord b] s)) ∧
      (24 < entries.length → exec (.setRowMap tag entries) s = .next (answered tag 42 .badArgument [] s)) ∧
      (entries.length ≤ 24 →
        ((∃ w ∈ entries, field w 0 2 = 3 ∨ (field w 0 2 = 0 ∧ 31 < field w 8 8) ∨ (field w 0 2 = 1 ∧ 5 < field w 8 8)) →
          exec (.setRowMap tag entries) s = .next (answered tag 42 .badArgument [] s)) ∧
        (∀ rows : List RowEntry, (∀ w ∈ entries, (field w 0 2 = 0 ∧ field w 8 8 ≤ 31) ∨
            (field w 0 2 = 1 ∧ field w 8 8 ≤ 5) ∨ field w 0 2 = 2) →
          rows = entries.map (fun w => ⟨if field w 0 2 = 0 then .channel (field w 8 8) else
            if field w 0 2 = 1 then .lane (field w 8 8) else .blank, max 8 (min (field w 16 8) 32)⟩) →
          ∃ t : State, exec (.setRowMap tag entries) s = .next { t with
              uplink := (answered tag 42 .ok [word entries.length, word (rowsAbove rows)] s).uplink } ∧
            t.panel = { s.panel with rowMap := rows } ∧
            viewRequested s.view.snapshot { s with panel := { s.panel with rowMap := rows } } t)) ∧
      (15 < first.toNat ∨ colours = [] ∨ 16 < first.toNat + colours.length →
        exec (.setPalette tag first colours) s = .next (answered tag 43 .badArgument [] s)) ∧
      (first.toNat ≤ 15 → colours ≠ [] → first.toNat + colours.length ≤ 16 → ∃ p : Vector (BitVec 16) 16,
        exec (.setPalette tag first colours) s = .next (answered tag 43 .ok [] { s with panel := { s.panel with
          written := p, active := if s.panel.running then s.panel.active else p } }) ∧
        ∀ k : Fin 16, p[k] = if first.toNat ≤ k.val ∧ k.val < first.toNat + colours.length
          then (colours.getD (k.val - first.toNat) 0).truncate 16 else s.panel.written[k]) ∧
      (255 < level.toNat → exec (.setBacklight tag level) s = .next (answered tag 45 .badArgument [] s)) ∧
      (level.toNat ≤ 255 → exec (.setBacklight tag level) s =
        .next (answered tag 45 .ok [s.panel.level.zeroExtend 32]
          { s with panel := { s.panel with staged := level.truncate 8 } }))) ∧
    (s.panel.running = true → s.panel.scan.isSome → ∀ v : View,
      v = (if s.view.ready then { s.view with front := s.view.back, back := s.view.front, ready := false } else s.view) →
      exec .frameEnd s = .next { s with
        view := v
        panel := { s.panel with
          frameCount := s.panel.frameCount + 1, active := s.panel.written
          scan := some ⟨v.front, if v.front.passNo = 0 then s.panel.rowMap else v.front.rows⟩ } }) ∧
    (s.panel.running = false ∨ s.panel.scan = none → exec .frameEnd s = .next s) ∧
    (s.panel.step = 255 →
      exec .pwmStep s = .next { s with panel := { s.panel with level := s.panel.staged, step := 0 } } ∧
      exec .backlightPeriodEnd s = exec .pwmStep s) ∧
    (s.panel.step ≠ 255 →
      exec .pwmStep s = .next { s with panel := { s.panel with step := s.panel.step + 1 } } ∧
      exec .backlightPeriodEnd s = .next s) ∧
    (s.panel.level = 0 → backlight s = false) ∧ (s.panel.level = 255 → backlight s = true) ∧
    (s.panel.level ≠ 0 → s.panel.level ≠ 255 → (backlight s = true ↔ s.panel.step.toNat < s.panel.level.toNat)) ∧
    (s.panel.scan = none → (∀ x y, rgb s x y = 0) ∧ ∀ phase, syncOutputs s phase = 0)

/-- OVERLAY and OVERLAY_FILL write exactly the rectangle's pixels on the panel; a scanned pixel shows overlay, lines, its
row's cell or background. For an overlay plane in canonical form. OVERLAY with another number of pixel words than
ceil(width x height / 8) is answered BAD_LENGTH, OVERLAY_FILL with an index above 15 BAD_ARGUMENT, and nothing is written.
Otherwise the answer is OK with the number of pixels of the rectangle that lie on the panel; each of them has its packed
index, or the index of the fill, every other pixel of the plane reads as before, and nothing else changes. While a frame
is scanned the colour of a pixel is the active palette's at its overlay index if that is not 0; else entry 0 in the label
area (x below 80) and on lines below the drawn rows; else, on a drawn row, entry 13, 14 or 15 where cursor A, cursor B or
the trigger marker stands in its column, in that order; else its cell gives the entry: for a trace cell its glitch line,
middle, low or high line, stroke or band by class and density; for a decode cell its start stroke, middle line, bar or
edged bar by class; background elsewhere and on BLANK rows. Rows, of height 8 or more, lie from line 0 down, each below
the one before; a column the buffer does not hold is NODATA. -/
def Obligations.OverlayWritesItsRectangle : Prop :=
  (∀ (tag : Tag) (xw yw ww hw index : Word) (pixels : List Word) (x y w h cw ch : Nat) (s : State), canDispatch s = true →
    Mem.wf 0 s.panel.overlay = true → x = field xw 0 16 → y = field yw 0 16 → w = field ww 0 16 → h = field hw 0 16 →
    cw = min w (800 - x) → ch = min h (480 - y) →
    (pixels.length ≠ (w * h + 7) / 8 → exec (.overlay tag xw yw ww hw pixels) s =
      .next (placeResponse ⟨tag, typeOverlay, 0, .badLength, []⟩ s)) ∧
    (pixels.length = (w * h + 7) / 8 → ∃ plane : Mem (BitVec 4),
      exec (.overlay tag xw yw ww hw pixels) s = .next (placeResponse ⟨tag, typeOverlay, 0, .ok, [word (cw * ch)]⟩
        { s with panel := { s.panel with overlay := plane } }) ∧
      Mem.wf 0 plane = true ∧
      ∀ px py : Nat, px < 800 → py < 480 → Mem.read 0 plane (800 * py + px) =
        if x ≤ px ∧ px < x + w ∧ y ≤ py ∧ py < y + h
        then (((pixels.getD (((py - y) * w + (px - x)) / 8) 0) >>> (4 * (((py - y) * w + (px - x)) % 8))).truncate 4)
        else Mem.read 0 s.panel.overlay (800 * py + px)) ∧
    (15 < index.toNat → exec (.overlayFill tag xw yw ww hw index) s = .next (answered tag 44 .badArgument [] s)) ∧
    (index.toNat ≤ 15 → ∃ plane : Mem (BitVec 4),
      exec (.overlayFill tag xw yw ww hw index) s = .next (answered tag 44 .ok [word (cw * ch)]
        { s with panel := { s.panel with overlay := plane } }) ∧
      Mem.wf 0 plane = true ∧
      ∀ px py : Nat, px < 800 → py < 480 → Mem.read 0 plane (800 * py + px) =
        if x ≤ px ∧ px < x + w ∧ y ≤ py ∧ py < y + h then index.truncate 4
        else Mem.read 0 s.panel.overlay (800 * py + px))) ∧
  (∀ (s : State) (n : Scan) (x y : Nat) (o : BitVec 4) (colour : Nat → BitVec 16), s.panel.scan = some n → x < 800 →
    y < 480 → o = Mem.read 0 s.panel.overlay (800 * y + x) → (∀ k, colour k = s.panel.active.toList.getD k 0) →
    (o ≠ 0 → rgb s x y = colour o.toNat) ∧
    (o = 0 → x < 80 ∨ (n.rows.map (·.height)).sum ≤ y → rgb s x y = colour 0) ∧
    (∀ (r c top line h : Nat) (row : RowEntry) (cell : Cell), o = 0 → x = 80 + c → n.rows[r]? = some row → h = row.height →
      top = ((n.rows.take r).map (·.height)).sum → y = top + line → line < h → 8 ≤ h →
      cell = ((n.front.cols[c]?).bind (fun cells => cells[r]?)).getD (noDataCell row.kind) →
      (n.front.colA = some c → rgb s x y = colour 13) ∧
      (n.front.colA ≠ some c → n.front.colB = some c → rgb s x y = colour 14) ∧
      (n.front.colA ≠ some c → n.front.colB ≠ some c → n.front.colTrig = some c → rgb s x y = colour 15) ∧
      (n.front.colA ≠ some c → n.front.colB ≠ some c → n.front.colTrig ≠ some c →
        (cell = .blank → rgb s x y = colour 0) ∧
        (∀ cls level density glitch, cell = .trace cls level density glitch →
          (glitch = true → line = 0 → rgb s x y = colour 8) ∧
          (glitch = false ∨ line ≠ 0 → rgb s x y = colour (match cls with
            | .noData => if line = h / 2 then 1 else 0
            | .low => if line + 2 = h then 2 else 0
            | .high => if line = 1 then 3 else 0
            | .rise => if 1 ≤ line ∧ line + 2 ≤ h then 4 else 0
            | .fall => if 1 ≤ line ∧ line + 2 ≤ h then 4 else 0
            | .busy => if 1 ≤ line ∧ line + 2 ≤ h then (if density ≤ 3 then 5 else if density ≤ 15 then 6 else 7) else 0))) ∧
        (∀ cls error start, cell = .decode cls error start →
          (start = true → rgb s x y = colour 12) ∧
          (start = false → rgb s x y = colour (match cls with
            | .noData => if line = h / 2 then 1 else 0
            | .none => 0
            | .good => if 2 ≤ line ∧ line + 3 ≤ h then 9 else 0
            | .error => if 2 ≤ line ∧ line + 3 ≤ h then 10 else 0
            | .multi => if 2 ≤ line ∧ line + 3 ≤ h
                then (if error && (line == 2 || line + 3 == h) then 10 else 11) else 0)))))) 

/-- A header and its payload words make a packet at the queue's tail, a truncated one, or none; stray words raise BAD_PACKET;
the ready line. With RESET_N high. PACKET_ARRIVAL at an idle receiver with fewer than 8 packets queued: a payload of the
header's length joins the tail whole and the receiver is idle; a shorter one leaves the packet in reception; the words of
a longer one past the length are stray and raise BAD_PACKET. With 8 queued the packet is dropped and BAD_PACKET is raised,
a short payload leaving the rest to be dropped. A header that arrives during reception sends the packet received so far to
the tail marked truncated, and where that fills the queue is itself dropped with BAD_PACKET. A payload word at an idle
receiver raises BAD_PACKET, in reception it joins its packet, complete at its length, and while dropping it is dropped. A
packet in reception when a SOFT_RESET took effect is received to its end, or to the next header, and never queued (that
such a header ends it is the model's choice, log 45). With RESET_N low both change nothing. Nothing else changes. The
ready line is high with RESET_N high and fewer than 8 slots held, the packet in reception counted. That the row carries
the header with the payload words that come before the next step is log 34. -/
def Obligations.PacketsAreReceivedIntoTheQueue : Prop :=
  ∀ (header w : Word) (payload : List Word) (n : Nat) (s : State) (bad : Vector EventSet 7), n = headerLength header →
    bad = s.events.set blkLink ((s.events[blkLink]).raise evBadPacket) →
    (s.resetN = false → exec (.packetArrival header payload) s = .next s ∧ exec (.strayPayloadWord w) s = .next s) ∧
    (readyLine s = true ↔ s.resetN = true ∧
      s.uplink.queue.length + (match s.uplink.rx with
        | .receiving _ _ _ => 1
        | .idle => 0
        | .dropping _ => 0) < 8) ∧
    (s.resetN = true →
      (s.uplink.rx = .idle → s.uplink.queue.length < 8 →
        (payload.length = n → exec (.packetArrival header payload) s = .next { s with
          uplink := { s.uplink with queue := s.uplink.queue ++ [⟨header, payload, false⟩] } }) ∧
        (payload.length < n → exec (.packetArrival header payload) s = .next { s with
          uplink := { s.uplink with rx := .receiving header payload false } }) ∧
        (n < payload.length → exec (.packetArrival header payload) s = .next { s with
          uplink := { s.uplink with queue := s.uplink.queue ++ [⟨header, payload.take n, false⟩] }
          events := bad })) ∧
      (s.uplink.rx = .idle → 8 ≤ s.uplink.queue.length →
        (n ≤ payload.length → exec (.packetArrival header payload) s = .next { s with events := bad }) ∧
        (payload.length < n → exec (.packetArrival header payload) s = .next { s with
          uplink := { s.uplink with rx := .dropping (n - payload.length) }, events := bad })) ∧
      (∀ (h : Word) (words : List Word), s.uplink.rx = .receiving h words false →
        (s.uplink.queue.length < 7 → payload.length = n →
          exec (.packetArrival header payload) s = .next { s with uplink := { s.uplink with
            rx := .idle, queue := s.uplink.queue ++ [⟨h, words, true⟩, ⟨header, payload, false⟩] } }) ∧
        (7 ≤ s.uplink.queue.length → payload.length = n →
          exec (.packetArrival header payload) s = .next { s with
            uplink := { s.uplink with rx := .idle, queue := s.uplink.queue ++ [⟨h, words, true⟩] }, events := bad })) ∧
      (∀ (h : Word) (words : List Word) (k : Nat), s.uplink.queue.length < 8 → payload.length = n →
        s.uplink.rx = .receiving h words true ∨ s.uplink.rx = .dropping k →
        exec (.packetArrival header payload) s = .next { s with uplink := { s.uplink with
          rx := .idle, queue := s.uplink.queue ++ [⟨header, payload, false⟩] } }) ∧
      (s.uplink.rx = .idle → exec (.strayPayloadWord w) s = .next { s with events := bad }) ∧
      (∀ k : Nat, s.uplink.rx = .dropping (k + 1) → exec (.strayPayloadWord w) s = .next { s with
        uplink := { s.uplink with rx := if k = 0 then .idle else .dropping k } }) ∧
      (∀ (h : Word) (words : List Word) (doomed : Bool), s.uplink.rx = .receiving h words doomed →
        (words.length + 1 < headerLength h → exec (.strayPayloadWord w) s = .next { s with
          uplink := { s.uplink with rx := .receiving h (words ++ [w]) doomed } }) ∧
        (words.length + 1 = headerLength h → exec (.strayPayloadWord w) s = .next { s with uplink := { s.uplink with
          rx := .idle, queue := if doomed then s.uplink.queue else s.uplink.queue ++ [⟨h, words ++ [w], false⟩] } })))

/-- CLEAR_EVENTS clears the named events, SET_ENABLES takes the enable mask, and the notice-due flag follows. Both commands: a
block code above 6, or a mask with a bit beyond the block's 20, 5, 3, 24, 1, 2 or 1 events, is answered BAD_ARGUMENT and
changes nothing but the response slot; otherwise the command is taken in every state. CLEAR_EVENTS: each named event is
clear, the others and the enables are as they were, the notice-due flag is clear when no event set and enabled remains and
else as it was, and the answer is OK with the event set after the command. An event raised afterwards is set, and with it,
when clear before and enabled, the flag. SET_ENABLES: the enable set is the mask, the events are as they were, the
notice-due flag is clear when no pending event remains, set when an event set and newly enabled is pending, else as it
was, and the answer is OK with the enable set before. Every other block's events are unchanged. ATTN is high exactly when
RESET_N is high and some block holds an event that is set and enabled. -/
def Obligations.EventsAreClearedAndEnabled : Prop :=
  ∀ (tag : Tag) (block mask : Word) (s : State), canDispatch s = true →
    (6 < block.toNat →
      exec (.clearEvents tag block mask) s = .next (answered tag 47 .badArgument [] s) ∧
      exec (.setEnables tag block mask) s = .next (answered tag 48 .badArgument [] s)) ∧
    (∀ (b : Fin 7) (e : EventSet) (n : Nat), block.toNat = b.val → e = s.events[b] →
      n = [20, 5, 3, 24, 1, 2, 1].getD b.val 0 →
      (2 ^ n ≤ mask.toNat →
        exec (.clearEvents tag block mask) s = .next (answered tag 47 .badArgument [] s) ∧
        exec (.setEnables tag block mask) s = .next (answered tag 48 .badArgument [] s)) ∧
      (mask.toNat < 2 ^ n →
        (∃ e' : EventSet, exec (.clearEvents tag block mask) s =
            .next (answered tag 47 .ok [e'.events] { s with events := s.events.set b e' }) ∧
          e'.enables = e.enables ∧
          (∀ k : Nat, e'.events.getLsbD k = (e.events.getLsbD k && !mask.getLsbD k)) ∧
          (e'.events &&& e'.enables = 0 → e'.due = false) ∧ (e'.events &&& e'.enables ≠ 0 → e'.due = e.due) ∧
          (∀ m : Word, (e'.raise m).events = e'.events ||| m ∧
            (m &&& ~~~e'.events &&& e'.enables ≠ 0 → (e'.raise m).due = true))) ∧
        (∃ e' : EventSet, exec (.setEnables tag block mask) s =
            .next (answered tag 48 .ok [e.enables] { s with events := s.events.set b e' }) ∧
          e'.enables = mask ∧ e'.events = e.events ∧
          (e.events &&& mask = 0 → e'.due = false) ∧
          (∀ k : Nat, e.events.getLsbD k = true → e.enables.getLsbD k = false → mask.getLsbD k = true → e'.due = true) ∧
          (e.events &&& mask ≠ 0 → e.events &&& mask &&& ~~~e.enables = 0 → e'.due = e.due)))) ∧
    (attn s = true ↔ s.resetN = true ∧ ∃ (b : Fin 7) (k : Nat),
      (s.events[b]).events.getLsbD k = true ∧ (s.events[b]).enables.getLsbD k = true)

/-- The transmitter grants a RESPONSE, NOTICE, FRAMES, MEASURE, RECORDS or COLUMNS packet, the first ready, with its words,
and frees the source when sent. With RESET_N high and the link free, TRANSMIT_GRANT sends the first ready of: the waiting
RESPONSE; the NOTICE of the first block after the pointer, cyclically, whose flag is set, which is cleared, the pointer
naming it; FRAMES, of the stream or of a readout with a packet ready, by the FRAMES turn when both are: as many whole
records as fit 1,022 words; a MEASURE result that waits; RECORDS of a record readout with 255 records held or none left to
read; COLUMNS, the row from the front buffer, without cells for a BLANK row, one the buffer does not hold, or no row to
send. Each packet is a header word of length, tag and type, and its payload; a record takes 4 words, a frame record the
bytes of section 11.6 from its head word to its data, padded with 0 to whole words, byte 0 of a word least significant,
and a cell 16 bits, the even column in the low half. With nothing to send it changes nothing. UPSTREAM_PACKET_SENT frees
the link, and with it the response slot, the measurement, or at a final packet the readout, READ_DONE being raised for
records. With the link busy or RESET_N low TRANSMIT_GRANT changes nothing, with no packet on the link UPSTREAM_PACKET_SENT
nothing (log 1). A frame readout is ready at its end, or when the log's next matching entry does not fit (log 26); that
frame records count as sent when their packet is formed, and that a COLUMNS packet for no row to send carries the
command's first row and kind BLANK, are the model's choice too (log 22). -/
def Obligations.TransmitterGrantsInOrder : Prop :=
  ∀ (s : State) (head : Nat → Tag → List Word → List Word),
    (∀ type tag ws, head type tag ws = word (ws.length % 1024 + tag.toNat * 65536 + type * 16777216) :: ws) →
    (s.resetN = false ∨ s.uplink.tx.isSome → exec .transmitGrant s = .next s) ∧
    (s.resetN = true → s.uplink.tx = none → ∀ sends : List Word → TxSource → State → Prop,
      (∀ ws source t, sends ws source t ↔
        exec .transmitGrant s = .next { t with uplink := { t.uplink with tx := some ⟨ws, source⟩ } }) →
      (∀ r : Response, s.uplink.slot = some r →
        sends (head 8 r.tag (word (r.code.toNat + r.rc.code * 256 + r.ptype.toNat * 4096) :: r.words)) .response s) ∧
      (s.uplink.slot = none →
        (∀ b : Fin 7, (s.events[b]).due = true →
          (∀ c : Fin 7, (s.events[c]).due = true →
            (b.val + 6 - s.uplink.noticePtr.val) % 7 ≤ (c.val + 6 - s.uplink.noticePtr.val) % 7) →
          sends (head 9 0 [word b.val, (s.events[b]).events, (s.events[b]).enables]) .notice { s with
            events := s.events.set b { s.events[b] with due := false }
            uplink := { s.uplink with noticePtr := b } }) ∧
        ((∀ b : Fin 7, (s.events[b]).due = false) →
          (∀ r : FrameReadout, r.packetReady (logAt s r.seg) = true ↔ r.finalSent = false ∧ (r.ended = true ∨
            ∃ e, (logAt s r.seg)[r.pos]? = some e ∧ r.mask.getLsbD e.lane = true ∧ r.fromTick ≤ e.start ∧
              (fitFrames 1022 (r.held ++ [e])).length ≤ r.held.length)) ∧
          (s.rpath.stream ≠ [] → s.rpath.turnReadout = false ∨
              (∀ r, s.rpath.readout = some r → r.packetReady (logAt s r.seg) = false) →
            ∃ n : Nat, n ≤ s.rpath.stream.length ∧ ((s.rpath.stream.take n).map frameWordCount).sum ≤ 1022 ∧
              (n < s.rpath.stream.length → 1022 < ((s.rpath.stream.take (n + 1)).map frameWordCount).sum) ∧
              sends (head 11 0 (word (n % 256 * 65536) :: (s.rpath.stream.take n).flatMap frameWords)) .stream
                { s with rpath := { s.rpath with stream := s.rpath.stream.drop n, turnReadout := true } }) ∧
          (∀ r, s.rpath.readout = some r → r.packetReady (logAt s r.seg) = true →
            s.rpath.stream = [] ∨ s.rpath.turnReadout = true →
            ∃ n : Nat, n ≤ r.held.length ∧ ((r.held.take n).map frameWordCount).sum ≤ 1022 ∧
              (n < r.held.length → 1022 < ((r.held.take (n + 1)).map frameWordCount).sum) ∧
              sends (head 11 r.tag (word (1 + r.seg % 256 * 256 + n % 256 * 65536 + r.ended.toNat * 2147483648) ::
                  (r.held.take n).flatMap frameWords)) (.frames r.ended)
                { s with rpath := { s.rpath with
                  turnReadout := false
                  readout := some { r with held := r.held.drop n, sent := r.sent + n, finalSent := r.ended } } }) ∧
          (s.rpath.stream = [] → (∀ r, s.rpath.readout = some r → r.packetReady (logAt s r.seg) = false) →
            (∀ (tag : Tag) (r : MeasureResult), s.view.meas = .waiting tag r →
              sends (head 13 tag (word (r.highPulse.isSome.toNat + r.lowPulse.isSome.toNat * 2 + r.overtaken.toNat * 4) ::
                ([r.rises, r.falls, r.high, r.low, (r.highPulse.getD (0, 0)).1, (r.highPulse.getD (0, 0)).2,
                  (r.lowPulse.getD (0, 0)).1, (r.lowPulse.getD (0, 0)).2].flatMap timeWords))) .measure s) ∧
            ((∀ tag r, s.view.meas ≠ .waiting tag r) →
              (∀ r, s.capture.readout = some r → r.finalSent = false → r.remaining = 0 ∨ 255 ≤ r.held.length →
                sends (head 10 r.tag (word (r.seg % 256 + (decide (r.remaining = 0)).toNat * 2147483648) :: word r.first ::
                    word r.held.length :: r.held.flatMap recordWords)) (.records (decide (r.remaining = 0)))
                  { s with capture := { s.capture with readout := some { r with
                    first := r.first + r.held.length, held := [], finalSent := decide (r.remaining = 0) } } }) ∧
              ((∀ r, s.capture.readout = some r → r.finalSent = true ∨ (r.remaining ≠ 0 ∧ r.held.length < 255)) →
                (∀ (c : ColumnReadout) (kind : RowKind) (cells : List Cell), s.view.columns = some c →
                  c.finalSent = false →
                  (c.left = 0 ∨ s.view.front.rows[c.next]? = none → kind = .blank) →
                  (∀ e, c.left ≠ 0 → s.view.front.rows[c.next]? = some e → kind = e.kind) →
                  cells = (if kind = .blank then [] else s.view.front.cols.map fun x => x.getD c.next .blank) →
                  sends (head 12 c.tag (word (c.next % 32 + kind.code * 32 + (decide (c.left ≤ 1)).toNat * 2147483648) ::
                      s.view.front.passNo :: packCells cells)) (.columns (decide (c.left ≤ 1)))
                    { s with view := { s.view with columns := some { c with
                      next := c.next + 1, left := c.left - 1, finalSent := decide (c.left ≤ 1) } } }) ∧
                ((∀ c, s.view.columns = some c → c.finalSent = true) → exec .transmitGrant s = .next s))))))) ∧
    (∀ r : Record, recordWords r = [word (r.kind.code + r.pods.toNat * 16 + r.time % 2 ^ 48 / 2 ^ 32 * 65536),
      word r.time, r.levels, r.extra]) ∧
    -- a frame record and a row of cells
    (∀ (r : FrameRecord) (top : Nat) (byte : Nat → Nat → Byte) (bytes : List Byte),
      (∀ x k, byte x k = BitVec.ofNat 8 (x / 256 ^ k)) →
      top = r.lane.val + r.isReplay.toNat * 8 + r.tag % 16 * 16 + r.code.code * 256 + r.truncated.toNat * 2048 +
        r.fields.length % 32 * 4096 + r.data.length % 128 * 131072 + r.droppedBefore % 256 * 16777216 →
      bytes = (List.range 4).map (byte top) ++ (List.range 6).map (byte r.start) ++ (List.range 6).map (byte r.endTick) ++
        [byte r.units 0, byte r.units 1, 0, 0] ++
        r.fields.flatMap (fun f => byte f.1 0 :: (List.range 4).map (byte f.2.toNat)) ++ r.data →
      frameWordCount r = (bytes.length + 3) / 4 ∧ (frameWords r).length = frameWordCount r ∧
      ∀ j k, j < frameWordCount r → k < 4 →
        BitVec.ofNat 8 (((frameWords r).getD j 0).toNat / 256 ^ k) = bytes.getD (4 * j + k) 0) ∧
    (∀ (cells : List Cell) (bits : Nat → Nat),
      (∀ k, bits k = match cells[k]? with
        | some (.trace cls level density glitch) => (match cls with
            | .noData => 0
            | .low => 1
            | .high => 2
            | .rise => 3
            | .fall => 4
            | .busy => 5) + level.toNat * 8 + glitch.toNat * 16 + density % 256 * 256
        | some (.decode cls error start) => (match cls with
            | .noData => 0
            | .none => 1
            | .good => 2
            | .error => 3
            | .multi => 4) + error.toNat * 32 + start.toNat * 64
        | _ => 0) →
      (packCells cells).length = (cells.length + 1) / 2 ∧
      ∀ j, 2 * j < cells.length → (packCells cells)[j]? = some (word (bits (2 * j) + bits (2 * j + 1) * 65536))) ∧
    [FrameCode.good, .short, .long, .check, .timeout, .framing, .abandoned].map (·.code) = [0, 1, 2, 3, 4, 5, 6] ∧
    [RowKind.channel 0, .lane 0, .blank].map (·.code) = [0, 1, 2] ∧
    [RecordKind.start, .change, .pod, .overrun, .close].map (·.code) = [0, 1, 2, 3, 4] ∧
    (s.uplink.tx = none → exec .upstreamPacketSent s = .next s) ∧
    (∀ (ws : List Word) (t : State), t = { s with uplink := { s.uplink with tx := none } } →
      (s.uplink.tx = some ⟨ws, .response⟩ → s.uplink.resetPending = false →
        exec .upstreamPacketSent s = .next { t with uplink := { t.uplink with slot := none } }) ∧
      (∀ src : TxSource, src = .notice ∨ src = .stream ∨ src = .frames false ∨ src = .records false ∨
        src = .columns false → s.uplink.tx = some ⟨ws, src⟩ → exec .upstreamPacketSent s = .next t) ∧
      (s.uplink.tx = some ⟨ws, .measure⟩ →
        exec .upstreamPacketSent s = .next { t with view := { t.view with meas := .none } }) ∧
      (s.uplink.tx = some ⟨ws, .frames true⟩ →
        exec .upstreamPacketSent s = .next { t with rpath := { t.rpath with readout := none } }) ∧
      (s.uplink.tx = some ⟨ws, .records true⟩ → exec .upstreamPacketSent s = .next { t with
        capture := { t.capture with readout := none }
        events := t.events.set blkCapture ((t.events[blkCapture]).raise evReadDone) }) ∧
      (s.uplink.tx = some ⟨ws, .columns true⟩ →
        exec .upstreamPacketSent s = .next { t with view := { t.view with columns := none } }))

/-- SOFT_RESET takes effect when its RESPONSE is sent and keeps what the spec keeps; power-on reset leaves the power-on
values. SOFT_RESET answers OK and sets reset pending; while it is pending, or a RESPONSE waits, or RESET_N is low,
PACKET_DISPATCH and every command that a packet carries change nothing (log 1). When that RESPONSE has been sent the whole
state is given. Kept: each pod link (state, kind, lock run, training word count, bad-frame run, shadow code, step and
confirmation, acknowledge wait, held levels, due ticks) but for its glitch width of 0, the delay lines, the wall clock,
its correction with interval count and withheld counts, the latest level-stream sample, the panel state, backlight level,
staged level and PWM step, the frame being scanned and, while the panel is RUNNING, its active palette, the DRAM (log 8)
and a TRIG_OUT pulse. At their reset values: deskew, glitch qualification and accumulator, the rest of the timebase,
capture store, sequencer, tables, lanes, record path, view engine, row map, palette, overlay and frame count; every event,
enable and notice-due flag is clear, the input queue, the response slot and the transmitter are empty, the NOTICE pointer
names LINK, reset pending is clear, a packet in reception is marked for discard and ATTN is low. POWER_ON_RESET releases
RESET_N and leaves every block at its reset value, but the presence sense (log 25) and the DRAM (log 8), which it keeps.
RESET_N_ASSERTED silences the upstream half, the ready line and ATTN and keeps every block but the panel's scan (log 24). -/
def Obligations.ResetsLeaveTheirValues : Prop :=
  ∀ (tag : Tag) (s : State),
    (canDispatch s = true → exec (.softReset tag) s = .next (answered tag 51 .ok []
      { s with uplink := { s.uplink with resetPending := true } })) ∧
    (s.uplink.resetPending = true ∨ s.uplink.slot.isSome ∨ s.resetN = false →
      exec .packetDispatch s = .next s ∧
      ∀ (i : Instr) (p : Packet), encodePacket i = some p → exec i s = .next s) ∧
    (∀ ws : List Word, s.uplink.tx = some ⟨ws, .response⟩ → s.uplink.resetPending = true →
      ∀ (links : Vector PodLink 4) (rx : Receiver) (active : Vector (BitVec 16) 16),
        (∀ p : Pod, links[p] = { s.pods.links[p] with glitchWidth := 0 }) →
        (∀ (h : Word) (words : List Word) (d : Bool), s.uplink.rx = .receiving h words d → rx = .receiving h words true) →
        ((∀ (h : Word) (words : List Word) (d : Bool), s.uplink.rx ≠ .receiving h words d) → rx = s.uplink.rx) →
        active = (if s.panel.running then s.panel.active else Panel.defaultPalette) →
        ∀ t : State, t = { State.reset with
            pending := s.pending
            resetN := s.resetN
            pods := { Pods.reset with links := links, window := s.pods.window }
            time := { Timebase.reset with
              last := s.time.last, seconds := s.time.seconds, subsecond := s.time.subsecond, corrDir := s.time.corrDir
              corrAmount := s.time.corrAmount, corrLong := s.time.corrLong, intervalCount := s.time.intervalCount
              withheld := s.time.withheld }
            capture := { Capture.reset with dram := s.capture.dram }
            trigger := { Trigger.reset with trigOut := s.trigger.trigOut }
            panel := { Panel.reset with
              running := s.panel.running, active := active, level := s.panel.level, staged := s.panel.staged
              step := s.panel.step, scan := s.panel.scan }
            uplink := { Uplink.reset with rx := rx } } →
          exec .upstreamPacketSent s = .next t ∧ attn t = false) ∧
    (∃ links : Vector PodLink 4, exec .powerOnReset s = .next { State.reset with
        pending := s.pending, pods := { Pods.reset with links := links }
        capture := { Capture.reset with dram := s.capture.dram } } ∧
      ∀ p : Pod, links[p] = if (s.pods.links[p]).sensed
        then { PodLink.reset with sensed := true, state := .training, sending := .trainRequest } else PodLink.reset) ∧
    (∀ t : State, t = { s with
        resetN := false, uplink := { s.uplink with tx := none }, panel := { s.panel with scan := none } } →
      exec .resetNAsserted s = .next t ∧ attn t = false ∧ readyLine t = false)

/-- Every status command answers OK with its words, stated item by item, and changes nothing but the response slot.
CAPTURE_STATUS, TIMEBASE_STATUS, TRIGGER_STATUS, TABLE_STATUS, RECORD_PATH_STATUS, VIEW_STATUS, PANEL_STATUS, EVENT_STATUS
and IDENTIFY answer OK in every state with the words given here and change nothing but the response slot. READ_SEGMENT of
a segment not below the layout count and LANE_STATUS of a lane above 5 are answered BAD_ARGUMENT; otherwise OK with the
descriptor's 31 words, and with the lane's words: state, source, flag, error count, the open frame's start, units, tag and
bits, the extraction position and the replay context. IDENTIFY reports 0x0157, 4832, 1, the pods' kinds, 8 and 1,023. An
absent item is a presence word 0 and zeros (R212). The order and place of the words of those RESPONSEs that section 11.2
does not lay out are the model's (log 22), a row map entry of PANEL_STATUS among them, as is the code of the sampling
state (log 23). -/
def Obligations.StatusCommandsReport : Prop :=
  ∀ (tag : Tag) (i : Word) (s : State) (flag : Bool → Word) (time : Nat → List Word) (opt : Option Nat → List Word)
    (optTime : Option Nat → List Word), canDispatch s = true → (∀ b, flag b = if b then 1 else 0) →
    (∀ n, time n = [BitVec.ofNat 32 n, BitVec.ofNat 32 (n % 2 ^ 48 / 2 ^ 32)]) →
    (opt none = [0, 0]) → (∀ n, opt (some n) = [1, BitVec.ofNat 32 n]) →
    (optTime none = [0, 0, 0]) → (∀ n, optTime (some n) = 1 :: time n) →
    exec (.captureStatus tag) s = .next (answered tag 17 .ok ([s.capture.ctl.code] ++
      (match s.capture.ctl with
        | .capturing k => [1, word k]
        | .idle => [0, 0]
        | .monitor => [0, 0]
        | .closing => [0, 0]) ++
      [word s.capture.layout, s.capture.stored.mask, word s.capture.stored.count, word s.capture.stored.prefill,
        word s.capture.stored.postfill, flag s.capture.stored.hold, flag s.capture.stored.auto,
        word s.capture.queue.length,
        (match s.capture.ctl with
          | .capturing k => flag (decide (s.capture.inForce.prefill ≤ (segAt s k).written))
          | .idle => 0
          | .monitor => 0
          | .closing => 0)] ++
      (match s.capture.readout with
        | none => [0, 0, 0, 0]
        | some r => [1, word r.seg, word r.next, word r.remaining]) ++ [word s.capture.rotation.code]) s) ∧
    exec (.timebaseStatus tag) s = .next (answered tag 7 .ok
      ([word s.time.divider, s.time.mode.code, word s.time.clockChan, s.time.clockEdge.code, s.time.qMask, s.time.qValue,
        flag s.time.sampling] ++ optTime s.time.tick ++
      [s.time.seconds, word s.time.subsecond, s.time.corrDir.code, word s.time.corrAmount, flag s.time.corrLong,
        word s.time.intervalCount, word s.time.withheld, word s.time.rollPeriod]) s) ∧
    exec (.triggerStatus tag) s = .next (answered tag 23 .ok
      ([s.trigger.state.code, word s.trigger.stage, word s.trigger.stages.length] ++
      (match s.trigger.armTime with
        | none => [0, 0]
        | some w => [1, w]) ++ [flag s.trigger.force] ++
      s.trigger.counters.toList.flatMap (fun c => [c.value, flag c.running, flag c.hold, c.source.code, c.active, c.staged,
        flag c.matched, flag c.latch, flag c.suppress]) ++
      [word s.trigger.divX.ratio, word s.trigger.divX.phase, word s.trigger.divY.ratio, word s.trigger.divY.phase] ++
      ([0, 1, 2, 3] : List (Fin 4)).flatMap (fun k => [flag (s.trigger.comps[k]).isSome,
        ((s.trigger.comps[k]).map (fun c => word c.lane.val)).getD 0] ++ optTime s.trigger.latches[k])) s) ∧
    exec (.tableStatus tag) s = .next (answered tag 25 .ok
      ([word s.tables.free.entries, word s.tables.free.branches, word s.tables.free.checks] ++
      s.tables.slots.toList.flatMap (fun x => match x.table with
        | none => [0, 0, 0, 0, 0, 0, 0]
        | some t => [1, t.front.code, t.channelMask, t.check.kind.code, word x.charge.entries, word x.charge.branches,
            word x.charge.checks])) s) ∧
    exec (.recordPathStatus tag) s = .next (answered tag 32 .ok
      ([s.rpath.mask.zeroExtend 32, word s.rpath.stream.length] ++ s.rpath.dropped.toList.map word ++
      [word s.rpath.logQueue.length, flag s.rpath.turnReadout] ++
      (match s.rpath.readout with
        | none => [0, 0, 0, 0, 0, 0, 0]
        | some r => [1, word r.seg, r.mask.zeroExtend 32] ++ time r.fromTick ++ [word r.sent, word (r.remaining.getD 0)])) s) ∧
    (∀ shown : Snapshot → List Word, (∀ n, shown n = [word n.seg] ++ time n.t0 ++ time n.q ++ [flag n.roll] ++
        optTime n.cursorA ++ optTime n.cursorB) →
      exec (.viewStatus tag) s = .next (answered tag 40 .ok
        (shown ⟨s.view.seg, s.view.t0, s.view.q, s.view.roll, s.view.cursorA, s.view.cursorB⟩ ++
        [flag s.view.pending.isSome] ++ opt (s.view.pass.map (·.col)) ++ [flag s.view.ready, s.view.front.passNo] ++
        (match s.view.front.snap with
          | none => List.replicate 13 0
          | some n => 1 :: shown n) ++ [s.view.meas.code, flag s.view.columns.isSome]) s)) ∧
    exec (.panelStatus tag) s = .next (answered tag 46 .ok
      ([flag s.panel.running, s.panel.frameCount, s.panel.level.zeroExtend 32, s.panel.staged.zeroExtend 32,
        s.panel.step.zeroExtend 32] ++
      s.panel.rowMap.map (fun r => word (r.height * 65536 + match r.kind with
        | .channel k => k * 256
        | .lane l => l * 256 + 1
        | .blank => 2)) ++ [word (rowsAbove s.panel.rowMap)] ++
      s.panel.written.toList.map (fun c => c.zeroExtend 32)) s) ∧
    exec (.eventStatus tag) s = .next (answered tag 49 .ok
      (([0, 1, 2, 3, 4, 5, 6] : List (Fin 7)).flatMap (fun b => [(s.events[b]).events, (s.events[b]).enables,
        flag (s.events[b]).due]) ++ [word s.uplink.noticePtr.val, flag (attn s)]) s) ∧
    exec (.identify tag) s = .next (answered tag 50 .ok [343, 4832, 1, (s.pods.links[(0 : Pod)]).kind.code,
      (s.pods.links[(1 : Pod)]).kind.code, (s.pods.links[(2 : Pod)]).kind.code, (s.pods.links[(3 : Pod)]).kind.code,
      8, 1023] s) ∧
    (s.capture.layout ≤ i.toNat → exec (.readSegment tag i) s = .next (answered tag 15 .badArgument [] s)) ∧
    (∀ (d : Segment) (two : Option Nat → List Word), i.toNat < s.capture.layout → d = segAt s i.toNat →
      (∀ o, two o = time (o.getD 0)) → ∃ w0 : Word,
      exec (.readSegment tag i) s = .next (answered tag 15 .ok ([w0, word d.size, word d.retained] ++ time d.startTime ++
        two d.endTime ++ two d.oldest ++ two d.newest ++
        (match d.trigger with
          | none => [0, 0, 0, 0, 0, 0, 0, 0]
          | some f => time f.time ++ [f.cause.code, f.wall] ++ f.counters.toList) ++
        [word (d.trigIndex.getD 0), d.wallStart] ++ time d.produced ++ time d.written ++ time d.lost ++
        [word d.postCount, d.mask, word d.divider, word (logAt s i.toNat).length]) s) ∧
      (i.toNat < 256 → field w0 0 8 = i.toNat ∧ field w0 8 3 = d.state.code ∧
        ∀ k b, (k, b) ∈ [(11, d.closeStopped), (16, d.flags.wrapped), (17, d.flags.overrun), (18, d.flags.podFault),
          (19, d.flags.timeLimit), (20, d.flags.logOverflow), (21, d.flags.triggerTrimmed), (24, decide (d.mode = .state)),
          (25, d.endTime.isSome), (26, d.oldest.isSome), (27, d.newest.isSome), (28, d.trigger.isSome),
          (29, d.trigIndex.isSome)] → w0.getLsbD k = b)) ∧
    (5 < i.toNat → exec (.laneStatus tag i) s = .next (answered tag 29 .badArgument [] s)) ∧
    (∀ (l : LaneId) (ln : Lane), i.toNat = l.val → ln = s.lanes[l] → exec (.laneStatus tag i) s = .next (answered tag 29 .ok
      ([ln.state.code, flag ln.isReplay, flag ln.resync, word ln.errors] ++
      (match ln.frame with
        | none => [0, 0, 0, 0, 0, 0]
        | some f => [1] ++ time f.start ++ [word f.units, word f.tag, word ln.gatherer.length]) ++
      [word ln.pos.entry] ++ opt ln.pos.left ++
      (match ln.replay with
        | none => [0, 0, 0, 0, 0, 0, 0]
        | some r => [1, word r.seg] ++ time r.nextTick ++ time r.toTick ++ [flag r.store])) s))

/-- PACKET_DISPATCH of a command's packet completes as that command's own step; the six cases of R199 discard with their code.
For every well-formed command carried by a packet, with every argument at every value: the Uplink judges the packet to be
that command, and with it at the head of the input queue, RESET_N high, the response slot empty and no reset pending,
PACKET_DISPATCH answers a next state, the one the command's own step gives on the rest of the queue, with the RESPONSE of
that tag, type and code in the slot and the packet gone. BAD_LENGTH, with BAD_PACKET raised and the packet gone: a
truncated packet; a COMMAND or TABLE of length 0; a TRIGGER_PROGRAM of fewer than 2 words or a FRAME_TABLE of fewer than
13; a COMMAND with another number of arguments than its layout has, or a list of another length than its count says; an
OVERLAY of fewer than 4 words. UNKNOWN_COMMAND likewise: a type other than COMMAND, TABLE and OVERLAY; a command code 0 or
above 51; another table kind. The code word of such a RESPONSE, and a LANE_STOP of another kind answered BAD_ARGUMENT, are
log 32; that an empty queue changes nothing is log 1. -/
def Obligations.PacketsDispatchTheirCommands : Prop :=
  (∀ (i : Instr) (p : Packet) (rest : List Packet) (s s1 : State), i.wf = true → encodePacket i = some p →
    s1 = { s with uplink := { s.uplink with queue := rest } } →
    judgePacket p = .command i ∧
    (canDispatch s = true → s.uplink.queue = p :: rest →
      ∃ (t : State) (r : Response), exec .packetDispatch s = .next t ∧ exec i s1 = .next t ∧ t = takeCommand i s1 ∧
        t.uplink.queue = rest ∧ t.uplink.slot = some r ∧ r.tag = headerTag p.header ∧ r.ptype = headerType p.header ∧
        r.code = p.code)) ∧
  (∀ (p : Packet) (rest : List Packet) (rc : RespCode) (s : State) (type : BitVec 4) (counts : List Nat),
    canDispatch s = true → s.uplink.queue = p :: rest → type = headerType p.header →
    counts = [99, 3, 1, 99, 2, 1, 6, 0, 1, 3, 1, 6, 0, 0, 0, 1, 3, 0, 0, 2, 2, 2, 0, 0, 1, 0, 1, 2, 7, 1, 1, 5, 0, 6, 3, 1, 0, 4,
      6, 2, 0, 1, 99, 99, 5, 1, 0, 2, 2, 0, 0, 0] →
    (p.truncated = true ∧ rc = .badLength) ∨
      (p.truncated = false ∧ rc = .unknownCommand ∧
        ((type ≠ 1 ∧ type ≠ 2 ∧ type ≠ 3) ∨
          (type = 1 ∧ ∃ (w : Word) (args : List Word), p.payload = w :: args ∧ (field w 0 8 = 0 ∨ 51 < field w 0 8)) ∨
          (type = 2 ∧ ∃ (kind : Word) (ws : List Word), p.payload = kind :: ws ∧ kind ≠ 0 ∧ kind ≠ 1))) ∨
      (p.truncated = false ∧ rc = .badLength ∧
        ((type = 1 ∧ p.payload = []) ∨ (type = 2 ∧ p.payload = []) ∨
          (type = 2 ∧ p.payload = [0]) ∨ (type = 2 ∧ p.payload.head? = some 1 ∧ p.payload.length < 13) ∨
          (type = 3 ∧ p.payload.length < 4) ∨
          (type = 1 ∧ ∃ (w : Word) (args : List Word) (c : Nat), p.payload = w :: args ∧ c = field w 0 8 ∧
            ((1 ≤ c ∧ c ≤ 51 ∧ c ≠ 3 ∧ c ≠ 42 ∧ c ≠ 43 ∧ args.length ≠ counts.getD c 99) ∨
              (c = 42 ∧ args = []) ∨ ((c = 3 ∨ c = 43) ∧ args.length < 2) ∨
              (∃ (n : Word) (values : List Word), c = 42 ∧ args = n :: values ∧ values.length ≠ n.toNat) ∨
              (∃ (a n : Word) (values : List Word), (c = 3 ∨ c = 43) ∧ args = a :: n :: values ∧
                values.length ≠ n.toNat))))) →
    exec .packetDispatch s = .next { s with
      uplink := { s.uplink with queue := rest, slot := some ⟨headerTag p.header, type, p.code, rc, []⟩ }
      events := s.events.set blkLink ((s.events[blkLink]).raise evBadPacket) }) ∧
  (∀ (p : Packet) (rest : List Packet) (s : State) (w lane kind : Word), canDispatch s = true →
    s.uplink.queue = p :: rest → p.truncated = false → headerType p.header = 1 → p.payload = [w, lane, kind] →
    field w 0 8 = 27 → 2 ≤ kind.toNat →
    exec .packetDispatch s = .next { s with uplink := { s.uplink with
      queue := rest, slot := some ⟨headerTag p.header, 1, 27, .badArgument, []⟩ } }) ∧
  (∀ p : Packet, p.code = match p.payload with
    | [] => 0
    | w :: _ => if headerType p.header = 1 ∨ headerType p.header = 2 then w.truncate 8 else 0) ∧
  (∀ s : State, s.uplink.queue = [] → exec .packetDispatch s = .next s)

/-- The state after power-on reset meets the three invariants and every lane is OFF. State.reset meets the invariants of the
decode side (pool balanced, lanes in form with tables), of the capture store (settings, layout, controller, sampling and
sequencer agree) and of the stores (canonical memories, bounded queues, notices, and the wall clock, pod links, deskew,
viewport, row map and dividers in range), and every lane is OFF. -/
def Obligations.ResetMeetsTheInvariants : Prop :=
  decodeInForm State.reset ∧ captureInForm State.reset ∧ storesInForm State.reset ∧ allLanesOff State.reset

/-- Every step keeps the decode pool balanced and the lanes in form. From every state in which the free amounts and the six
charge records sum to the pool of 96, 12 and 4, each slot records its table's charge, every lane not OFF has a table, a
frame is open exactly in IN_FRAME and DRAINING, every error count is 0, 1 or 2, every replaying lane has its context and
open frames hold at most 64 data bytes and 65,535 units: a step that answers a next state leaves all of it so. -/
def Obligations.EveryStepKeepsTheDecodeSideInForm : Prop :=
  ∀ s t : State, decodeInForm s → step s = .next t → decodeInForm t

/-- Every step keeps the capture store in form, and no step from a state in form stops. From every state whose stored and
in-force settings are ones SET_CAPTURE takes, whose layout is valid and kept by segments, ring sizes, logs, writer queue
and current segment, whose queue is empty in IDLE and MONITOR, with sampling RUNNING exactly in MONITOR and CAPTURING and
the sequencer out of IDLE exactly in CAPTURING: a step answers a next state, neither a fault nor a refusal, and leaves all
of it so. -/
def Obligations.EveryStepKeepsTheCaptureInFormAndRuns : Prop :=
  ∀ s : State, captureInForm s → ∃ t : State, step s = .next t ∧ captureInForm t

/-- Every step keeps the memories canonical, the queues bounded, the notices true, and the wall clock, settings and counts in
range. From every state in which the capture DRAM and the overlay plane have their canonical form (log 8, log 9), the
input queue with the packet in reception holds at most 8, the log write queue 64 and the stream 512, every block whose
notice is due has a pending event, the subsecond is below 32,768 and the correction amount at most 63; on every pod link
the lock run is at most 16 and the training word count at most 1,024 (in TRAINING below both), the bad-frame run at most 3
(in UP at most 2), an acknowledge wait only in UP and at most 63, the threshold code 8 to 248 and the glitch width at most
7; there are 32 deskew values of at most 15; the viewport has 1 <= Q <= 2^40 and T0 <= 2^48 - 1; the row map has at most
24 entries of height 8 to 32; each divider has a ratio of 1 to 65,536 and a phase below it: a step that answers a next
state leaves all of it so. -/
def Obligations.EveryStepKeepsTheStoresInForm : Prop :=
  ∀ s t : State, storesInForm s → step s = .next t → storesInForm t
end

