-- ==== Sys2Proof/Laws/State.lean ====
section
/-! SUPPORT. What each update of the state leaves in each field. -/

namespace Sys2Proof.Machine

@[simp] theorem setTime_pending (t : Timebase) (s : State) : (setTime t s).pending = s.pending := rfl
@[simp] theorem setTime_resetN (t : Timebase) (s : State) : (setTime t s).resetN = s.resetN := rfl
@[simp] theorem setTime_pods (t : Timebase) (s : State) : (setTime t s).pods = s.pods := rfl
@[simp] theorem setTime_time (t : Timebase) (s : State) : (setTime t s).time = t := rfl
@[simp] theorem setTime_capture (t : Timebase) (s : State) : (setTime t s).capture = s.capture := rfl
@[simp] theorem setTime_trigger (t : Timebase) (s : State) : (setTime t s).trigger = s.trigger := rfl
@[simp] theorem setTime_tables (t : Timebase) (s : State) : (setTime t s).tables = s.tables := rfl
@[simp] theorem setTime_lanes (t : Timebase) (s : State) : (setTime t s).lanes = s.lanes := rfl
@[simp] theorem setTime_rpath (t : Timebase) (s : State) : (setTime t s).rpath = s.rpath := rfl
@[simp] theorem setTime_view (t : Timebase) (s : State) : (setTime t s).view = s.view := rfl
@[simp] theorem setTime_panel (t : Timebase) (s : State) : (setTime t s).panel = s.panel := rfl
@[simp] theorem setTime_events (t : Timebase) (s : State) : (setTime t s).events = s.events := rfl
@[simp] theorem setTime_uplink (t : Timebase) (s : State) : (setTime t s).uplink = s.uplink := rfl

@[simp] theorem setCapture_pending (c : Capture) (s : State) : (setCapture c s).pending = s.pending := rfl
@[simp] theorem setCapture_resetN (c : Capture) (s : State) : (setCapture c s).resetN = s.resetN := rfl
@[simp] theorem setCapture_pods (c : Capture) (s : State) : (setCapture c s).pods = s.pods := rfl
@[simp] theorem setCapture_time (c : Capture) (s : State) : (setCapture c s).time = s.time := rfl
@[simp] theorem setCapture_capture (c : Capture) (s : State) : (setCapture c s).capture = c := rfl
@[simp] theorem setCapture_trigger (c : Capture) (s : State) : (setCapture c s).trigger = s.trigger := rfl
@[simp] theorem setCapture_tables (c : Capture) (s : State) : (setCapture c s).tables = s.tables := rfl
@[simp] theorem setCapture_lanes (c : Capture) (s : State) : (setCapture c s).lanes = s.lanes := rfl
@[simp] theorem setCapture_rpath (c : Capture) (s : State) : (setCapture c s).rpath = s.rpath := rfl
@[simp] theorem setCapture_view (c : Capture) (s : State) : (setCapture c s).view = s.view := rfl
@[simp] theorem setCapture_panel (c : Capture) (s : State) : (setCapture c s).panel = s.panel := rfl
@[simp] theorem setCapture_events (c : Capture) (s : State) : (setCapture c s).events = s.events := rfl
@[simp] theorem setCapture_uplink (c : Capture) (s : State) : (setCapture c s).uplink = s.uplink := rfl

@[simp] theorem setTrigger_pending (t : Trigger) (s : State) : (setTrigger t s).pending = s.pending := rfl
@[simp] theorem setTrigger_resetN (t : Trigger) (s : State) : (setTrigger t s).resetN = s.resetN := rfl
@[simp] theorem setTrigger_pods (t : Trigger) (s : State) : (setTrigger t s).pods = s.pods := rfl
@[simp] theorem setTrigger_time (t : Trigger) (s : State) : (setTrigger t s).time = s.time := rfl
@[simp] theorem setTrigger_capture (t : Trigger) (s : State) : (setTrigger t s).capture = s.capture := rfl
@[simp] theorem setTrigger_trigger (t : Trigger) (s : State) : (setTrigger t s).trigger = t := rfl
@[simp] theorem setTrigger_tables (t : Trigger) (s : State) : (setTrigger t s).tables = s.tables := rfl
@[simp] theorem setTrigger_lanes (t : Trigger) (s : State) : (setTrigger t s).lanes = s.lanes := rfl
@[simp] theorem setTrigger_rpath (t : Trigger) (s : State) : (setTrigger t s).rpath = s.rpath := rfl
@[simp] theorem setTrigger_view (t : Trigger) (s : State) : (setTrigger t s).view = s.view := rfl
@[simp] theorem setTrigger_panel (t : Trigger) (s : State) : (setTrigger t s).panel = s.panel := rfl
@[simp] theorem setTrigger_events (t : Trigger) (s : State) : (setTrigger t s).events = s.events := rfl
@[simp] theorem setTrigger_uplink (t : Trigger) (s : State) : (setTrigger t s).uplink = s.uplink := rfl

@[simp] theorem setTables_pending (t : Tables) (s : State) : (setTables t s).pending = s.pending := rfl
@[simp] theorem setTables_resetN (t : Tables) (s : State) : (setTables t s).resetN = s.resetN := rfl
@[simp] theorem setTables_pods (t : Tables) (s : State) : (setTables t s).pods = s.pods := rfl
@[simp] theorem setTables_time (t : Tables) (s : State) : (setTables t s).time = s.time := rfl
@[simp] theorem setTables_capture (t : Tables) (s : State) : (setTables t s).capture = s.capture := rfl
@[simp] theorem setTables_trigger (t : Tables) (s : State) : (setTables t s).trigger = s.trigger := rfl
@[simp] theorem setTables_tables (t : Tables) (s : State) : (setTables t s).tables = t := rfl
@[simp] theorem setTables_lanes (t : Tables) (s : State) : (setTables t s).lanes = s.lanes := rfl
@[simp] theorem setTables_rpath (t : Tables) (s : State) : (setTables t s).rpath = s.rpath := rfl
@[simp] theorem setTables_view (t : Tables) (s : State) : (setTables t s).view = s.view := rfl
@[simp] theorem setTables_panel (t : Tables) (s : State) : (setTables t s).panel = s.panel := rfl
@[simp] theorem setTables_events (t : Tables) (s : State) : (setTables t s).events = s.events := rfl
@[simp] theorem setTables_uplink (t : Tables) (s : State) : (setTables t s).uplink = s.uplink := rfl

@[simp] theorem setPath_pending (p : RecordPath) (s : State) : (setPath p s).pending = s.pending := rfl
@[simp] theorem setPath_resetN (p : RecordPath) (s : State) : (setPath p s).resetN = s.resetN := rfl
@[simp] theorem setPath_pods (p : RecordPath) (s : State) : (setPath p s).pods = s.pods := rfl
@[simp] theorem setPath_time (p : RecordPath) (s : State) : (setPath p s).time = s.time := rfl
@[simp] theorem setPath_capture (p : RecordPath) (s : State) : (setPath p s).capture = s.capture := rfl
@[simp] theorem setPath_trigger (p : RecordPath) (s : State) : (setPath p s).trigger = s.trigger := rfl
@[simp] theorem setPath_tables (p : RecordPath) (s : State) : (setPath p s).tables = s.tables := rfl
@[simp] theorem setPath_lanes (p : RecordPath) (s : State) : (setPath p s).lanes = s.lanes := rfl
@[simp] theorem setPath_rpath (p : RecordPath) (s : State) : (setPath p s).rpath = p := rfl
@[simp] theorem setPath_view (p : RecordPath) (s : State) : (setPath p s).view = s.view := rfl
@[simp] theorem setPath_panel (p : RecordPath) (s : State) : (setPath p s).panel = s.panel := rfl
@[simp] theorem setPath_events (p : RecordPath) (s : State) : (setPath p s).events = s.events := rfl
@[simp] theorem setPath_uplink (p : RecordPath) (s : State) : (setPath p s).uplink = s.uplink := rfl

@[simp] theorem setView_pending (v : View) (s : State) : (setView v s).pending = s.pending := rfl
@[simp] theorem setView_resetN (v : View) (s : State) : (setView v s).resetN = s.resetN := rfl
@[simp] theorem setView_pods (v : View) (s : State) : (setView v s).pods = s.pods := rfl
@[simp] theorem setView_time (v : View) (s : State) : (setView v s).time = s.time := rfl
@[simp] theorem setView_capture (v : View) (s : State) : (setView v s).capture = s.capture := rfl
@[simp] theorem setView_trigger (v : View) (s : State) : (setView v s).trigger = s.trigger := rfl
@[simp] theorem setView_tables (v : View) (s : State) : (setView v s).tables = s.tables := rfl
@[simp] theorem setView_lanes (v : View) (s : State) : (setView v s).lanes = s.lanes := rfl
@[simp] theorem setView_rpath (v : View) (s : State) : (setView v s).rpath = s.rpath := rfl
@[simp] theorem setView_view (v : View) (s : State) : (setView v s).view = v := rfl
@[simp] theorem setView_panel (v : View) (s : State) : (setView v s).panel = s.panel := rfl
@[simp] theorem setView_events (v : View) (s : State) : (setView v s).events = s.events := rfl
@[simp] theorem setView_uplink (v : View) (s : State) : (setView v s).uplink = s.uplink := rfl

@[simp] theorem setPanel_pending (p : Panel) (s : State) : (setPanel p s).pending = s.pending := rfl
@[simp] theorem setPanel_resetN (p : Panel) (s : State) : (setPanel p s).resetN = s.resetN := rfl
@[simp] theorem setPanel_pods (p : Panel) (s : State) : (setPanel p s).pods = s.pods := rfl
@[simp] theorem setPanel_time (p : Panel) (s : State) : (setPanel p s).time = s.time := rfl
@[simp] theorem setPanel_capture (p : Panel) (s : State) : (setPanel p s).capture = s.capture := rfl
@[simp] theorem setPanel_trigger (p : Panel) (s : State) : (setPanel p s).trigger = s.trigger := rfl
@[simp] theorem setPanel_tables (p : Panel) (s : State) : (setPanel p s).tables = s.tables := rfl
@[simp] theorem setPanel_lanes (p : Panel) (s : State) : (setPanel p s).lanes = s.lanes := rfl
@[simp] theorem setPanel_rpath (p : Panel) (s : State) : (setPanel p s).rpath = s.rpath := rfl
@[simp] theorem setPanel_view (p : Panel) (s : State) : (setPanel p s).view = s.view := rfl
@[simp] theorem setPanel_panel (p : Panel) (s : State) : (setPanel p s).panel = p := rfl
@[simp] theorem setPanel_events (p : Panel) (s : State) : (setPanel p s).events = s.events := rfl
@[simp] theorem setPanel_uplink (p : Panel) (s : State) : (setPanel p s).uplink = s.uplink := rfl

@[simp] theorem setUplink_pending (u : Uplink) (s : State) : (setUplink u s).pending = s.pending := rfl
@[simp] theorem setUplink_resetN (u : Uplink) (s : State) : (setUplink u s).resetN = s.resetN := rfl
@[simp] theorem setUplink_pods (u : Uplink) (s : State) : (setUplink u s).pods = s.pods := rfl
@[simp] theorem setUplink_time (u : Uplink) (s : State) : (setUplink u s).time = s.time := rfl
@[simp] theorem setUplink_capture (u : Uplink) (s : State) : (setUplink u s).capture = s.capture := rfl
@[simp] theorem setUplink_trigger (u : Uplink) (s : State) : (setUplink u s).trigger = s.trigger := rfl
@[simp] theorem setUplink_tables (u : Uplink) (s : State) : (setUplink u s).tables = s.tables := rfl
@[simp] theorem setUplink_lanes (u : Uplink) (s : State) : (setUplink u s).lanes = s.lanes := rfl
@[simp] theorem setUplink_rpath (u : Uplink) (s : State) : (setUplink u s).rpath = s.rpath := rfl
@[simp] theorem setUplink_view (u : Uplink) (s : State) : (setUplink u s).view = s.view := rfl
@[simp] theorem setUplink_panel (u : Uplink) (s : State) : (setUplink u s).panel = s.panel := rfl
@[simp] theorem setUplink_events (u : Uplink) (s : State) : (setUplink u s).events = s.events := rfl
@[simp] theorem setUplink_uplink (u : Uplink) (s : State) : (setUplink u s).uplink = u := rfl

@[simp] theorem setLane_pending (l : LaneId) (ln : Lane) (s : State) : (setLane l ln s).pending = s.pending := rfl
@[simp] theorem setLane_resetN (l : LaneId) (ln : Lane) (s : State) : (setLane l ln s).resetN = s.resetN := rfl
@[simp] theorem setLane_pods (l : LaneId) (ln : Lane) (s : State) : (setLane l ln s).pods = s.pods := rfl
@[simp] theorem setLane_time (l : LaneId) (ln : Lane) (s : State) : (setLane l ln s).time = s.time := rfl
@[simp] theorem setLane_capture (l : LaneId) (ln : Lane) (s : State) : (setLane l ln s).capture = s.capture := rfl
@[simp] theorem setLane_trigger (l : LaneId) (ln : Lane) (s : State) : (setLane l ln s).trigger = s.trigger := rfl
@[simp] theorem setLane_tables (l : LaneId) (ln : Lane) (s : State) : (setLane l ln s).tables = s.tables := rfl
@[simp] theorem setLane_lanes (l : LaneId) (ln : Lane) (s : State) : (setLane l ln s).lanes = s.lanes.set l ln := rfl
@[simp] theorem setLane_rpath (l : LaneId) (ln : Lane) (s : State) : (setLane l ln s).rpath = s.rpath := rfl
@[simp] theorem setLane_view (l : LaneId) (ln : Lane) (s : State) : (setLane l ln s).view = s.view := rfl
@[simp] theorem setLane_panel (l : LaneId) (ln : Lane) (s : State) : (setLane l ln s).panel = s.panel := rfl
@[simp] theorem setLane_events (l : LaneId) (ln : Lane) (s : State) : (setLane l ln s).events = s.events := rfl
@[simp] theorem setLane_uplink (l : LaneId) (ln : Lane) (s : State) : (setLane l ln s).uplink = s.uplink := rfl

@[simp] theorem modLink_pending (p : Pod) (f : PodLink → PodLink) (s : State) : (modLink p f s).pending = s.pending := rfl
@[simp] theorem modLink_resetN (p : Pod) (f : PodLink → PodLink) (s : State) : (modLink p f s).resetN = s.resetN := rfl
@[simp] theorem modLink_pods (p : Pod) (f : PodLink → PodLink) (s : State) : (modLink p f s).pods = { s.pods with links := s.pods.links.set p (f s.pods.links[p]) } := rfl
@[simp] theorem modLink_time (p : Pod) (f : PodLink → PodLink) (s : State) : (modLink p f s).time = s.time := rfl
@[simp] theorem modLink_capture (p : Pod) (f : PodLink → PodLink) (s : State) : (modLink p f s).capture = s.capture := rfl
@[simp] theorem modLink_trigger (p : Pod) (f : PodLink → PodLink) (s : State) : (modLink p f s).trigger = s.trigger := rfl
@[simp] theorem modLink_tables (p : Pod) (f : PodLink → PodLink) (s : State) : (modLink p f s).tables = s.tables := rfl
@[simp] theorem modLink_lanes (p : Pod) (f : PodLink → PodLink) (s : State) : (modLink p f s).lanes = s.lanes := rfl
@[simp] theorem modLink_rpath (p : Pod) (f : PodLink → PodLink) (s : State) : (modLink p f s).rpath = s.rpath := rfl
@[simp] theorem modLink_view (p : Pod) (f : PodLink → PodLink) (s : State) : (modLink p f s).view = s.view := rfl
@[simp] theorem modLink_panel (p : Pod) (f : PodLink → PodLink) (s : State) : (modLink p f s).panel = s.panel := rfl
@[simp] theorem modLink_events (p : Pod) (f : PodLink → PodLink) (s : State) : (modLink p f s).events = s.events := rfl
@[simp] theorem modLink_uplink (p : Pod) (f : PodLink → PodLink) (s : State) : (modLink p f s).uplink = s.uplink := rfl

@[simp] theorem modSeg_pending (i : Nat) (f : Segment → Segment) (s : State) : (modSeg i f s).pending = s.pending := rfl
@[simp] theorem modSeg_resetN (i : Nat) (f : Segment → Segment) (s : State) : (modSeg i f s).resetN = s.resetN := rfl
@[simp] theorem modSeg_pods (i : Nat) (f : Segment → Segment) (s : State) : (modSeg i f s).pods = s.pods := rfl
@[simp] theorem modSeg_time (i : Nat) (f : Segment → Segment) (s : State) : (modSeg i f s).time = s.time := rfl
@[simp] theorem modSeg_capture (i : Nat) (f : Segment → Segment) (s : State) : (modSeg i f s).capture = { s.capture with segs := s.capture.segs.set i (f (segAt s i)) } := rfl
@[simp] theorem modSeg_trigger (i : Nat) (f : Segment → Segment) (s : State) : (modSeg i f s).trigger = s.trigger := rfl
@[simp] theorem modSeg_tables (i : Nat) (f : Segment → Segment) (s : State) : (modSeg i f s).tables = s.tables := rfl
@[simp] theorem modSeg_lanes (i : Nat) (f : Segment → Segment) (s : State) : (modSeg i f s).lanes = s.lanes := rfl
@[simp] theorem modSeg_rpath (i : Nat) (f : Segment → Segment) (s : State) : (modSeg i f s).rpath = s.rpath := rfl
@[simp] theorem modSeg_view (i : Nat) (f : Segment → Segment) (s : State) : (modSeg i f s).view = s.view := rfl
@[simp] theorem modSeg_panel (i : Nat) (f : Segment → Segment) (s : State) : (modSeg i f s).panel = s.panel := rfl
@[simp] theorem modSeg_events (i : Nat) (f : Segment → Segment) (s : State) : (modSeg i f s).events = s.events := rfl
@[simp] theorem modSeg_uplink (i : Nat) (f : Segment → Segment) (s : State) : (modSeg i f s).uplink = s.uplink := rfl

@[simp] theorem raise_pending (b : Fin 7) (m : Word) (s : State) : (raise b m s).pending = s.pending := rfl
@[simp] theorem raise_resetN (b : Fin 7) (m : Word) (s : State) : (raise b m s).resetN = s.resetN := rfl
@[simp] theorem raise_pods (b : Fin 7) (m : Word) (s : State) : (raise b m s).pods = s.pods := rfl
@[simp] theorem raise_time (b : Fin 7) (m : Word) (s : State) : (raise b m s).time = s.time := rfl
@[simp] theorem raise_capture (b : Fin 7) (m : Word) (s : State) : (raise b m s).capture = s.capture := rfl
@[simp] theorem raise_trigger (b : Fin 7) (m : Word) (s : State) : (raise b m s).trigger = s.trigger := rfl
@[simp] theorem raise_tables (b : Fin 7) (m : Word) (s : State) : (raise b m s).tables = s.tables := rfl
@[simp] theorem raise_lanes (b : Fin 7) (m : Word) (s : State) : (raise b m s).lanes = s.lanes := rfl
@[simp] theorem raise_rpath (b : Fin 7) (m : Word) (s : State) : (raise b m s).rpath = s.rpath := rfl
@[simp] theorem raise_view (b : Fin 7) (m : Word) (s : State) : (raise b m s).view = s.view := rfl
@[simp] theorem raise_panel (b : Fin 7) (m : Word) (s : State) : (raise b m s).panel = s.panel := rfl
@[simp] theorem raise_events (b : Fin 7) (m : Word) (s : State) : (raise b m s).events = s.events.set b (s.events[b].raise m) := rfl
@[simp] theorem raise_uplink (b : Fin 7) (m : Word) (s : State) : (raise b m s).uplink = s.uplink := rfl

@[simp] theorem placeResponse_pending (r : Response) (s : State) : (placeResponse r s).pending = s.pending := rfl
@[simp] theorem placeResponse_resetN (r : Response) (s : State) : (placeResponse r s).resetN = s.resetN := rfl
@[simp] theorem placeResponse_pods (r : Response) (s : State) : (placeResponse r s).pods = s.pods := rfl
@[simp] theorem placeResponse_time (r : Response) (s : State) : (placeResponse r s).time = s.time := rfl
@[simp] theorem placeResponse_capture (r : Response) (s : State) : (placeResponse r s).capture = s.capture := rfl
@[simp] theorem placeResponse_trigger (r : Response) (s : State) : (placeResponse r s).trigger = s.trigger := rfl
@[simp] theorem placeResponse_tables (r : Response) (s : State) : (placeResponse r s).tables = s.tables := rfl
@[simp] theorem placeResponse_lanes (r : Response) (s : State) : (placeResponse r s).lanes = s.lanes := rfl
@[simp] theorem placeResponse_rpath (r : Response) (s : State) : (placeResponse r s).rpath = s.rpath := rfl
@[simp] theorem placeResponse_view (r : Response) (s : State) : (placeResponse r s).view = s.view := rfl
@[simp] theorem placeResponse_panel (r : Response) (s : State) : (placeResponse r s).panel = s.panel := rfl
@[simp] theorem placeResponse_events (r : Response) (s : State) : (placeResponse r s).events = s.events := rfl
@[simp] theorem placeResponse_uplink (r : Response) (s : State) : (placeResponse r s).uplink = { s.uplink with slot := some r } := rfl

@[simp] theorem withPending_pending (s : State) (q : List Instr) : (s.withPending q).pending = q := rfl
@[simp] theorem withPending_resetN (s : State) (q : List Instr) : (s.withPending q).resetN = s.resetN := rfl
@[simp] theorem withPending_pods (s : State) (q : List Instr) : (s.withPending q).pods = s.pods := rfl
@[simp] theorem withPending_time (s : State) (q : List Instr) : (s.withPending q).time = s.time := rfl
@[simp] theorem withPending_capture (s : State) (q : List Instr) : (s.withPending q).capture = s.capture := rfl
@[simp] theorem withPending_trigger (s : State) (q : List Instr) : (s.withPending q).trigger = s.trigger := rfl
@[simp] theorem withPending_tables (s : State) (q : List Instr) : (s.withPending q).tables = s.tables := rfl
@[simp] theorem withPending_lanes (s : State) (q : List Instr) : (s.withPending q).lanes = s.lanes := rfl
@[simp] theorem withPending_rpath (s : State) (q : List Instr) : (s.withPending q).rpath = s.rpath := rfl
@[simp] theorem withPending_view (s : State) (q : List Instr) : (s.withPending q).view = s.view := rfl
@[simp] theorem withPending_panel (s : State) (q : List Instr) : (s.withPending q).panel = s.panel := rfl
@[simp] theorem withPending_events (s : State) (q : List Instr) : (s.withPending q).events = s.events := rfl
@[simp] theorem withPending_uplink (s : State) (q : List Instr) : (s.withPending q).uplink = s.uplink := rfl

end Sys2Proof.Machine
end

