-- ==== Sys2Proof/Laws/Frames.lean ====
section
/-! SUPPORT. The frame of each shared operation: the fields of the state that it never changes. -/

namespace Sys2Proof.Machine

@[simp] theorem raiseIf_frame (c : Bool) (b : Fin 7) (m : Word) (s : State) :
    (raiseIf c b m s).pending = s.pending ∧ (raiseIf c b m s).resetN = s.resetN ∧ (raiseIf c b m s).pods = s.pods ∧
    (raiseIf c b m s).time = s.time ∧ (raiseIf c b m s).capture = s.capture ∧ (raiseIf c b m s).trigger = s.trigger ∧
    (raiseIf c b m s).tables = s.tables ∧ (raiseIf c b m s).lanes = s.lanes ∧ (raiseIf c b m s).rpath = s.rpath ∧
    (raiseIf c b m s).view = s.view ∧ (raiseIf c b m s).panel = s.panel ∧ (raiseIf c b m s).uplink = s.uplink := by
  unfold raiseIf
  try dsimp only
  (repeat' split) <;> simp

@[simp] theorem enterStage_frame (n : Nat) (s : State) :
    (enterStage n s).pending = s.pending ∧ (enterStage n s).resetN = s.resetN ∧ (enterStage n s).pods = s.pods ∧
    (enterStage n s).time = s.time ∧ (enterStage n s).capture = s.capture ∧ (enterStage n s).tables = s.tables ∧
    (enterStage n s).lanes = s.lanes ∧ (enterStage n s).rpath = s.rpath ∧ (enterStage n s).view = s.view ∧
    (enterStage n s).panel = s.panel ∧ (enterStage n s).uplink = s.uplink := by
  unfold enterStage
  try dsimp only
  simp

@[simp] theorem enterRunning_frame (s : State) :
    (enterRunning s).pending = s.pending ∧ (enterRunning s).resetN = s.resetN ∧ (enterRunning s).pods = s.pods ∧
    (enterRunning s).time = s.time ∧ (enterRunning s).capture = s.capture ∧ (enterRunning s).tables = s.tables ∧
    (enterRunning s).lanes = s.lanes ∧ (enterRunning s).rpath = s.rpath ∧ (enterRunning s).view = s.view ∧
    (enterRunning s).panel = s.panel ∧ (enterRunning s).uplink = s.uplink := by
  unfold enterRunning
  try dsimp only
  simp

@[simp] theorem startSequencer_frame (s : State) :
    (startSequencer s).pending = s.pending ∧ (startSequencer s).resetN = s.resetN ∧
    (startSequencer s).pods = s.pods ∧ (startSequencer s).time = s.time ∧ (startSequencer s).capture = s.capture ∧
    (startSequencer s).tables = s.tables ∧ (startSequencer s).lanes = s.lanes ∧ (startSequencer s).rpath = s.rpath ∧
    (startSequencer s).view = s.view ∧ (startSequencer s).panel = s.panel ∧ (startSequencer s).uplink = s.uplink := by
  unfold startSequencer
  try dsimp only
  (repeat' split) <;> simp

@[simp] theorem rearm_frame (s : State) :
    (rearm s).pending = s.pending ∧ (rearm s).resetN = s.resetN ∧ (rearm s).pods = s.pods ∧ (rearm s).time = s.time ∧
    (rearm s).capture = s.capture ∧ (rearm s).tables = s.tables ∧ (rearm s).lanes = s.lanes ∧
    (rearm s).rpath = s.rpath ∧ (rearm s).view = s.view ∧ (rearm s).panel = s.panel ∧ (rearm s).uplink = s.uplink := by
  unfold rearm
  try dsimp only
  simp

@[simp] theorem secondsChanged_frame (s : State) :
    (secondsChanged s).pending = s.pending ∧ (secondsChanged s).resetN = s.resetN ∧
    (secondsChanged s).pods = s.pods ∧ (secondsChanged s).time = s.time ∧ (secondsChanged s).capture = s.capture ∧
    (secondsChanged s).tables = s.tables ∧ (secondsChanged s).lanes = s.lanes ∧ (secondsChanged s).rpath = s.rpath ∧
    (secondsChanged s).view = s.view ∧ (secondsChanged s).panel = s.panel ∧ (secondsChanged s).uplink = s.uplink := by
  unfold secondsChanged
  try dsimp only
  (repeat' split) <;> simp

@[simp] theorem takeTrigger_frame (t : Nat) (c : Cause) (s : State) :
    (takeTrigger t c s).pending = s.pending ∧ (takeTrigger t c s).resetN = s.resetN ∧
    (takeTrigger t c s).pods = s.pods ∧ (takeTrigger t c s).time = s.time ∧ (takeTrigger t c s).tables = s.tables ∧
    (takeTrigger t c s).lanes = s.lanes ∧ (takeTrigger t c s).rpath = s.rpath ∧ (takeTrigger t c s).view = s.view ∧
    (takeTrigger t c s).panel = s.panel ∧ (takeTrigger t c s).uplink = s.uplink := by
  unfold takeTrigger
  try dsimp only
  (repeat' split) <;> simp

@[simp] theorem transition_frame (c : Condition) (g : Target) (t : Nat) (s : State) :
    (transition c g t s).pending = s.pending ∧ (transition c g t s).resetN = s.resetN ∧
    (transition c g t s).pods = s.pods ∧ (transition c g t s).time = s.time ∧
    (transition c g t s).tables = s.tables ∧ (transition c g t s).lanes = s.lanes ∧
    (transition c g t s).rpath = s.rpath ∧ (transition c g t s).view = s.view ∧
    (transition c g t s).panel = s.panel ∧ (transition c g t s).uplink = s.uplink := by
  unfold transition
  try dsimp only
  (repeat' split) <;> simp

@[simp] theorem judge_frame (v : TermValues) (t : Nat) (s : State) :
    (judge v t s).pending = s.pending ∧ (judge v t s).resetN = s.resetN ∧ (judge v t s).pods = s.pods ∧
    (judge v t s).time = s.time ∧ (judge v t s).tables = s.tables ∧ (judge v t s).lanes = s.lanes ∧
    (judge v t s).rpath = s.rpath ∧ (judge v t s).view = s.view ∧ (judge v t s).panel = s.panel ∧
    (judge v t s).uplink = s.uplink := by
  unfold judge
  try dsimp only
  (repeat' split) <;> simp

@[simp] theorem keepPrevious_frame (m : Sample) (v : TermValues) (s : State) :
    (keepPrevious m v s).pending = s.pending ∧ (keepPrevious m v s).resetN = s.resetN ∧
    (keepPrevious m v s).pods = s.pods ∧ (keepPrevious m v s).time = s.time ∧
    (keepPrevious m v s).capture = s.capture ∧ (keepPrevious m v s).tables = s.tables ∧
    (keepPrevious m v s).lanes = s.lanes ∧ (keepPrevious m v s).rpath = s.rpath ∧
    (keepPrevious m v s).view = s.view ∧ (keepPrevious m v s).panel = s.panel ∧
    (keepPrevious m v s).events = s.events ∧ (keepPrevious m v s).uplink = s.uplink := by
  unfold keepPrevious
  try dsimp only
  simp

@[simp] theorem judgeSample_frame (v : TermValues) (t : Nat) (s : State) :
    (judgeSample v t s).pending = s.pending ∧ (judgeSample v t s).resetN = s.resetN ∧
    (judgeSample v t s).pods = s.pods ∧ (judgeSample v t s).time = s.time ∧ (judgeSample v t s).tables = s.tables ∧
    (judgeSample v t s).lanes = s.lanes ∧ (judgeSample v t s).rpath = s.rpath ∧ (judgeSample v t s).view = s.view ∧
    (judgeSample v t s).panel = s.panel ∧ (judgeSample v t s).uplink = s.uplink := by
  unfold judgeSample
  try dsimp only
  (repeat' split) <;> simp

@[simp] theorem sequencerSample_frame (m : Sample) (e : Bool) (t : Nat) (s : State) :
    (sequencerSample m e t s).pending = s.pending ∧ (sequencerSample m e t s).resetN = s.resetN ∧
    (sequencerSample m e t s).pods = s.pods ∧ (sequencerSample m e t s).time = s.time ∧
    (sequencerSample m e t s).tables = s.tables ∧ (sequencerSample m e t s).lanes = s.lanes ∧
    (sequencerSample m e t s).rpath = s.rpath ∧ (sequencerSample m e t s).view = s.view ∧
    (sequencerSample m e t s).panel = s.panel ∧ (sequencerSample m e t s).uplink = s.uplink := by
  unfold sequencerSample
  try dsimp only
  (repeat' split) <;> simp

@[simp] theorem logOverflow_frame (i : Nat) (s : State) :
    (logOverflow i s).pending = s.pending ∧ (logOverflow i s).resetN = s.resetN ∧ (logOverflow i s).pods = s.pods ∧
    (logOverflow i s).time = s.time ∧ (logOverflow i s).trigger = s.trigger ∧ (logOverflow i s).tables = s.tables ∧
    (logOverflow i s).lanes = s.lanes ∧ (logOverflow i s).rpath = s.rpath ∧ (logOverflow i s).view = s.view ∧
    (logOverflow i s).panel = s.panel ∧ (logOverflow i s).uplink = s.uplink := by
  unfold logOverflow
  try dsimp only
  simp

@[simp] theorem placeInLog_frame (i : Nat) (r : FrameRecord) (s : State) :
    (placeInLog i r s).pending = s.pending ∧ (placeInLog i r s).resetN = s.resetN ∧
    (placeInLog i r s).pods = s.pods ∧ (placeInLog i r s).time = s.time ∧ (placeInLog i r s).trigger = s.trigger ∧
    (placeInLog i r s).tables = s.tables ∧ (placeInLog i r s).lanes = s.lanes ∧ (placeInLog i r s).view = s.view ∧
    (placeInLog i r s).panel = s.panel ∧ (placeInLog i r s).uplink = s.uplink := by
  unfold placeInLog
  try dsimp only
  (repeat' split) <;> simp

@[simp] theorem keepInLog_frame (i : Nat) (k : FrameRecord → Bool) (s : State) :
    (keepInLog i k s).pending = s.pending ∧ (keepInLog i k s).resetN = s.resetN ∧ (keepInLog i k s).pods = s.pods ∧
    (keepInLog i k s).time = s.time ∧ (keepInLog i k s).capture = s.capture ∧ (keepInLog i k s).trigger = s.trigger ∧
    (keepInLog i k s).tables = s.tables ∧ (keepInLog i k s).lanes = s.lanes ∧ (keepInLog i k s).view = s.view ∧
    (keepInLog i k s).panel = s.panel ∧ (keepInLog i k s).events = s.events ∧ (keepInLog i k s).uplink = s.uplink := by
  unfold keepInLog
  try dsimp only
  simp

@[simp] theorem keepInLogQueue_frame (k : Nat × FrameRecord → Bool) (s : State) :
    (keepInLogQueue k s).pending = s.pending ∧ (keepInLogQueue k s).resetN = s.resetN ∧
    (keepInLogQueue k s).pods = s.pods ∧ (keepInLogQueue k s).time = s.time ∧
    (keepInLogQueue k s).capture = s.capture ∧ (keepInLogQueue k s).trigger = s.trigger ∧
    (keepInLogQueue k s).tables = s.tables ∧ (keepInLogQueue k s).lanes = s.lanes ∧
    (keepInLogQueue k s).view = s.view ∧ (keepInLogQueue k s).panel = s.panel ∧
    (keepInLogQueue k s).events = s.events ∧ (keepInLogQueue k s).uplink = s.uplink := by
  unfold keepInLogQueue
  try dsimp only
  simp

@[simp] theorem trimLog_frame (i o : Nat) (s : State) :
    (trimLog i o s).pending = s.pending ∧ (trimLog i o s).resetN = s.resetN ∧ (trimLog i o s).pods = s.pods ∧
    (trimLog i o s).time = s.time ∧ (trimLog i o s).capture = s.capture ∧ (trimLog i o s).trigger = s.trigger ∧
    (trimLog i o s).tables = s.tables ∧ (trimLog i o s).lanes = s.lanes ∧ (trimLog i o s).view = s.view ∧
    (trimLog i o s).panel = s.panel ∧ (trimLog i o s).events = s.events ∧ (trimLog i o s).uplink = s.uplink := by
  unfold trimLog
  try dsimp only
  simp

@[simp] theorem dropLaneEntries_frame (i : Nat) (l : LaneId) (s : State) :
    (dropLaneEntries i l s).pending = s.pending ∧ (dropLaneEntries i l s).resetN = s.resetN ∧
    (dropLaneEntries i l s).pods = s.pods ∧ (dropLaneEntries i l s).time = s.time ∧
    (dropLaneEntries i l s).capture = s.capture ∧ (dropLaneEntries i l s).trigger = s.trigger ∧
    (dropLaneEntries i l s).tables = s.tables ∧ (dropLaneEntries i l s).lanes = s.lanes ∧
    (dropLaneEntries i l s).view = s.view ∧ (dropLaneEntries i l s).panel = s.panel ∧
    (dropLaneEntries i l s).events = s.events ∧ (dropLaneEntries i l s).uplink = s.uplink := by
  unfold dropLaneEntries
  try dsimp only
  simp

@[simp] theorem dropOldestEntry_frame (i : Nat) (s : State) :
    (dropOldestEntry i s).pending = s.pending ∧ (dropOldestEntry i s).resetN = s.resetN ∧
    (dropOldestEntry i s).pods = s.pods ∧ (dropOldestEntry i s).time = s.time ∧
    (dropOldestEntry i s).trigger = s.trigger ∧ (dropOldestEntry i s).tables = s.tables ∧
    (dropOldestEntry i s).lanes = s.lanes ∧ (dropOldestEntry i s).view = s.view ∧
    (dropOldestEntry i s).panel = s.panel ∧ (dropOldestEntry i s).uplink = s.uplink := by
  unfold dropOldestEntry
  try dsimp only
  simp

@[simp] theorem joinLog_frame (i : Nat) (r : FrameRecord) (s : State) :
    (joinLog i r s).pending = s.pending ∧ (joinLog i r s).resetN = s.resetN ∧ (joinLog i r s).pods = s.pods ∧
    (joinLog i r s).time = s.time ∧ (joinLog i r s).trigger = s.trigger ∧ (joinLog i r s).tables = s.tables ∧
    (joinLog i r s).lanes = s.lanes ∧ (joinLog i r s).view = s.view ∧ (joinLog i r s).panel = s.panel ∧
    (joinLog i r s).uplink = s.uplink := by
  unfold joinLog
  try dsimp only
  (repeat' split) <;> simp

@[simp] theorem writeLogEntry_frame (s : State) :
    (writeLogEntry s).pending = s.pending ∧ (writeLogEntry s).resetN = s.resetN ∧ (writeLogEntry s).pods = s.pods ∧
    (writeLogEntry s).time = s.time ∧ (writeLogEntry s).trigger = s.trigger ∧ (writeLogEntry s).tables = s.tables ∧
    (writeLogEntry s).lanes = s.lanes ∧ (writeLogEntry s).view = s.view ∧ (writeLogEntry s).panel = s.panel ∧
    (writeLogEntry s).uplink = s.uplink := by
  unfold writeLogEntry
  try dsimp only
  (repeat' split) <;> simp

@[simp] theorem streamFrame_frame (r : FrameRecord) (s : State) :
    (streamFrame r s).pending = s.pending ∧ (streamFrame r s).resetN = s.resetN ∧ (streamFrame r s).pods = s.pods ∧
    (streamFrame r s).time = s.time ∧ (streamFrame r s).capture = s.capture ∧ (streamFrame r s).trigger = s.trigger ∧
    (streamFrame r s).tables = s.tables ∧ (streamFrame r s).lanes = s.lanes ∧ (streamFrame r s).view = s.view ∧
    (streamFrame r s).panel = s.panel ∧ (streamFrame r s).uplink = s.uplink := by
  unfold streamFrame
  try dsimp only
  (repeat' split) <;> simp

@[simp] theorem takeFrame_frame (g : Option Nat) (e : Ended) (s : State) :
    (takeFrame g e s).pending = s.pending ∧ (takeFrame g e s).resetN = s.resetN ∧ (takeFrame g e s).pods = s.pods ∧
    (takeFrame g e s).time = s.time ∧ (takeFrame g e s).tables = s.tables ∧ (takeFrame g e s).lanes = s.lanes ∧
    (takeFrame g e s).view = s.view ∧ (takeFrame g e s).panel = s.panel ∧ (takeFrame g e s).uplink = s.uplink := by
  unfold takeFrame
  try dsimp only
  (repeat' split) <;> simp

@[simp] theorem readFrameEntry_frame (s : State) :
    (readFrameEntry s).pending = s.pending ∧ (readFrameEntry s).resetN = s.resetN ∧
    (readFrameEntry s).pods = s.pods ∧ (readFrameEntry s).time = s.time ∧ (readFrameEntry s).capture = s.capture ∧
    (readFrameEntry s).trigger = s.trigger ∧ (readFrameEntry s).tables = s.tables ∧
    (readFrameEntry s).lanes = s.lanes ∧ (readFrameEntry s).view = s.view ∧ (readFrameEntry s).panel = s.panel ∧
    (readFrameEntry s).events = s.events ∧ (readFrameEntry s).uplink = s.uplink := by
  unfold readFrameEntry
  try dsimp only
  (repeat' split) <;> simp

@[simp] theorem applyLane_frame (l : LaneId) (g : Option Nat) (o : LaneOut) (s : State) :
    (applyLane l g o s).pending = s.pending ∧ (applyLane l g o s).resetN = s.resetN ∧
    (applyLane l g o s).pods = s.pods ∧ (applyLane l g o s).time = s.time ∧ (applyLane l g o s).tables = s.tables ∧
    (applyLane l g o s).view = s.view ∧ (applyLane l g o s).panel = s.panel ∧ (applyLane l g o s).uplink = s.uplink := by
  unfold applyLane
  try dsimp only
  (repeat' split) <;> simp

@[simp] theorem settleGap_frame (l : LaneId) (s : State) :
    (settleGap l s).pending = s.pending ∧ (settleGap l s).resetN = s.resetN ∧ (settleGap l s).pods = s.pods ∧
    (settleGap l s).time = s.time ∧ (settleGap l s).tables = s.tables ∧ (settleGap l s).view = s.view ∧
    (settleGap l s).panel = s.panel ∧ (settleGap l s).uplink = s.uplink := by
  unfold settleGap
  try dsimp only
  (repeat' split) <;> simp

@[simp] theorem settleGaps_frame (s : State) :
    (settleGaps s).pending = s.pending ∧ (settleGaps s).resetN = s.resetN ∧ (settleGaps s).pods = s.pods ∧
    (settleGaps s).time = s.time ∧ (settleGaps s).tables = s.tables ∧ (settleGaps s).view = s.view ∧
    (settleGaps s).panel = s.panel ∧ (settleGaps s).uplink = s.uplink := by
  simp [settleGaps, forLanes]

@[simp] theorem liveLaneTick_frame (t : Nat) (v : BitVec 32) (l : LaneId) (s : State) :
    (liveLaneTick t v l s).pending = s.pending ∧ (liveLaneTick t v l s).resetN = s.resetN ∧
    (liveLaneTick t v l s).pods = s.pods ∧ (liveLaneTick t v l s).time = s.time ∧
    (liveLaneTick t v l s).tables = s.tables ∧ (liveLaneTick t v l s).view = s.view ∧
    (liveLaneTick t v l s).panel = s.panel ∧ (liveLaneTick t v l s).uplink = s.uplink := by
  unfold liveLaneTick
  try dsimp only
  (repeat' split) <;> simp

@[simp] theorem liveTick_frame (t : Nat) (v : BitVec 32) (s : State) :
    (liveTick t v s).pending = s.pending ∧ (liveTick t v s).resetN = s.resetN ∧ (liveTick t v s).pods = s.pods ∧
    (liveTick t v s).time = s.time ∧ (liveTick t v s).tables = s.tables ∧ (liveTick t v s).view = s.view ∧
    (liveTick t v s).panel = s.panel ∧ (liveTick t v s).uplink = s.uplink := by
  simp [liveTick, forLanes]

@[simp] theorem lanesStart_frame (s : State) :
    (lanesStart s).pending = s.pending ∧ (lanesStart s).resetN = s.resetN ∧ (lanesStart s).pods = s.pods ∧
    (lanesStart s).time = s.time ∧ (lanesStart s).capture = s.capture ∧ (lanesStart s).trigger = s.trigger ∧
    (lanesStart s).tables = s.tables ∧ (lanesStart s).rpath = s.rpath ∧ (lanesStart s).view = s.view ∧
    (lanesStart s).panel = s.panel ∧ (lanesStart s).events = s.events ∧ (lanesStart s).uplink = s.uplink := by
  simp [lanesStart, forLanes]

@[simp] theorem laneSampleStop_frame (g : Option Nat) (l : LaneId) (s : State) :
    (laneSampleStop g l s).pending = s.pending ∧ (laneSampleStop g l s).resetN = s.resetN ∧
    (laneSampleStop g l s).pods = s.pods ∧ (laneSampleStop g l s).time = s.time ∧
    (laneSampleStop g l s).tables = s.tables ∧ (laneSampleStop g l s).view = s.view ∧
    (laneSampleStop g l s).panel = s.panel ∧ (laneSampleStop g l s).uplink = s.uplink := by
  unfold laneSampleStop
  try dsimp only
  (repeat' split) <;> simp

@[simp] theorem lanesStop_frame (g : Option Nat) (s : State) :
    (lanesStop g s).pending = s.pending ∧ (lanesStop g s).resetN = s.resetN ∧ (lanesStop g s).pods = s.pods ∧
    (lanesStop g s).time = s.time ∧ (lanesStop g s).tables = s.tables ∧ (lanesStop g s).view = s.view ∧
    (lanesStop g s).panel = s.panel ∧ (lanesStop g s).uplink = s.uplink := by
  simp [lanesStop, forLanes]

@[simp] theorem replayOverrun_frame (t : FrameTable) (l : LaneId) (n : Nat) (s : State) :
    (replayOverrun t l n s).pending = s.pending ∧ (replayOverrun t l n s).resetN = s.resetN ∧
    (replayOverrun t l n s).pods = s.pods ∧ (replayOverrun t l n s).time = s.time ∧
    (replayOverrun t l n s).tables = s.tables ∧ (replayOverrun t l n s).view = s.view ∧
    (replayOverrun t l n s).panel = s.panel ∧ (replayOverrun t l n s).uplink = s.uplink := by
  unfold replayOverrun
  try dsimp only
  simp

@[simp] theorem replayGap_frame (t : FrameTable) (l : LaneId) (s : State) :
    (replayGap t l s).pending = s.pending ∧ (replayGap t l s).resetN = s.resetN ∧ (replayGap t l s).pods = s.pods ∧
    (replayGap t l s).time = s.time ∧ (replayGap t l s).tables = s.tables ∧ (replayGap t l s).view = s.view ∧
    (replayGap t l s).panel = s.panel ∧ (replayGap t l s).uplink = s.uplink := by
  unfold replayGap
  try dsimp only
  (repeat' split) <;> simp

@[simp] theorem replayTick_frame (t : FrameTable) (l : LaneId) (s : State) :
    (replayTick t l s).pending = s.pending ∧ (replayTick t l s).resetN = s.resetN ∧
    (replayTick t l s).pods = s.pods ∧ (replayTick t l s).time = s.time ∧ (replayTick t l s).tables = s.tables ∧
    (replayTick t l s).view = s.view ∧ (replayTick t l s).panel = s.panel ∧ (replayTick t l s).uplink = s.uplink := by
  unfold replayTick
  try dsimp only
  (repeat' split) <;> simp

@[simp] theorem replayTicks_frame (t : FrameTable) (l : LaneId) (n : Nat) (s : State) :
    (replayTicks t l n s).pending = s.pending ∧ (replayTicks t l n s).resetN = s.resetN ∧
    (replayTicks t l n s).pods = s.pods ∧ (replayTicks t l n s).time = s.time ∧
    (replayTicks t l n s).tables = s.tables ∧ (replayTicks t l n s).view = s.view ∧
    (replayTicks t l n s).panel = s.panel ∧ (replayTicks t l n s).uplink = s.uplink := by
  induction n generalizing s with
  | zero => simp [replayTicks]
  | succ m ih =>
    unfold replayTicks
    split <;> simp_all

@[simp] theorem replayEnd_frame (t : FrameTable) (l : LaneId) (n : Nat) (s : State) :
    (replayEnd t l n s).pending = s.pending ∧ (replayEnd t l n s).resetN = s.resetN ∧
    (replayEnd t l n s).pods = s.pods ∧ (replayEnd t l n s).time = s.time ∧ (replayEnd t l n s).tables = s.tables ∧
    (replayEnd t l n s).view = s.view ∧ (replayEnd t l n s).panel = s.panel ∧ (replayEnd t l n s).uplink = s.uplink := by
  unfold replayEnd
  try dsimp only
  (repeat' split) <;> simp

@[simp] theorem replayRead_frame (l : LaneId) (s : State) :
    (replayRead l s).pending = s.pending ∧ (replayRead l s).resetN = s.resetN ∧ (replayRead l s).pods = s.pods ∧
    (replayRead l s).time = s.time ∧ (replayRead l s).tables = s.tables ∧ (replayRead l s).view = s.view ∧
    (replayRead l s).panel = s.panel ∧ (replayRead l s).uplink = s.uplink := by
  unfold replayRead
  try dsimp only
  (repeat' split) <;> simp

@[simp] theorem beginColumn_frame (p : Pass) (s : State) :
    (beginColumn p s).pending = s.pending ∧ (beginColumn p s).resetN = s.resetN ∧ (beginColumn p s).pods = s.pods ∧
    (beginColumn p s).time = s.time ∧ (beginColumn p s).capture = s.capture ∧ (beginColumn p s).trigger = s.trigger ∧
    (beginColumn p s).tables = s.tables ∧ (beginColumn p s).lanes = s.lanes ∧ (beginColumn p s).rpath = s.rpath ∧
    (beginColumn p s).panel = s.panel ∧ (beginColumn p s).events = s.events ∧ (beginColumn p s).uplink = s.uplink := by
  unfold beginColumn
  try dsimp only
  simp

@[simp] theorem beginPass_frame (n : Snapshot) (s : State) :
    (beginPass n s).pending = s.pending ∧ (beginPass n s).resetN = s.resetN ∧ (beginPass n s).pods = s.pods ∧
    (beginPass n s).time = s.time ∧ (beginPass n s).capture = s.capture ∧ (beginPass n s).trigger = s.trigger ∧
    (beginPass n s).tables = s.tables ∧ (beginPass n s).lanes = s.lanes ∧ (beginPass n s).rpath = s.rpath ∧
    (beginPass n s).panel = s.panel ∧ (beginPass n s).events = s.events ∧ (beginPass n s).uplink = s.uplink := by
  unfold beginPass
  try dsimp only
  simp

@[simp] theorem startPass_frame (s : State) :
    (startPass s).pending = s.pending ∧ (startPass s).resetN = s.resetN ∧ (startPass s).pods = s.pods ∧
    (startPass s).time = s.time ∧ (startPass s).capture = s.capture ∧ (startPass s).trigger = s.trigger ∧
    (startPass s).tables = s.tables ∧ (startPass s).lanes = s.lanes ∧ (startPass s).rpath = s.rpath ∧
    (startPass s).panel = s.panel ∧ (startPass s).events = s.events ∧ (startPass s).uplink = s.uplink := by
  unfold startPass
  try dsimp only
  (repeat' split) <;> simp

@[simp] theorem viewRequest_frame (s : State) :
    (viewRequest s).pending = s.pending ∧ (viewRequest s).resetN = s.resetN ∧ (viewRequest s).pods = s.pods ∧
    (viewRequest s).time = s.time ∧ (viewRequest s).capture = s.capture ∧ (viewRequest s).trigger = s.trigger ∧
    (viewRequest s).tables = s.tables ∧ (viewRequest s).lanes = s.lanes ∧ (viewRequest s).rpath = s.rpath ∧
    (viewRequest s).panel = s.panel ∧ (viewRequest s).events = s.events ∧ (viewRequest s).uplink = s.uplink := by
  unfold viewRequest
  try dsimp only
  (repeat' split) <;> simp

@[simp] theorem finishPass_frame (p : Pass) (s : State) :
    (finishPass p s).pending = s.pending ∧ (finishPass p s).resetN = s.resetN ∧ (finishPass p s).pods = s.pods ∧
    (finishPass p s).time = s.time ∧ (finishPass p s).capture = s.capture ∧ (finishPass p s).trigger = s.trigger ∧
    (finishPass p s).tables = s.tables ∧ (finishPass p s).lanes = s.lanes ∧ (finishPass p s).rpath = s.rpath ∧
    (finishPass p s).panel = s.panel ∧ (finishPass p s).uplink = s.uplink := by
  unfold finishPass
  try dsimp only
  (repeat' split) <;> simp

@[simp] theorem columnBoundary_frame (p : Pass) (s : State) :
    (columnBoundary p s).pending = s.pending ∧ (columnBoundary p s).resetN = s.resetN ∧
    (columnBoundary p s).pods = s.pods ∧ (columnBoundary p s).time = s.time ∧
    (columnBoundary p s).capture = s.capture ∧ (columnBoundary p s).trigger = s.trigger ∧
    (columnBoundary p s).tables = s.tables ∧ (columnBoundary p s).lanes = s.lanes ∧
    (columnBoundary p s).rpath = s.rpath ∧ (columnBoundary p s).panel = s.panel ∧
    (columnBoundary p s).uplink = s.uplink := by
  unfold columnBoundary
  try dsimp only
  (repeat' split) <;> simp

@[simp] theorem finishColumn_frame (p : Pass) (s : State) :
    (finishColumn p s).pending = s.pending ∧ (finishColumn p s).resetN = s.resetN ∧
    (finishColumn p s).pods = s.pods ∧ (finishColumn p s).time = s.time ∧ (finishColumn p s).capture = s.capture ∧
    (finishColumn p s).trigger = s.trigger ∧ (finishColumn p s).tables = s.tables ∧
    (finishColumn p s).lanes = s.lanes ∧ (finishColumn p s).rpath = s.rpath ∧ (finishColumn p s).panel = s.panel ∧
    (finishColumn p s).uplink = s.uplink := by
  unfold finishColumn
  try dsimp only
  simp

@[simp] theorem passAccess_frame (p : Pass) (s : State) :
    (passAccess p s).pending = s.pending ∧ (passAccess p s).resetN = s.resetN ∧ (passAccess p s).pods = s.pods ∧
    (passAccess p s).time = s.time ∧ (passAccess p s).capture = s.capture ∧ (passAccess p s).trigger = s.trigger ∧
    (passAccess p s).tables = s.tables ∧ (passAccess p s).lanes = s.lanes ∧ (passAccess p s).rpath = s.rpath ∧
    (passAccess p s).panel = s.panel ∧ (passAccess p s).uplink = s.uplink := by
  unfold passAccess
  try dsimp only
  (repeat' split) <;> simp

@[simp] theorem finishMeasure_frame (m : MeasureRun) (r : MeasureResult) (s : State) :
    (finishMeasure m r s).pending = s.pending ∧ (finishMeasure m r s).resetN = s.resetN ∧
    (finishMeasure m r s).pods = s.pods ∧ (finishMeasure m r s).time = s.time ∧
    (finishMeasure m r s).capture = s.capture ∧ (finishMeasure m r s).trigger = s.trigger ∧
    (finishMeasure m r s).tables = s.tables ∧ (finishMeasure m r s).lanes = s.lanes ∧
    (finishMeasure m r s).rpath = s.rpath ∧ (finishMeasure m r s).panel = s.panel ∧
    (finishMeasure m r s).uplink = s.uplink := by
  unfold finishMeasure
  try dsimp only
  simp

@[simp] theorem overtakeMeasure_frame (m : MeasureRun) (s : State) :
    (overtakeMeasure m s).pending = s.pending ∧ (overtakeMeasure m s).resetN = s.resetN ∧
    (overtakeMeasure m s).pods = s.pods ∧ (overtakeMeasure m s).time = s.time ∧
    (overtakeMeasure m s).capture = s.capture ∧ (overtakeMeasure m s).trigger = s.trigger ∧
    (overtakeMeasure m s).tables = s.tables ∧ (overtakeMeasure m s).lanes = s.lanes ∧
    (overtakeMeasure m s).rpath = s.rpath ∧ (overtakeMeasure m s).panel = s.panel ∧
    (overtakeMeasure m s).uplink = s.uplink := by
  unfold overtakeMeasure
  try dsimp only
  simp

@[simp] theorem settleMeasure_frame (m : MeasureRun) (s : State) :
    (settleMeasure m s).pending = s.pending ∧ (settleMeasure m s).resetN = s.resetN ∧
    (settleMeasure m s).pods = s.pods ∧ (settleMeasure m s).time = s.time ∧ (settleMeasure m s).capture = s.capture ∧
    (settleMeasure m s).trigger = s.trigger ∧ (settleMeasure m s).tables = s.tables ∧
    (settleMeasure m s).lanes = s.lanes ∧ (settleMeasure m s).rpath = s.rpath ∧ (settleMeasure m s).panel = s.panel ∧
    (settleMeasure m s).uplink = s.uplink := by
  unfold settleMeasure
  try dsimp only
  (repeat' split) <;> simp

@[simp] theorem measureAccess_frame (m : MeasureRun) (s : State) :
    (measureAccess m s).pending = s.pending ∧ (measureAccess m s).resetN = s.resetN ∧
    (measureAccess m s).pods = s.pods ∧ (measureAccess m s).time = s.time ∧ (measureAccess m s).capture = s.capture ∧
    (measureAccess m s).trigger = s.trigger ∧ (measureAccess m s).tables = s.tables ∧
    (measureAccess m s).lanes = s.lanes ∧ (measureAccess m s).rpath = s.rpath ∧ (measureAccess m s).panel = s.panel ∧
    (measureAccess m s).uplink = s.uplink := by
  unfold measureAccess
  try dsimp only
  simp

@[simp] theorem measureAfterWrite_frame (i : Nat) (s : State) :
    (measureAfterWrite i s).pending = s.pending ∧ (measureAfterWrite i s).resetN = s.resetN ∧
    (measureAfterWrite i s).pods = s.pods ∧ (measureAfterWrite i s).time = s.time ∧
    (measureAfterWrite i s).capture = s.capture ∧ (measureAfterWrite i s).trigger = s.trigger ∧
    (measureAfterWrite i s).tables = s.tables ∧ (measureAfterWrite i s).lanes = s.lanes ∧
    (measureAfterWrite i s).rpath = s.rpath ∧ (measureAfterWrite i s).panel = s.panel ∧
    (measureAfterWrite i s).uplink = s.uplink := by
  unfold measureAfterWrite
  try dsimp only
  (repeat' split) <;> simp

@[simp] theorem viewAccess_frame (s : State) :
    (viewAccess s).pending = s.pending ∧ (viewAccess s).resetN = s.resetN ∧ (viewAccess s).pods = s.pods ∧
    (viewAccess s).time = s.time ∧ (viewAccess s).capture = s.capture ∧ (viewAccess s).trigger = s.trigger ∧
    (viewAccess s).tables = s.tables ∧ (viewAccess s).lanes = s.lanes ∧ (viewAccess s).rpath = s.rpath ∧
    (viewAccess s).panel = s.panel ∧ (viewAccess s).uplink = s.uplink := by
  unfold viewAccess
  try dsimp only
  (repeat' split) <;> simp

@[simp] theorem rollUpdate_frame (s : State) :
    (rollUpdate s).pending = s.pending ∧ (rollUpdate s).resetN = s.resetN ∧ (rollUpdate s).pods = s.pods ∧
    (rollUpdate s).time = s.time ∧ (rollUpdate s).capture = s.capture ∧ (rollUpdate s).trigger = s.trigger ∧
    (rollUpdate s).tables = s.tables ∧ (rollUpdate s).lanes = s.lanes ∧ (rollUpdate s).rpath = s.rpath ∧
    (rollUpdate s).panel = s.panel ∧ (rollUpdate s).events = s.events ∧ (rollUpdate s).uplink = s.uplink := by
  unfold rollUpdate
  try dsimp only
  (repeat' split) <;> simp

@[simp] theorem endMeasure_frame (s : State) :
    (endMeasure s).pending = s.pending ∧ (endMeasure s).resetN = s.resetN ∧ (endMeasure s).pods = s.pods ∧
    (endMeasure s).time = s.time ∧ (endMeasure s).capture = s.capture ∧ (endMeasure s).trigger = s.trigger ∧
    (endMeasure s).tables = s.tables ∧ (endMeasure s).lanes = s.lanes ∧ (endMeasure s).rpath = s.rpath ∧
    (endMeasure s).panel = s.panel ∧ (endMeasure s).uplink = s.uplink := by
  unfold endMeasure
  try dsimp only
  (repeat' split) <;> simp

@[simp] theorem viewAtRun_frame (s : State) :
    (viewAtRun s).pending = s.pending ∧ (viewAtRun s).resetN = s.resetN ∧ (viewAtRun s).pods = s.pods ∧
    (viewAtRun s).time = s.time ∧ (viewAtRun s).capture = s.capture ∧ (viewAtRun s).trigger = s.trigger ∧
    (viewAtRun s).tables = s.tables ∧ (viewAtRun s).lanes = s.lanes ∧ (viewAtRun s).rpath = s.rpath ∧
    (viewAtRun s).panel = s.panel ∧ (viewAtRun s).uplink = s.uplink := by
  unfold viewAtRun
  try dsimp only
  (repeat' split) <;> simp

@[simp] theorem referenceCount_frame (s : State) :
    (referenceCount s).pending = s.pending ∧ (referenceCount s).resetN = s.resetN ∧
    (referenceCount s).pods = s.pods ∧ (referenceCount s).capture = s.capture ∧
    (referenceCount s).tables = s.tables ∧ (referenceCount s).lanes = s.lanes ∧ (referenceCount s).rpath = s.rpath ∧
    (referenceCount s).panel = s.panel ∧ (referenceCount s).uplink = s.uplink := by
  unfold referenceCount
  try dsimp only
  (repeat' split) <;> simp

@[simp] theorem enqueue_frame (i : Nat) (r : Record) (p : Bool) (s : State) :
    (enqueue i r p s).pending = s.pending ∧ (enqueue i r p s).resetN = s.resetN ∧ (enqueue i r p s).pods = s.pods ∧
    (enqueue i r p s).time = s.time ∧ (enqueue i r p s).trigger = s.trigger ∧ (enqueue i r p s).tables = s.tables ∧
    (enqueue i r p s).lanes = s.lanes ∧ (enqueue i r p s).rpath = s.rpath ∧ (enqueue i r p s).view = s.view ∧
    (enqueue i r p s).panel = s.panel ∧ (enqueue i r p s).events = s.events ∧ (enqueue i r p s).uplink = s.uplink := by
  unfold enqueue
  try dsimp only
  simp

@[simp] theorem placeOverrun_frame (i : Nat) (o : Overrun) (r : Record) (p : Bool) (s : State) :
    (placeOverrun i o r p s).pending = s.pending ∧ (placeOverrun i o r p s).resetN = s.resetN ∧
    (placeOverrun i o r p s).pods = s.pods ∧ (placeOverrun i o r p s).time = s.time ∧
    (placeOverrun i o r p s).trigger = s.trigger ∧ (placeOverrun i o r p s).tables = s.tables ∧
    (placeOverrun i o r p s).lanes = s.lanes ∧ (placeOverrun i o r p s).rpath = s.rpath ∧
    (placeOverrun i o r p s).view = s.view ∧ (placeOverrun i o r p s).panel = s.panel ∧
    (placeOverrun i o r p s).events = s.events ∧ (placeOverrun i o r p s).uplink = s.uplink := by
  unfold placeOverrun
  try dsimp only
  simp

@[simp] theorem loseRecord_frame (i : Nat) (r : Record) (s : State) :
    (loseRecord i r s).pending = s.pending ∧ (loseRecord i r s).resetN = s.resetN ∧
    (loseRecord i r s).pods = s.pods ∧ (loseRecord i r s).time = s.time ∧ (loseRecord i r s).trigger = s.trigger ∧
    (loseRecord i r s).tables = s.tables ∧ (loseRecord i r s).lanes = s.lanes ∧ (loseRecord i r s).rpath = s.rpath ∧
    (loseRecord i r s).view = s.view ∧ (loseRecord i r s).panel = s.panel ∧ (loseRecord i r s).uplink = s.uplink := by
  unfold loseRecord
  try dsimp only
  simp

@[simp] theorem takeReference_frame (i : Nat) (r : Record) (s : State) :
    (takeReference i r s).pending = s.pending ∧ (takeReference i r s).resetN = s.resetN ∧
    (takeReference i r s).pods = s.pods ∧ (takeReference i r s).time = s.time ∧
    (takeReference i r s).trigger = s.trigger ∧ (takeReference i r s).tables = s.tables ∧
    (takeReference i r s).lanes = s.lanes ∧ (takeReference i r s).rpath = s.rpath ∧
    (takeReference i r s).view = s.view ∧ (takeReference i r s).panel = s.panel ∧
    (takeReference i r s).events = s.events ∧ (takeReference i r s).uplink = s.uplink := by
  unfold takeReference
  try dsimp only
  simp

@[simp] theorem produce_frame (i : Nat) (r : Record) (p : Bool) (s : State) :
    (produce i r p s).pending = s.pending ∧ (produce i r p s).resetN = s.resetN ∧ (produce i r p s).pods = s.pods ∧
    (produce i r p s).time = s.time ∧ (produce i r p s).trigger = s.trigger ∧ (produce i r p s).tables = s.tables ∧
    (produce i r p s).lanes = s.lanes ∧ (produce i r p s).rpath = s.rpath ∧ (produce i r p s).view = s.view ∧
    (produce i r p s).panel = s.panel ∧ (produce i r p s).uplink = s.uplink := by
  unfold produce
  try dsimp only
  (repeat' split) <;> simp

@[simp] theorem beginSegment_frame (i t : Nat) (s : State) :
    (beginSegment i t s).pending = s.pending ∧ (beginSegment i t s).resetN = s.resetN ∧
    (beginSegment i t s).pods = s.pods ∧ (beginSegment i t s).time = s.time ∧
    (beginSegment i t s).trigger = s.trigger ∧ (beginSegment i t s).tables = s.tables ∧
    (beginSegment i t s).lanes = s.lanes ∧ (beginSegment i t s).rpath = s.rpath ∧
    (beginSegment i t s).view = s.view ∧ (beginSegment i t s).panel = s.panel ∧
    (beginSegment i t s).events = s.events ∧ (beginSegment i t s).uplink = s.uplink := by
  unfold beginSegment
  try dsimp only
  simp

@[simp] theorem produceStart_frame (i t : Nat) (m : Sample) (s : State) :
    (produceStart i t m s).pending = s.pending ∧ (produceStart i t m s).resetN = s.resetN ∧
    (produceStart i t m s).pods = s.pods ∧ (produceStart i t m s).time = s.time ∧
    (produceStart i t m s).trigger = s.trigger ∧ (produceStart i t m s).tables = s.tables ∧
    (produceStart i t m s).lanes = s.lanes ∧ (produceStart i t m s).rpath = s.rpath ∧
    (produceStart i t m s).view = s.view ∧ (produceStart i t m s).panel = s.panel ∧
    (produceStart i t m s).events = s.events ∧ (produceStart i t m s).uplink = s.uplink := by
  unfold produceStart
  try dsimp only
  simp

@[simp] theorem producePod_frame (i t : Nat) (m : Sample) (p : Bool) (s : State) :
    (producePod i t m p s).pending = s.pending ∧ (producePod i t m p s).resetN = s.resetN ∧
    (producePod i t m p s).pods = s.pods ∧ (producePod i t m p s).time = s.time ∧
    (producePod i t m p s).trigger = s.trigger ∧ (producePod i t m p s).tables = s.tables ∧
    (producePod i t m p s).lanes = s.lanes ∧ (producePod i t m p s).rpath = s.rpath ∧
    (producePod i t m p s).view = s.view ∧ (producePod i t m p s).panel = s.panel ∧
    (producePod i t m p s).uplink = s.uplink := by
  unfold producePod
  try dsimp only
  simp

@[simp] theorem produceChange_frame (i t : Nat) (m : Sample) (p : Bool) (s : State) :
    (produceChange i t m p s).pending = s.pending ∧ (produceChange i t m p s).resetN = s.resetN ∧
    (produceChange i t m p s).pods = s.pods ∧ (produceChange i t m p s).time = s.time ∧
    (produceChange i t m p s).trigger = s.trigger ∧ (produceChange i t m p s).tables = s.tables ∧
    (produceChange i t m p s).lanes = s.lanes ∧ (produceChange i t m p s).rpath = s.rpath ∧
    (produceChange i t m p s).view = s.view ∧ (produceChange i t m p s).panel = s.panel ∧
    (produceChange i t m p s).uplink = s.uplink := by
  unfold produceChange
  try dsimp only
  simp

@[simp] theorem produceSample_frame (i t : Nat) (m : Sample) (e : Bool) (s : State) :
    (produceSample i t m e s).pending = s.pending ∧ (produceSample i t m e s).resetN = s.resetN ∧
    (produceSample i t m e s).pods = s.pods ∧ (produceSample i t m e s).time = s.time ∧
    (produceSample i t m e s).trigger = s.trigger ∧ (produceSample i t m e s).tables = s.tables ∧
    (produceSample i t m e s).lanes = s.lanes ∧ (produceSample i t m e s).rpath = s.rpath ∧
    (produceSample i t m e s).view = s.view ∧ (produceSample i t m e s).panel = s.panel ∧
    (produceSample i t m e s).uplink = s.uplink := by
  unfold produceSample
  try dsimp only
  (repeat' split) <;> simp

@[simp] theorem captureSample_frame (t : Nat) (m : Sample) (e : Bool) (s : State) :
    (captureSample t m e s).pending = s.pending ∧ (captureSample t m e s).resetN = s.resetN ∧
    (captureSample t m e s).pods = s.pods ∧ (captureSample t m e s).time = s.time ∧
    (captureSample t m e s).trigger = s.trigger ∧ (captureSample t m e s).tables = s.tables ∧
    (captureSample t m e s).lanes = s.lanes ∧ (captureSample t m e s).rpath = s.rpath ∧
    (captureSample t m e s).view = s.view ∧ (captureSample t m e s).panel = s.panel ∧
    (captureSample t m e s).uplink = s.uplink := by
  unfold captureSample
  try dsimp only
  (repeat' split) <;> simp

@[simp] theorem closeSegment_frame (i : Nat) (b : Bool) (s : State) :
    (closeSegment i b s).pending = s.pending ∧ (closeSegment i b s).resetN = s.resetN ∧
    (closeSegment i b s).pods = s.pods ∧ (closeSegment i b s).time = s.time ∧
    (closeSegment i b s).trigger = s.trigger ∧ (closeSegment i b s).tables = s.tables ∧
    (closeSegment i b s).lanes = s.lanes ∧ (closeSegment i b s).rpath = s.rpath ∧
    (closeSegment i b s).view = s.view ∧ (closeSegment i b s).panel = s.panel ∧
    (closeSegment i b s).events = s.events ∧ (closeSegment i b s).uplink = s.uplink := by
  unfold closeSegment
  try dsimp only
  (repeat' split) <;> simp

@[simp] theorem startSampling_frame (s : State) :
    (startSampling s).pending = s.pending ∧ (startSampling s).resetN = s.resetN ∧ (startSampling s).pods = s.pods ∧
    (startSampling s).capture = s.capture ∧ (startSampling s).tables = s.tables ∧ (startSampling s).rpath = s.rpath ∧
    (startSampling s).view = s.view ∧ (startSampling s).panel = s.panel ∧ (startSampling s).events = s.events ∧
    (startSampling s).uplink = s.uplink := by
  unfold startSampling
  try dsimp only
  simp

@[simp] theorem stopSampling_frame (g : Option Nat) (s : State) :
    (stopSampling g s).pending = s.pending ∧ (stopSampling g s).resetN = s.resetN ∧
    (stopSampling g s).pods = s.pods ∧ (stopSampling g s).tables = s.tables ∧ (stopSampling g s).view = s.view ∧
    (stopSampling g s).panel = s.panel ∧ (stopSampling g s).uplink = s.uplink := by
  unfold stopSampling
  try dsimp only
  simp

@[simp] theorem endCapture_frame (i : Nat) (b : Bool) (s : State) :
    (endCapture i b s).pending = s.pending ∧ (endCapture i b s).resetN = s.resetN ∧
    (endCapture i b s).pods = s.pods ∧ (endCapture i b s).tables = s.tables ∧ (endCapture i b s).view = s.view ∧
    (endCapture i b s).panel = s.panel ∧ (endCapture i b s).uplink = s.uplink := by
  unfold endCapture
  try dsimp only
  simp

@[simp] theorem endMonitor_frame (s : State) :
    (endMonitor s).pending = s.pending ∧ (endMonitor s).resetN = s.resetN ∧ (endMonitor s).pods = s.pods ∧
    (endMonitor s).tables = s.tables ∧ (endMonitor s).view = s.view ∧ (endMonitor s).panel = s.panel ∧
    (endMonitor s).uplink = s.uplink := by
  unfold endMonitor
  try dsimp only
  simp

@[simp] theorem stopCapture_frame (s : State) :
    (stopCapture s).pending = s.pending ∧ (stopCapture s).resetN = s.resetN ∧ (stopCapture s).pods = s.pods ∧
    (stopCapture s).tables = s.tables ∧ (stopCapture s).view = s.view ∧ (stopCapture s).panel = s.panel ∧
    (stopCapture s).uplink = s.uplink := by
  unfold stopCapture
  try dsimp only
  (repeat' split) <;> simp

@[simp] theorem timeLimitStop_frame (s : State) :
    (timeLimitStop s).pending = s.pending ∧ (timeLimitStop s).resetN = s.resetN ∧ (timeLimitStop s).pods = s.pods ∧
    (timeLimitStop s).tables = s.tables ∧ (timeLimitStop s).view = s.view ∧ (timeLimitStop s).panel = s.panel ∧
    (timeLimitStop s).uplink = s.uplink := by
  unfold timeLimitStop
  try dsimp only
  (repeat' split) <;> simp

@[simp] theorem settleTimeLimit_frame (s : State) :
    (settleTimeLimit s).pending = s.pending ∧ (settleTimeLimit s).resetN = s.resetN ∧
    (settleTimeLimit s).pods = s.pods ∧ (settleTimeLimit s).tables = s.tables ∧ (settleTimeLimit s).view = s.view ∧
    (settleTimeLimit s).panel = s.panel ∧ (settleTimeLimit s).uplink = s.uplink := by
  unfold settleTimeLimit
  try dsimp only
  (repeat' split) <;> simp

@[simp] theorem completePostFill_frame (i : Nat) (s : State) :
    (completePostFill i s).pending = s.pending ∧ (completePostFill i s).resetN = s.resetN ∧
    (completePostFill i s).pods = s.pods ∧ (completePostFill i s).tables = s.tables ∧
    (completePostFill i s).view = s.view ∧ (completePostFill i s).panel = s.panel ∧
    (completePostFill i s).uplink = s.uplink := by
  unfold completePostFill
  try dsimp only
  (repeat' split) <;> simp

@[simp] theorem settlePostFill_frame (s : State) :
    (settlePostFill s).pending = s.pending ∧ (settlePostFill s).resetN = s.resetN ∧
    (settlePostFill s).pods = s.pods ∧ (settlePostFill s).tables = s.tables ∧ (settlePostFill s).view = s.view ∧
    (settlePostFill s).panel = s.panel ∧ (settlePostFill s).uplink = s.uplink := by
  unfold settlePostFill
  try dsimp only
  (repeat' split) <;> simp

@[simp] theorem settleAtTrigger_frame (s : State) :
    (settleAtTrigger s).pending = s.pending ∧ (settleAtTrigger s).resetN = s.resetN ∧
    (settleAtTrigger s).pods = s.pods ∧ (settleAtTrigger s).tables = s.tables ∧ (settleAtTrigger s).view = s.view ∧
    (settleAtTrigger s).panel = s.panel ∧ (settleAtTrigger s).uplink = s.uplink := by
  unfold settleAtTrigger
  split <;> simp

@[simp] theorem stampedSample_frame (t : Nat) (m : Sample) (e : Bool) (s : State) :
    (stampedSample t m e s).pending = s.pending ∧ (stampedSample t m e s).resetN = s.resetN ∧
    (stampedSample t m e s).pods = s.pods ∧ (stampedSample t m e s).tables = s.tables ∧
    (stampedSample t m e s).view = s.view ∧ (stampedSample t m e s).panel = s.panel ∧
    (stampedSample t m e s).uplink = s.uplink := by
  unfold stampedSample
  try dsimp only
  (repeat' split) <;> simp

@[simp] theorem settleBeforeSample_frame (s : State) :
    (settleBeforeSample s).pending = s.pending ∧ (settleBeforeSample s).resetN = s.resetN ∧
    (settleBeforeSample s).pods = s.pods ∧ (settleBeforeSample s).tables = s.tables ∧
    (settleBeforeSample s).view = s.view ∧ (settleBeforeSample s).panel = s.panel ∧
    (settleBeforeSample s).uplink = s.uplink := by
  unfold settleBeforeSample
  try dsimp only
  simp

@[simp] theorem gridTick_frame (b : Bool) (s : State) :
    (gridTick b s).pending = s.pending ∧ (gridTick b s).resetN = s.resetN ∧ (gridTick b s).tables = s.tables ∧
    (gridTick b s).view = s.view ∧ (gridTick b s).panel = s.panel ∧ (gridTick b s).uplink = s.uplink := by
  unfold gridTick
  try dsimp only
  (repeat' split) <;> simp

@[simp] theorem settleIndex_frame (i : Nat) (s : State) :
    (settleIndex i s).pending = s.pending ∧ (settleIndex i s).resetN = s.resetN ∧ (settleIndex i s).pods = s.pods ∧
    (settleIndex i s).time = s.time ∧ (settleIndex i s).trigger = s.trigger ∧ (settleIndex i s).tables = s.tables ∧
    (settleIndex i s).lanes = s.lanes ∧ (settleIndex i s).rpath = s.rpath ∧ (settleIndex i s).view = s.view ∧
    (settleIndex i s).panel = s.panel ∧ (settleIndex i s).events = s.events ∧ (settleIndex i s).uplink = s.uplink := by
  unfold settleIndex
  try dsimp only
  (repeat' split) <;> simp

@[simp] theorem closeWritten_frame (i : Nat) (s : State) :
    (closeWritten i s).pending = s.pending ∧ (closeWritten i s).resetN = s.resetN ∧
    (closeWritten i s).pods = s.pods ∧ (closeWritten i s).time = s.time ∧ (closeWritten i s).trigger = s.trigger ∧
    (closeWritten i s).tables = s.tables ∧ (closeWritten i s).lanes = s.lanes ∧ (closeWritten i s).rpath = s.rpath ∧
    (closeWritten i s).view = s.view ∧ (closeWritten i s).panel = s.panel ∧ (closeWritten i s).uplink = s.uplink := by
  unfold closeWritten
  try dsimp only
  (repeat' split) <;> simp

@[simp] theorem ringWrite_frame (q : Queued) (r : List Queued) (s : State) :
    (ringWrite q r s).pending = s.pending ∧ (ringWrite q r s).resetN = s.resetN ∧ (ringWrite q r s).pods = s.pods ∧
    (ringWrite q r s).time = s.time ∧ (ringWrite q r s).trigger = s.trigger ∧ (ringWrite q r s).tables = s.tables ∧
    (ringWrite q r s).lanes = s.lanes ∧ (ringWrite q r s).panel = s.panel ∧ (ringWrite q r s).uplink = s.uplink := by
  unfold ringWrite
  try dsimp only
  (repeat' split) <;> simp

@[simp] theorem readRecord_frame (r : RecordReadout) (s : State) :
    (readRecord r s).pending = s.pending ∧ (readRecord r s).resetN = s.resetN ∧ (readRecord r s).pods = s.pods ∧
    (readRecord r s).time = s.time ∧ (readRecord r s).trigger = s.trigger ∧ (readRecord r s).tables = s.tables ∧
    (readRecord r s).lanes = s.lanes ∧ (readRecord r s).rpath = s.rpath ∧ (readRecord r s).view = s.view ∧
    (readRecord r s).panel = s.panel ∧ (readRecord r s).events = s.events ∧ (readRecord r s).uplink = s.uplink := by
  unfold readRecord
  try dsimp only
  simp

@[simp] theorem readoutAccess_frame (s : State) :
    (readoutAccess s).pending = s.pending ∧ (readoutAccess s).resetN = s.resetN ∧ (readoutAccess s).pods = s.pods ∧
    (readoutAccess s).time = s.time ∧ (readoutAccess s).trigger = s.trigger ∧ (readoutAccess s).tables = s.tables ∧
    (readoutAccess s).lanes = s.lanes ∧ (readoutAccess s).view = s.view ∧ (readoutAccess s).panel = s.panel ∧
    (readoutAccess s).events = s.events ∧ (readoutAccess s).uplink = s.uplink := by
  unfold readoutAccess
  try dsimp only
  (repeat' split) <;> simp

@[simp] theorem newLayout_frame (s : State) :
    (newLayout s).pending = s.pending ∧ (newLayout s).resetN = s.resetN ∧ (newLayout s).pods = s.pods ∧
    (newLayout s).time = s.time ∧ (newLayout s).trigger = s.trigger ∧ (newLayout s).tables = s.tables ∧
    (newLayout s).lanes = s.lanes ∧ (newLayout s).view = s.view ∧ (newLayout s).panel = s.panel ∧
    (newLayout s).events = s.events ∧ (newLayout s).uplink = s.uplink := by
  unfold newLayout
  try dsimp only
  simp

@[simp] theorem startCapture_frame (s : State) :
    (startCapture s).pending = s.pending ∧ (startCapture s).resetN = s.resetN ∧ (startCapture s).pods = s.pods ∧
    (startCapture s).tables = s.tables ∧ (startCapture s).panel = s.panel ∧ (startCapture s).uplink = s.uplink := by
  unfold startCapture
  try dsimp only
  simp

@[simp] theorem stopHunting_frame (l : LaneId) (s : State) :
    (stopHunting l s).pending = s.pending ∧ (stopHunting l s).resetN = s.resetN ∧ (stopHunting l s).pods = s.pods ∧
    (stopHunting l s).time = s.time ∧ (stopHunting l s).tables = s.tables ∧ (stopHunting l s).view = s.view ∧
    (stopHunting l s).panel = s.panel ∧ (stopHunting l s).uplink = s.uplink := by
  unfold stopHunting
  try dsimp only
  simp

@[simp] theorem stopGraceful_frame (l : LaneId) (s : State) :
    (stopGraceful l s).pending = s.pending ∧ (stopGraceful l s).resetN = s.resetN ∧
    (stopGraceful l s).pods = s.pods ∧ (stopGraceful l s).time = s.time ∧ (stopGraceful l s).tables = s.tables ∧
    (stopGraceful l s).view = s.view ∧ (stopGraceful l s).panel = s.panel ∧ (stopGraceful l s).uplink = s.uplink := by
  unfold stopGraceful
  try dsimp only
  (repeat' split) <;> simp

@[simp] theorem stopNow_frame (l : LaneId) (s : State) :
    (stopNow l s).pending = s.pending ∧ (stopNow l s).resetN = s.resetN ∧ (stopNow l s).pods = s.pods ∧
    (stopNow l s).time = s.time ∧ (stopNow l s).tables = s.tables ∧ (stopNow l s).view = s.view ∧
    (stopNow l s).panel = s.panel ∧ (stopNow l s).uplink = s.uplink := by
  unfold stopNow
  try dsimp only
  (repeat' split) <;> simp

@[simp] theorem panelOn_frame (s : State) :
    (panelOn s).pending = s.pending ∧ (panelOn s).resetN = s.resetN ∧ (panelOn s).pods = s.pods ∧
    (panelOn s).time = s.time ∧ (panelOn s).capture = s.capture ∧ (panelOn s).trigger = s.trigger ∧
    (panelOn s).tables = s.tables ∧ (panelOn s).lanes = s.lanes ∧ (panelOn s).rpath = s.rpath ∧
    (panelOn s).view = s.view ∧ (panelOn s).events = s.events ∧ (panelOn s).uplink = s.uplink := by
  unfold panelOn
  try dsimp only
  simp

@[simp] theorem panelOff_frame (s : State) :
    (panelOff s).pending = s.pending ∧ (panelOff s).resetN = s.resetN ∧ (panelOff s).pods = s.pods ∧
    (panelOff s).time = s.time ∧ (panelOff s).capture = s.capture ∧ (panelOff s).trigger = s.trigger ∧
    (panelOff s).tables = s.tables ∧ (panelOff s).lanes = s.lanes ∧ (panelOff s).rpath = s.rpath ∧
    (panelOff s).events = s.events ∧ (panelOff s).uplink = s.uplink := by
  unfold panelOff
  try dsimp only
  simp

@[simp] theorem endFrameScan_frame (s : State) :
    (endFrameScan s).pending = s.pending ∧ (endFrameScan s).resetN = s.resetN ∧ (endFrameScan s).pods = s.pods ∧
    (endFrameScan s).time = s.time ∧ (endFrameScan s).capture = s.capture ∧ (endFrameScan s).trigger = s.trigger ∧
    (endFrameScan s).tables = s.tables ∧ (endFrameScan s).lanes = s.lanes ∧ (endFrameScan s).rpath = s.rpath ∧
    (endFrameScan s).events = s.events ∧ (endFrameScan s).uplink = s.uplink := by
  unfold endFrameScan
  try dsimp only
  simp

@[simp] theorem endPeriod_frame (s : State) :
    (endPeriod s).pending = s.pending ∧ (endPeriod s).resetN = s.resetN ∧ (endPeriod s).pods = s.pods ∧
    (endPeriod s).time = s.time ∧ (endPeriod s).capture = s.capture ∧ (endPeriod s).trigger = s.trigger ∧
    (endPeriod s).tables = s.tables ∧ (endPeriod s).lanes = s.lanes ∧ (endPeriod s).rpath = s.rpath ∧
    (endPeriod s).view = s.view ∧ (endPeriod s).events = s.events ∧ (endPeriod s).uplink = s.uplink := by
  unfold endPeriod
  try dsimp only
  simp

@[simp] theorem badPacket_frame (s : State) :
    (badPacket s).pending = s.pending ∧ (badPacket s).resetN = s.resetN ∧ (badPacket s).pods = s.pods ∧
    (badPacket s).time = s.time ∧ (badPacket s).capture = s.capture ∧ (badPacket s).trigger = s.trigger ∧
    (badPacket s).tables = s.tables ∧ (badPacket s).lanes = s.lanes ∧ (badPacket s).rpath = s.rpath ∧
    (badPacket s).view = s.view ∧ (badPacket s).panel = s.panel ∧ (badPacket s).uplink = s.uplink := by
  unfold badPacket
  try dsimp only
  simp

@[simp] theorem receiveHeader_frame (h : Word) (s : State) :
    (receiveHeader h s).pending = s.pending ∧ (receiveHeader h s).resetN = s.resetN ∧
    (receiveHeader h s).pods = s.pods ∧ (receiveHeader h s).time = s.time ∧ (receiveHeader h s).capture = s.capture ∧
    (receiveHeader h s).trigger = s.trigger ∧ (receiveHeader h s).tables = s.tables ∧
    (receiveHeader h s).lanes = s.lanes ∧ (receiveHeader h s).rpath = s.rpath ∧ (receiveHeader h s).view = s.view ∧
    (receiveHeader h s).panel = s.panel := by
  unfold receiveHeader
  try dsimp only
  (repeat' split) <;> simp

@[simp] theorem receivePayload_frame (w : Word) (s : State) :
    (receivePayload w s).pending = s.pending ∧ (receivePayload w s).resetN = s.resetN ∧
    (receivePayload w s).pods = s.pods ∧ (receivePayload w s).time = s.time ∧
    (receivePayload w s).capture = s.capture ∧ (receivePayload w s).trigger = s.trigger ∧
    (receivePayload w s).tables = s.tables ∧ (receivePayload w s).lanes = s.lanes ∧
    (receivePayload w s).rpath = s.rpath ∧ (receivePayload w s).view = s.view ∧
    (receivePayload w s).panel = s.panel := by
  unfold receivePayload
  try dsimp only
  (repeat' split) <;> simp

@[simp] theorem send_frame (w : List Word) (x : TxSource) (s : State) :
    (send w x s).pending = s.pending ∧ (send w x s).resetN = s.resetN ∧ (send w x s).pods = s.pods ∧
    (send w x s).time = s.time ∧ (send w x s).capture = s.capture ∧ (send w x s).trigger = s.trigger ∧
    (send w x s).tables = s.tables ∧ (send w x s).lanes = s.lanes ∧ (send w x s).rpath = s.rpath ∧
    (send w x s).view = s.view ∧ (send w x s).panel = s.panel ∧ (send w x s).events = s.events := by
  unfold send
  try dsimp only
  simp

@[simp] theorem grantNotice_frame (b : Fin 7) (s : State) :
    (grantNotice b s).pending = s.pending ∧ (grantNotice b s).resetN = s.resetN ∧ (grantNotice b s).pods = s.pods ∧
    (grantNotice b s).time = s.time ∧ (grantNotice b s).capture = s.capture ∧ (grantNotice b s).trigger = s.trigger ∧
    (grantNotice b s).tables = s.tables ∧ (grantNotice b s).lanes = s.lanes ∧ (grantNotice b s).rpath = s.rpath ∧
    (grantNotice b s).view = s.view ∧ (grantNotice b s).panel = s.panel := by
  unfold grantNotice
  try dsimp only
  simp

@[simp] theorem grantStream_frame (s : State) :
    (grantStream s).pending = s.pending ∧ (grantStream s).resetN = s.resetN ∧ (grantStream s).pods = s.pods ∧
    (grantStream s).time = s.time ∧ (grantStream s).capture = s.capture ∧ (grantStream s).trigger = s.trigger ∧
    (grantStream s).tables = s.tables ∧ (grantStream s).lanes = s.lanes ∧ (grantStream s).view = s.view ∧
    (grantStream s).panel = s.panel ∧ (grantStream s).events = s.events := by
  unfold grantStream
  try dsimp only
  simp

@[simp] theorem grantFrames_frame (r : FrameReadout) (s : State) :
    (grantFrames r s).pending = s.pending ∧ (grantFrames r s).resetN = s.resetN ∧ (grantFrames r s).pods = s.pods ∧
    (grantFrames r s).time = s.time ∧ (grantFrames r s).capture = s.capture ∧ (grantFrames r s).trigger = s.trigger ∧
    (grantFrames r s).tables = s.tables ∧ (grantFrames r s).lanes = s.lanes ∧ (grantFrames r s).view = s.view ∧
    (grantFrames r s).panel = s.panel ∧ (grantFrames r s).events = s.events := by
  unfold grantFrames
  try dsimp only
  simp

@[simp] theorem grantRecords_frame (r : RecordReadout) (s : State) :
    (grantRecords r s).pending = s.pending ∧ (grantRecords r s).resetN = s.resetN ∧
    (grantRecords r s).pods = s.pods ∧ (grantRecords r s).time = s.time ∧ (grantRecords r s).trigger = s.trigger ∧
    (grantRecords r s).tables = s.tables ∧ (grantRecords r s).lanes = s.lanes ∧ (grantRecords r s).rpath = s.rpath ∧
    (grantRecords r s).view = s.view ∧ (grantRecords r s).panel = s.panel ∧ (grantRecords r s).events = s.events := by
  unfold grantRecords
  try dsimp only
  simp

@[simp] theorem grantColumns_frame (c : ColumnReadout) (s : State) :
    (grantColumns c s).pending = s.pending ∧ (grantColumns c s).resetN = s.resetN ∧
    (grantColumns c s).pods = s.pods ∧ (grantColumns c s).time = s.time ∧ (grantColumns c s).capture = s.capture ∧
    (grantColumns c s).trigger = s.trigger ∧ (grantColumns c s).tables = s.tables ∧
    (grantColumns c s).lanes = s.lanes ∧ (grantColumns c s).rpath = s.rpath ∧ (grantColumns c s).panel = s.panel ∧
    (grantColumns c s).events = s.events := by
  unfold grantColumns
  try dsimp only
  simp

@[simp] theorem grantData_frame (s : State) :
    (grantData s).pending = s.pending ∧ (grantData s).resetN = s.resetN ∧ (grantData s).pods = s.pods ∧
    (grantData s).time = s.time ∧ (grantData s).trigger = s.trigger ∧ (grantData s).tables = s.tables ∧
    (grantData s).lanes = s.lanes ∧ (grantData s).rpath = s.rpath ∧ (grantData s).panel = s.panel ∧
    (grantData s).events = s.events := by
  unfold grantData
  try dsimp only
  (repeat' split) <;> simp

end Sys2Proof.Machine
end

