-- ==== Sys2Proof/Laws/Commands.lean ====
section
/-! SUPPORT. The frame of each command as its block takes it: the fields of the state that it never changes. -/

namespace Sys2Proof.Machine

@[simp] theorem accept_state (ws : List Word) (s : State) : (accept ws s).2 = s := rfl
@[simp] theorem accept_rc (ws : List Word) (s : State) : (accept ws s).1.rc = .ok := rfl
@[simp] theorem accept_words (ws : List Word) (s : State) : (accept ws s).1.words = ws := rfl
@[simp] theorem refuse_state (rc : RespCode) (s : State) : (refuse rc s).2 = s := rfl
@[simp] theorem refuse_rc (rc : RespCode) (s : State) : (refuse rc s).1.rc = rc := rfl
@[simp] theorem refuse_words (rc : RespCode) (s : State) : (refuse rc s).1.words = [] := rfl

@[simp] theorem replayFrom_frame (l : LaneId) (t : FrameTable) (i fromTick toTick : Nat) (store : Bool) (s : State) :
    (replayFrom l t i fromTick toTick store s).2.pending = s.pending ∧
    (replayFrom l t i fromTick toTick store s).2.resetN = s.resetN ∧
    (replayFrom l t i fromTick toTick store s).2.pods = s.pods ∧
    (replayFrom l t i fromTick toTick store s).2.time = s.time ∧
    (replayFrom l t i fromTick toTick store s).2.capture = s.capture ∧
    (replayFrom l t i fromTick toTick store s).2.trigger = s.trigger ∧
    (replayFrom l t i fromTick toTick store s).2.tables = s.tables ∧
    (replayFrom l t i fromTick toTick store s).2.view = s.view ∧
    (replayFrom l t i fromTick toTick store s).2.panel = s.panel ∧
    (replayFrom l t i fromTick toTick store s).2.events = s.events ∧
    (replayFrom l t i fromTick toTick store s).2.uplink = s.uplink := by
  unfold replayFrom
  try dsimp only
  (repeat' split) <;> simp

@[simp] theorem startMeasure_frame (tag : Tag) (i chan fromTime toTime : Nat) (s : State) :
    (startMeasure tag i chan fromTime toTime s).2.pending = s.pending ∧
    (startMeasure tag i chan fromTime toTime s).2.resetN = s.resetN ∧
    (startMeasure tag i chan fromTime toTime s).2.pods = s.pods ∧
    (startMeasure tag i chan fromTime toTime s).2.time = s.time ∧
    (startMeasure tag i chan fromTime toTime s).2.capture = s.capture ∧
    (startMeasure tag i chan fromTime toTime s).2.trigger = s.trigger ∧
    (startMeasure tag i chan fromTime toTime s).2.tables = s.tables ∧
    (startMeasure tag i chan fromTime toTime s).2.lanes = s.lanes ∧
    (startMeasure tag i chan fromTime toTime s).2.rpath = s.rpath ∧
    (startMeasure tag i chan fromTime toTime s).2.panel = s.panel ∧
    (startMeasure tag i chan fromTime toTime s).2.uplink = s.uplink := by
  unfold startMeasure
  try dsimp only
  (repeat' split) <;> simp

@[simp] theorem cmdSetCapture_frame (mask count prefill postfill hold auto : Word) (s : State) :
    (cmdSetCapture mask count prefill postfill hold auto s).2.pending = s.pending ∧
    (cmdSetCapture mask count prefill postfill hold auto s).2.resetN = s.resetN ∧
    (cmdSetCapture mask count prefill postfill hold auto s).2.pods = s.pods ∧
    (cmdSetCapture mask count prefill postfill hold auto s).2.time = s.time ∧
    (cmdSetCapture mask count prefill postfill hold auto s).2.trigger = s.trigger ∧
    (cmdSetCapture mask count prefill postfill hold auto s).2.tables = s.tables ∧
    (cmdSetCapture mask count prefill postfill hold auto s).2.lanes = s.lanes ∧
    (cmdSetCapture mask count prefill postfill hold auto s).2.rpath = s.rpath ∧
    (cmdSetCapture mask count prefill postfill hold auto s).2.view = s.view ∧
    (cmdSetCapture mask count prefill postfill hold auto s).2.panel = s.panel ∧
    (cmdSetCapture mask count prefill postfill hold auto s).2.events = s.events ∧
    (cmdSetCapture mask count prefill postfill hold auto s).2.uplink = s.uplink := by
  unfold cmdSetCapture
  try dsimp only
  (repeat' split) <;> simp

@[simp] theorem cmdRun_frame (s : State) :
    (cmdRun s).2.pending = s.pending ∧ (cmdRun s).2.resetN = s.resetN ∧ (cmdRun s).2.pods = s.pods ∧
    (cmdRun s).2.tables = s.tables ∧ (cmdRun s).2.panel = s.panel ∧ (cmdRun s).2.uplink = s.uplink := by
  unfold cmdRun
  try dsimp only
  (repeat' split) <;> simp

@[simp] theorem cmdMonitor_frame (s : State) :
    (cmdMonitor s).2.pending = s.pending ∧ (cmdMonitor s).2.resetN = s.resetN ∧ (cmdMonitor s).2.pods = s.pods ∧
    (cmdMonitor s).2.tables = s.tables ∧ (cmdMonitor s).2.rpath = s.rpath ∧ (cmdMonitor s).2.view = s.view ∧
    (cmdMonitor s).2.panel = s.panel ∧ (cmdMonitor s).2.events = s.events ∧ (cmdMonitor s).2.uplink = s.uplink := by
  unfold cmdMonitor
  try dsimp only
  (repeat' split) <;> simp

@[simp] theorem cmdStop_frame (s : State) :
    (cmdStop s).2.pending = s.pending ∧ (cmdStop s).2.resetN = s.resetN ∧ (cmdStop s).2.pods = s.pods ∧
    (cmdStop s).2.tables = s.tables ∧ (cmdStop s).2.view = s.view ∧ (cmdStop s).2.panel = s.panel ∧
    (cmdStop s).2.uplink = s.uplink := by
  unfold cmdStop
  try dsimp only
  simp

@[simp] theorem cmdReadSegment_frame (seg : Word) (s : State) :
    (cmdReadSegment seg s).2 = s := by
  unfold cmdReadSegment
  try dsimp only
  (repeat' split) <;> simp

@[simp] theorem cmdReadRecords_frame (tag : Tag) (seg start count : Word) (s : State) :
    (cmdReadRecords tag seg start count s).2.pending = s.pending ∧
    (cmdReadRecords tag seg start count s).2.resetN = s.resetN ∧
    (cmdReadRecords tag seg start count s).2.pods = s.pods ∧ (cmdReadRecords tag seg start count s).2.time = s.time ∧
    (cmdReadRecords tag seg start count s).2.trigger = s.trigger ∧
    (cmdReadRecords tag seg start count s).2.tables = s.tables ∧
    (cmdReadRecords tag seg start count s).2.lanes = s.lanes ∧
    (cmdReadRecords tag seg start count s).2.rpath = s.rpath ∧
    (cmdReadRecords tag seg start count s).2.view = s.view ∧
    (cmdReadRecords tag seg start count s).2.panel = s.panel ∧
    (cmdReadRecords tag seg start count s).2.events = s.events ∧
    (cmdReadRecords tag seg start count s).2.uplink = s.uplink := by
  unfold cmdReadRecords
  try dsimp only
  (repeat' split) <;> simp

@[simp] theorem cmdCaptureStatus_frame (s : State) :
    (cmdCaptureStatus s).2 = s := by
  unfold cmdCaptureStatus
  try dsimp only
  simp

@[simp] theorem cmdAbortRead_frame (s : State) :
    (cmdAbortRead s).2.pending = s.pending ∧ (cmdAbortRead s).2.resetN = s.resetN ∧
    (cmdAbortRead s).2.pods = s.pods ∧ (cmdAbortRead s).2.time = s.time ∧ (cmdAbortRead s).2.trigger = s.trigger ∧
    (cmdAbortRead s).2.tables = s.tables ∧ (cmdAbortRead s).2.lanes = s.lanes ∧ (cmdAbortRead s).2.view = s.view ∧
    (cmdAbortRead s).2.panel = s.panel ∧ (cmdAbortRead s).2.events = s.events ∧
    (cmdAbortRead s).2.uplink = s.uplink := by
  unfold cmdAbortRead
  try dsimp only
  simp

@[simp] theorem cmdLaneStart_frame (lane : Word) (s : State) :
    (cmdLaneStart lane s).2.pending = s.pending ∧ (cmdLaneStart lane s).2.resetN = s.resetN ∧
    (cmdLaneStart lane s).2.pods = s.pods ∧ (cmdLaneStart lane s).2.time = s.time ∧
    (cmdLaneStart lane s).2.capture = s.capture ∧ (cmdLaneStart lane s).2.trigger = s.trigger ∧
    (cmdLaneStart lane s).2.tables = s.tables ∧ (cmdLaneStart lane s).2.rpath = s.rpath ∧
    (cmdLaneStart lane s).2.view = s.view ∧ (cmdLaneStart lane s).2.panel = s.panel ∧
    (cmdLaneStart lane s).2.events = s.events ∧ (cmdLaneStart lane s).2.uplink = s.uplink := by
  unfold cmdLaneStart
  try dsimp only
  (repeat' split) <;> simp

@[simp] theorem cmdLaneStopGraceful_frame (lane : Word) (s : State) :
    (cmdLaneStopGraceful lane s).2.pending = s.pending ∧ (cmdLaneStopGraceful lane s).2.resetN = s.resetN ∧
    (cmdLaneStopGraceful lane s).2.pods = s.pods ∧ (cmdLaneStopGraceful lane s).2.time = s.time ∧
    (cmdLaneStopGraceful lane s).2.tables = s.tables ∧ (cmdLaneStopGraceful lane s).2.view = s.view ∧
    (cmdLaneStopGraceful lane s).2.panel = s.panel ∧ (cmdLaneStopGraceful lane s).2.uplink = s.uplink := by
  unfold cmdLaneStopGraceful
  try dsimp only
  (repeat' split) <;> simp

@[simp] theorem cmdLaneStopNow_frame (lane : Word) (s : State) :
    (cmdLaneStopNow lane s).2.pending = s.pending ∧ (cmdLaneStopNow lane s).2.resetN = s.resetN ∧
    (cmdLaneStopNow lane s).2.pods = s.pods ∧ (cmdLaneStopNow lane s).2.time = s.time ∧
    (cmdLaneStopNow lane s).2.tables = s.tables ∧ (cmdLaneStopNow lane s).2.view = s.view ∧
    (cmdLaneStopNow lane s).2.panel = s.panel ∧ (cmdLaneStopNow lane s).2.uplink = s.uplink := by
  unfold cmdLaneStopNow
  try dsimp only
  (repeat' split) <;> simp

@[simp] theorem cmdLaneReplay_frame (lane seg : Word) (fromTick toTick : DWord) (store : Word) (s : State) :
    (cmdLaneReplay lane seg fromTick toTick store s).2.pending = s.pending ∧
    (cmdLaneReplay lane seg fromTick toTick store s).2.resetN = s.resetN ∧
    (cmdLaneReplay lane seg fromTick toTick store s).2.pods = s.pods ∧
    (cmdLaneReplay lane seg fromTick toTick store s).2.time = s.time ∧
    (cmdLaneReplay lane seg fromTick toTick store s).2.capture = s.capture ∧
    (cmdLaneReplay lane seg fromTick toTick store s).2.trigger = s.trigger ∧
    (cmdLaneReplay lane seg fromTick toTick store s).2.tables = s.tables ∧
    (cmdLaneReplay lane seg fromTick toTick store s).2.view = s.view ∧
    (cmdLaneReplay lane seg fromTick toTick store s).2.panel = s.panel ∧
    (cmdLaneReplay lane seg fromTick toTick store s).2.events = s.events ∧
    (cmdLaneReplay lane seg fromTick toTick store s).2.uplink = s.uplink := by
  unfold cmdLaneReplay
  try dsimp only
  (repeat' split) <;> simp

@[simp] theorem cmdLaneStatus_frame (lane : Word) (s : State) :
    (cmdLaneStatus lane s).2 = s := by
  unfold cmdLaneStatus
  try dsimp only
  (repeat' split) <;> simp

@[simp] theorem cmdSetStream_frame (mask : Word) (s : State) :
    (cmdSetStream mask s).2.pending = s.pending ∧ (cmdSetStream mask s).2.resetN = s.resetN ∧
    (cmdSetStream mask s).2.pods = s.pods ∧ (cmdSetStream mask s).2.time = s.time ∧
    (cmdSetStream mask s).2.capture = s.capture ∧ (cmdSetStream mask s).2.trigger = s.trigger ∧
    (cmdSetStream mask s).2.tables = s.tables ∧ (cmdSetStream mask s).2.lanes = s.lanes ∧
    (cmdSetStream mask s).2.view = s.view ∧ (cmdSetStream mask s).2.panel = s.panel ∧
    (cmdSetStream mask s).2.events = s.events ∧ (cmdSetStream mask s).2.uplink = s.uplink := by
  unfold cmdSetStream
  try dsimp only
  (repeat' split) <;> simp

@[simp] theorem cmdReadFrames_frame (tag : Tag) (seg mask : Word) (fromTick : DWord) (count : Word) (s : State) :
    (cmdReadFrames tag seg mask fromTick count s).2.pending = s.pending ∧
    (cmdReadFrames tag seg mask fromTick count s).2.resetN = s.resetN ∧
    (cmdReadFrames tag seg mask fromTick count s).2.pods = s.pods ∧
    (cmdReadFrames tag seg mask fromTick count s).2.time = s.time ∧
    (cmdReadFrames tag seg mask fromTick count s).2.capture = s.capture ∧
    (cmdReadFrames tag seg mask fromTick count s).2.trigger = s.trigger ∧
    (cmdReadFrames tag seg mask fromTick count s).2.tables = s.tables ∧
    (cmdReadFrames tag seg mask fromTick count s).2.lanes = s.lanes ∧
    (cmdReadFrames tag seg mask fromTick count s).2.view = s.view ∧
    (cmdReadFrames tag seg mask fromTick count s).2.panel = s.panel ∧
    (cmdReadFrames tag seg mask fromTick count s).2.events = s.events ∧
    (cmdReadFrames tag seg mask fromTick count s).2.uplink = s.uplink := by
  unfold cmdReadFrames
  try dsimp only
  (repeat' split) <;> simp

@[simp] theorem cmdRecordPathStatus_frame (s : State) :
    (cmdRecordPathStatus s).2 = s := by
  unfold cmdRecordPathStatus
  try dsimp only
  simp

@[simp] theorem cmdClearEvents_frame (block mask : Word) (s : State) :
    (cmdClearEvents block mask s).2.pending = s.pending ∧ (cmdClearEvents block mask s).2.resetN = s.resetN ∧
    (cmdClearEvents block mask s).2.pods = s.pods ∧ (cmdClearEvents block mask s).2.time = s.time ∧
    (cmdClearEvents block mask s).2.capture = s.capture ∧ (cmdClearEvents block mask s).2.trigger = s.trigger ∧
    (cmdClearEvents block mask s).2.tables = s.tables ∧ (cmdClearEvents block mask s).2.lanes = s.lanes ∧
    (cmdClearEvents block mask s).2.rpath = s.rpath ∧ (cmdClearEvents block mask s).2.view = s.view ∧
    (cmdClearEvents block mask s).2.panel = s.panel ∧ (cmdClearEvents block mask s).2.uplink = s.uplink := by
  unfold cmdClearEvents
  try dsimp only
  (repeat' split) <;> simp

@[simp] theorem cmdSetEnables_frame (block mask : Word) (s : State) :
    (cmdSetEnables block mask s).2.pending = s.pending ∧ (cmdSetEnables block mask s).2.resetN = s.resetN ∧
    (cmdSetEnables block mask s).2.pods = s.pods ∧ (cmdSetEnables block mask s).2.time = s.time ∧
    (cmdSetEnables block mask s).2.capture = s.capture ∧ (cmdSetEnables block mask s).2.trigger = s.trigger ∧
    (cmdSetEnables block mask s).2.tables = s.tables ∧ (cmdSetEnables block mask s).2.lanes = s.lanes ∧
    (cmdSetEnables block mask s).2.rpath = s.rpath ∧ (cmdSetEnables block mask s).2.view = s.view ∧
    (cmdSetEnables block mask s).2.panel = s.panel ∧ (cmdSetEnables block mask s).2.uplink = s.uplink := by
  unfold cmdSetEnables
  try dsimp only
  (repeat' split) <;> simp

@[simp] theorem cmdEventStatus_frame (s : State) :
    (cmdEventStatus s).2 = s := by
  unfold cmdEventStatus
  try dsimp only
  simp

@[simp] theorem cmdIdentify_frame (s : State) :
    (cmdIdentify s).2 = s := by
  unfold cmdIdentify
  try dsimp only
  simp

@[simp] theorem cmdSoftReset_frame (s : State) :
    (cmdSoftReset s).2.pending = s.pending ∧ (cmdSoftReset s).2.resetN = s.resetN ∧
    (cmdSoftReset s).2.pods = s.pods ∧ (cmdSoftReset s).2.time = s.time ∧ (cmdSoftReset s).2.capture = s.capture ∧
    (cmdSoftReset s).2.trigger = s.trigger ∧ (cmdSoftReset s).2.tables = s.tables ∧
    (cmdSoftReset s).2.lanes = s.lanes ∧ (cmdSoftReset s).2.rpath = s.rpath ∧ (cmdSoftReset s).2.view = s.view ∧
    (cmdSoftReset s).2.panel = s.panel ∧ (cmdSoftReset s).2.events = s.events := by
  unfold cmdSoftReset
  try dsimp only
  simp

@[simp] theorem cmdOverlay_frame (x y w h : Word) (pixels : List Word) (s : State) :
    (cmdOverlay x y w h pixels s).2.pending = s.pending ∧ (cmdOverlay x y w h pixels s).2.resetN = s.resetN ∧
    (cmdOverlay x y w h pixels s).2.pods = s.pods ∧ (cmdOverlay x y w h pixels s).2.time = s.time ∧
    (cmdOverlay x y w h pixels s).2.capture = s.capture ∧ (cmdOverlay x y w h pixels s).2.trigger = s.trigger ∧
    (cmdOverlay x y w h pixels s).2.tables = s.tables ∧ (cmdOverlay x y w h pixels s).2.lanes = s.lanes ∧
    (cmdOverlay x y w h pixels s).2.rpath = s.rpath ∧ (cmdOverlay x y w h pixels s).2.view = s.view ∧
    (cmdOverlay x y w h pixels s).2.events = s.events ∧ (cmdOverlay x y w h pixels s).2.uplink = s.uplink := by
  unfold cmdOverlay
  try dsimp only
  (repeat' split) <;> simp

@[simp] theorem cmdOverlayFill_frame (x y w h index : Word) (s : State) :
    (cmdOverlayFill x y w h index s).2.pending = s.pending ∧ (cmdOverlayFill x y w h index s).2.resetN = s.resetN ∧
    (cmdOverlayFill x y w h index s).2.pods = s.pods ∧ (cmdOverlayFill x y w h index s).2.time = s.time ∧
    (cmdOverlayFill x y w h index s).2.capture = s.capture ∧ (cmdOverlayFill x y w h index s).2.trigger = s.trigger ∧
    (cmdOverlayFill x y w h index s).2.tables = s.tables ∧ (cmdOverlayFill x y w h index s).2.lanes = s.lanes ∧
    (cmdOverlayFill x y w h index s).2.rpath = s.rpath ∧ (cmdOverlayFill x y w h index s).2.view = s.view ∧
    (cmdOverlayFill x y w h index s).2.events = s.events ∧ (cmdOverlayFill x y w h index s).2.uplink = s.uplink := by
  unfold cmdOverlayFill
  try dsimp only
  (repeat' split) <;> simp

@[simp] theorem cmdSetPanel_frame (code : Word) (s : State) :
    (cmdSetPanel code s).2.pending = s.pending ∧ (cmdSetPanel code s).2.resetN = s.resetN ∧
    (cmdSetPanel code s).2.pods = s.pods ∧ (cmdSetPanel code s).2.time = s.time ∧
    (cmdSetPanel code s).2.capture = s.capture ∧ (cmdSetPanel code s).2.trigger = s.trigger ∧
    (cmdSetPanel code s).2.tables = s.tables ∧ (cmdSetPanel code s).2.lanes = s.lanes ∧
    (cmdSetPanel code s).2.rpath = s.rpath ∧ (cmdSetPanel code s).2.events = s.events ∧
    (cmdSetPanel code s).2.uplink = s.uplink := by
  unfold cmdSetPanel
  try dsimp only
  (repeat' split) <;> simp

@[simp] theorem cmdSetRowMap_frame (entries : List Word) (s : State) :
    (cmdSetRowMap entries s).2.pending = s.pending ∧ (cmdSetRowMap entries s).2.resetN = s.resetN ∧
    (cmdSetRowMap entries s).2.pods = s.pods ∧ (cmdSetRowMap entries s).2.time = s.time ∧
    (cmdSetRowMap entries s).2.capture = s.capture ∧ (cmdSetRowMap entries s).2.trigger = s.trigger ∧
    (cmdSetRowMap entries s).2.tables = s.tables ∧ (cmdSetRowMap entries s).2.lanes = s.lanes ∧
    (cmdSetRowMap entries s).2.rpath = s.rpath ∧ (cmdSetRowMap entries s).2.events = s.events ∧
    (cmdSetRowMap entries s).2.uplink = s.uplink := by
  unfold cmdSetRowMap
  try dsimp only
  (repeat' split) <;> simp

@[simp] theorem cmdSetPalette_frame (first : Word) (colours : List Word) (s : State) :
    (cmdSetPalette first colours s).2.pending = s.pending ∧ (cmdSetPalette first colours s).2.resetN = s.resetN ∧
    (cmdSetPalette first colours s).2.pods = s.pods ∧ (cmdSetPalette first colours s).2.time = s.time ∧
    (cmdSetPalette first colours s).2.capture = s.capture ∧ (cmdSetPalette first colours s).2.trigger = s.trigger ∧
    (cmdSetPalette first colours s).2.tables = s.tables ∧ (cmdSetPalette first colours s).2.lanes = s.lanes ∧
    (cmdSetPalette first colours s).2.rpath = s.rpath ∧ (cmdSetPalette first colours s).2.view = s.view ∧
    (cmdSetPalette first colours s).2.events = s.events ∧ (cmdSetPalette first colours s).2.uplink = s.uplink := by
  unfold cmdSetPalette
  try dsimp only
  (repeat' split) <;> simp

@[simp] theorem cmdSetBacklight_frame (level : Word) (s : State) :
    (cmdSetBacklight level s).2.pending = s.pending ∧ (cmdSetBacklight level s).2.resetN = s.resetN ∧
    (cmdSetBacklight level s).2.pods = s.pods ∧ (cmdSetBacklight level s).2.time = s.time ∧
    (cmdSetBacklight level s).2.capture = s.capture ∧ (cmdSetBacklight level s).2.trigger = s.trigger ∧
    (cmdSetBacklight level s).2.tables = s.tables ∧ (cmdSetBacklight level s).2.lanes = s.lanes ∧
    (cmdSetBacklight level s).2.rpath = s.rpath ∧ (cmdSetBacklight level s).2.view = s.view ∧
    (cmdSetBacklight level s).2.events = s.events ∧ (cmdSetBacklight level s).2.uplink = s.uplink := by
  unfold cmdSetBacklight
  try dsimp only
  (repeat' split) <;> simp

@[simp] theorem cmdPanelStatus_frame (s : State) :
    (cmdPanelStatus s).2 = s := by
  unfold cmdPanelStatus
  try dsimp only
  simp

@[simp] theorem cmdSetPod_frame (pod code hyst : Word) (s : State) :
    (cmdSetPod pod code hyst s).2.pending = s.pending ∧ (cmdSetPod pod code hyst s).2.resetN = s.resetN ∧
    (cmdSetPod pod code hyst s).2.time = s.time ∧ (cmdSetPod pod code hyst s).2.capture = s.capture ∧
    (cmdSetPod pod code hyst s).2.trigger = s.trigger ∧ (cmdSetPod pod code hyst s).2.tables = s.tables ∧
    (cmdSetPod pod code hyst s).2.lanes = s.lanes ∧ (cmdSetPod pod code hyst s).2.rpath = s.rpath ∧
    (cmdSetPod pod code hyst s).2.view = s.view ∧ (cmdSetPod pod code hyst s).2.panel = s.panel ∧
    (cmdSetPod pod code hyst s).2.events = s.events ∧ (cmdSetPod pod code hyst s).2.uplink = s.uplink := by
  unfold cmdSetPod
  try dsimp only
  (repeat' split) <;> simp

@[simp] theorem cmdRetrain_frame (pod : Word) (s : State) :
    (cmdRetrain pod s).2.pending = s.pending ∧ (cmdRetrain pod s).2.resetN = s.resetN ∧
    (cmdRetrain pod s).2.time = s.time ∧ (cmdRetrain pod s).2.capture = s.capture ∧
    (cmdRetrain pod s).2.trigger = s.trigger ∧ (cmdRetrain pod s).2.tables = s.tables ∧
    (cmdRetrain pod s).2.lanes = s.lanes ∧ (cmdRetrain pod s).2.rpath = s.rpath ∧
    (cmdRetrain pod s).2.view = s.view ∧ (cmdRetrain pod s).2.panel = s.panel ∧
    (cmdRetrain pod s).2.uplink = s.uplink := by
  unfold cmdRetrain
  try dsimp only
  (repeat' split) <;> simp

@[simp] theorem cmdSetDeskew_frame (first : Word) (values : List Word) (s : State) :
    (cmdSetDeskew first values s).2.pending = s.pending ∧ (cmdSetDeskew first values s).2.resetN = s.resetN ∧
    (cmdSetDeskew first values s).2.time = s.time ∧ (cmdSetDeskew first values s).2.capture = s.capture ∧
    (cmdSetDeskew first values s).2.trigger = s.trigger ∧ (cmdSetDeskew first values s).2.tables = s.tables ∧
    (cmdSetDeskew first values s).2.lanes = s.lanes ∧ (cmdSetDeskew first values s).2.rpath = s.rpath ∧
    (cmdSetDeskew first values s).2.view = s.view ∧ (cmdSetDeskew first values s).2.panel = s.panel ∧
    (cmdSetDeskew first values s).2.events = s.events ∧ (cmdSetDeskew first values s).2.uplink = s.uplink := by
  unfold cmdSetDeskew
  try dsimp only
  (repeat' split) <;> simp

@[simp] theorem cmdSetGlitch_frame (pod width : Word) (s : State) :
    (cmdSetGlitch pod width s).2.pending = s.pending ∧ (cmdSetGlitch pod width s).2.resetN = s.resetN ∧
    (cmdSetGlitch pod width s).2.time = s.time ∧ (cmdSetGlitch pod width s).2.capture = s.capture ∧
    (cmdSetGlitch pod width s).2.trigger = s.trigger ∧ (cmdSetGlitch pod width s).2.tables = s.tables ∧
    (cmdSetGlitch pod width s).2.lanes = s.lanes ∧ (cmdSetGlitch pod width s).2.rpath = s.rpath ∧
    (cmdSetGlitch pod width s).2.view = s.view ∧ (cmdSetGlitch pod width s).2.panel = s.panel ∧
    (cmdSetGlitch pod width s).2.events = s.events ∧ (cmdSetGlitch pod width s).2.uplink = s.uplink := by
  unfold cmdSetGlitch
  try dsimp only
  (repeat' split) <;> simp

@[simp] theorem cmdPodStatus_frame (pod : Word) (s : State) :
    (cmdPodStatus pod s).2.pending = s.pending ∧ (cmdPodStatus pod s).2.resetN = s.resetN ∧
    (cmdPodStatus pod s).2.time = s.time ∧ (cmdPodStatus pod s).2.capture = s.capture ∧
    (cmdPodStatus pod s).2.trigger = s.trigger ∧ (cmdPodStatus pod s).2.tables = s.tables ∧
    (cmdPodStatus pod s).2.lanes = s.lanes ∧ (cmdPodStatus pod s).2.rpath = s.rpath ∧
    (cmdPodStatus pod s).2.view = s.view ∧ (cmdPodStatus pod s).2.panel = s.panel ∧
    (cmdPodStatus pod s).2.events = s.events ∧ (cmdPodStatus pod s).2.uplink = s.uplink := by
  unfold cmdPodStatus
  try dsimp only
  (repeat' split) <;> simp

@[simp] theorem cmdLoadFrameTable_frame (lane : Word) (image : List Word) (s : State) :
    (cmdLoadFrameTable lane image s).2.pending = s.pending ∧ (cmdLoadFrameTable lane image s).2.resetN = s.resetN ∧
    (cmdLoadFrameTable lane image s).2.pods = s.pods ∧ (cmdLoadFrameTable lane image s).2.time = s.time ∧
    (cmdLoadFrameTable lane image s).2.capture = s.capture ∧ (cmdLoadFrameTable lane image s).2.trigger = s.trigger ∧
    (cmdLoadFrameTable lane image s).2.lanes = s.lanes ∧ (cmdLoadFrameTable lane image s).2.rpath = s.rpath ∧
    (cmdLoadFrameTable lane image s).2.view = s.view ∧ (cmdLoadFrameTable lane image s).2.panel = s.panel ∧
    (cmdLoadFrameTable lane image s).2.events = s.events ∧ (cmdLoadFrameTable lane image s).2.uplink = s.uplink := by
  unfold cmdLoadFrameTable
  try dsimp only
  (repeat' split) <;> simp

@[simp] theorem cmdUnloadTable_frame (lane : Word) (s : State) :
    (cmdUnloadTable lane s).2.pending = s.pending ∧ (cmdUnloadTable lane s).2.resetN = s.resetN ∧
    (cmdUnloadTable lane s).2.pods = s.pods ∧ (cmdUnloadTable lane s).2.time = s.time ∧
    (cmdUnloadTable lane s).2.capture = s.capture ∧ (cmdUnloadTable lane s).2.trigger = s.trigger ∧
    (cmdUnloadTable lane s).2.lanes = s.lanes ∧ (cmdUnloadTable lane s).2.rpath = s.rpath ∧
    (cmdUnloadTable lane s).2.view = s.view ∧ (cmdUnloadTable lane s).2.panel = s.panel ∧
    (cmdUnloadTable lane s).2.events = s.events ∧ (cmdUnloadTable lane s).2.uplink = s.uplink := by
  unfold cmdUnloadTable
  try dsimp only
  (repeat' split) <;> simp

@[simp] theorem cmdTableStatus_frame (s : State) :
    (cmdTableStatus s).2 = s := by
  unfold cmdTableStatus
  try dsimp only
  simp

@[simp] theorem cmdSetTimebase_frame (d mode chan edge mask value : Word) (s : State) :
    (cmdSetTimebase d mode chan edge mask value s).2.pending = s.pending ∧
    (cmdSetTimebase d mode chan edge mask value s).2.resetN = s.resetN ∧
    (cmdSetTimebase d mode chan edge mask value s).2.pods = s.pods ∧
    (cmdSetTimebase d mode chan edge mask value s).2.capture = s.capture ∧
    (cmdSetTimebase d mode chan edge mask value s).2.trigger = s.trigger ∧
    (cmdSetTimebase d mode chan edge mask value s).2.tables = s.tables ∧
    (cmdSetTimebase d mode chan edge mask value s).2.lanes = s.lanes ∧
    (cmdSetTimebase d mode chan edge mask value s).2.rpath = s.rpath ∧
    (cmdSetTimebase d mode chan edge mask value s).2.view = s.view ∧
    (cmdSetTimebase d mode chan edge mask value s).2.panel = s.panel ∧
    (cmdSetTimebase d mode chan edge mask value s).2.events = s.events ∧
    (cmdSetTimebase d mode chan edge mask value s).2.uplink = s.uplink := by
  unfold cmdSetTimebase
  try dsimp only
  (repeat' split) <;> simp

@[simp] theorem cmdTimebaseStatus_frame (s : State) :
    (cmdTimebaseStatus s).2 = s := by
  unfold cmdTimebaseStatus
  try dsimp only
  simp

@[simp] theorem cmdSetClock_frame (seconds : Word) (s : State) :
    (cmdSetClock seconds s).2.pending = s.pending ∧ (cmdSetClock seconds s).2.resetN = s.resetN ∧
    (cmdSetClock seconds s).2.pods = s.pods ∧ (cmdSetClock seconds s).2.capture = s.capture ∧
    (cmdSetClock seconds s).2.tables = s.tables ∧ (cmdSetClock seconds s).2.lanes = s.lanes ∧
    (cmdSetClock seconds s).2.rpath = s.rpath ∧ (cmdSetClock seconds s).2.view = s.view ∧
    (cmdSetClock seconds s).2.panel = s.panel ∧ (cmdSetClock seconds s).2.uplink = s.uplink := by
  unfold cmdSetClock
  try dsimp only
  simp

@[simp] theorem cmdSetCorrection_frame (dir amount interval : Word) (s : State) :
    (cmdSetCorrection dir amount interval s).2.pending = s.pending ∧
    (cmdSetCorrection dir amount interval s).2.resetN = s.resetN ∧
    (cmdSetCorrection dir amount interval s).2.pods = s.pods ∧
    (cmdSetCorrection dir amount interval s).2.capture = s.capture ∧
    (cmdSetCorrection dir amount interval s).2.trigger = s.trigger ∧
    (cmdSetCorrection dir amount interval s).2.tables = s.tables ∧
    (cmdSetCorrection dir amount interval s).2.lanes = s.lanes ∧
    (cmdSetCorrection dir amount interval s).2.rpath = s.rpath ∧
    (cmdSetCorrection dir amount interval s).2.view = s.view ∧
    (cmdSetCorrection dir amount interval s).2.panel = s.panel ∧
    (cmdSetCorrection dir amount interval s).2.events = s.events ∧
    (cmdSetCorrection dir amount interval s).2.uplink = s.uplink := by
  unfold cmdSetCorrection
  try dsimp only
  (repeat' split) <;> simp

@[simp] theorem cmdSetRollPeriod_frame (code : Word) (s : State) :
    (cmdSetRollPeriod code s).2.pending = s.pending ∧ (cmdSetRollPeriod code s).2.resetN = s.resetN ∧
    (cmdSetRollPeriod code s).2.pods = s.pods ∧ (cmdSetRollPeriod code s).2.capture = s.capture ∧
    (cmdSetRollPeriod code s).2.trigger = s.trigger ∧ (cmdSetRollPeriod code s).2.tables = s.tables ∧
    (cmdSetRollPeriod code s).2.lanes = s.lanes ∧ (cmdSetRollPeriod code s).2.rpath = s.rpath ∧
    (cmdSetRollPeriod code s).2.view = s.view ∧ (cmdSetRollPeriod code s).2.panel = s.panel ∧
    (cmdSetRollPeriod code s).2.events = s.events ∧ (cmdSetRollPeriod code s).2.uplink = s.uplink := by
  unfold cmdSetRollPeriod
  try dsimp only
  (repeat' split) <;> simp

@[simp] theorem cmdLoadTrigger_frame (image : List Word) (s : State) :
    (cmdLoadTrigger image s).2.pending = s.pending ∧ (cmdLoadTrigger image s).2.resetN = s.resetN ∧
    (cmdLoadTrigger image s).2.pods = s.pods ∧ (cmdLoadTrigger image s).2.time = s.time ∧
    (cmdLoadTrigger image s).2.capture = s.capture ∧ (cmdLoadTrigger image s).2.tables = s.tables ∧
    (cmdLoadTrigger image s).2.lanes = s.lanes ∧ (cmdLoadTrigger image s).2.rpath = s.rpath ∧
    (cmdLoadTrigger image s).2.view = s.view ∧ (cmdLoadTrigger image s).2.panel = s.panel ∧
    (cmdLoadTrigger image s).2.events = s.events ∧ (cmdLoadTrigger image s).2.uplink = s.uplink := by
  unfold cmdLoadTrigger
  try dsimp only
  (repeat' split) <;> simp

@[simp] theorem cmdSetArmTime_frame (pres seconds : Word) (s : State) :
    (cmdSetArmTime pres seconds s).2.pending = s.pending ∧ (cmdSetArmTime pres seconds s).2.resetN = s.resetN ∧
    (cmdSetArmTime pres seconds s).2.pods = s.pods ∧ (cmdSetArmTime pres seconds s).2.time = s.time ∧
    (cmdSetArmTime pres seconds s).2.capture = s.capture ∧ (cmdSetArmTime pres seconds s).2.tables = s.tables ∧
    (cmdSetArmTime pres seconds s).2.lanes = s.lanes ∧ (cmdSetArmTime pres seconds s).2.rpath = s.rpath ∧
    (cmdSetArmTime pres seconds s).2.view = s.view ∧ (cmdSetArmTime pres seconds s).2.panel = s.panel ∧
    (cmdSetArmTime pres seconds s).2.events = s.events ∧ (cmdSetArmTime pres seconds s).2.uplink = s.uplink := by
  unfold cmdSetArmTime
  try dsimp only
  (repeat' split) <;> simp

@[simp] theorem cmdSetCounter_frame (k value : Word) (s : State) :
    (cmdSetCounter k value s).2.pending = s.pending ∧ (cmdSetCounter k value s).2.resetN = s.resetN ∧
    (cmdSetCounter k value s).2.pods = s.pods ∧ (cmdSetCounter k value s).2.time = s.time ∧
    (cmdSetCounter k value s).2.capture = s.capture ∧ (cmdSetCounter k value s).2.tables = s.tables ∧
    (cmdSetCounter k value s).2.lanes = s.lanes ∧ (cmdSetCounter k value s).2.rpath = s.rpath ∧
    (cmdSetCounter k value s).2.view = s.view ∧ (cmdSetCounter k value s).2.panel = s.panel ∧
    (cmdSetCounter k value s).2.events = s.events ∧ (cmdSetCounter k value s).2.uplink = s.uplink := by
  unfold cmdSetCounter
  try dsimp only
  (repeat' split) <;> simp

@[simp] theorem cmdSetCompare_frame (k value : Word) (s : State) :
    (cmdSetCompare k value s).2.pending = s.pending ∧ (cmdSetCompare k value s).2.resetN = s.resetN ∧
    (cmdSetCompare k value s).2.pods = s.pods ∧ (cmdSetCompare k value s).2.time = s.time ∧
    (cmdSetCompare k value s).2.capture = s.capture ∧ (cmdSetCompare k value s).2.tables = s.tables ∧
    (cmdSetCompare k value s).2.lanes = s.lanes ∧ (cmdSetCompare k value s).2.rpath = s.rpath ∧
    (cmdSetCompare k value s).2.view = s.view ∧ (cmdSetCompare k value s).2.panel = s.panel ∧
    (cmdSetCompare k value s).2.events = s.events ∧ (cmdSetCompare k value s).2.uplink = s.uplink := by
  unfold cmdSetCompare
  try dsimp only
  (repeat' split) <;> simp

@[simp] theorem cmdForceTrigger_frame (s : State) :
    (cmdForceTrigger s).2.pending = s.pending ∧ (cmdForceTrigger s).2.resetN = s.resetN ∧
    (cmdForceTrigger s).2.pods = s.pods ∧ (cmdForceTrigger s).2.time = s.time ∧
    (cmdForceTrigger s).2.capture = s.capture ∧ (cmdForceTrigger s).2.tables = s.tables ∧
    (cmdForceTrigger s).2.lanes = s.lanes ∧ (cmdForceTrigger s).2.rpath = s.rpath ∧
    (cmdForceTrigger s).2.view = s.view ∧ (cmdForceTrigger s).2.panel = s.panel ∧
    (cmdForceTrigger s).2.events = s.events ∧ (cmdForceTrigger s).2.uplink = s.uplink := by
  unfold cmdForceTrigger
  try dsimp only
  (repeat' split) <;> simp

@[simp] theorem cmdTriggerStatus_frame (s : State) :
    (cmdTriggerStatus s).2 = s := by
  unfold cmdTriggerStatus
  try dsimp only
  simp

@[simp] theorem cmdSetView_frame (seg : Word) (t0 q : DWord) (roll : Word) (s : State) :
    (cmdSetView seg t0 q roll s).2.pending = s.pending ∧ (cmdSetView seg t0 q roll s).2.resetN = s.resetN ∧
    (cmdSetView seg t0 q roll s).2.pods = s.pods ∧ (cmdSetView seg t0 q roll s).2.time = s.time ∧
    (cmdSetView seg t0 q roll s).2.capture = s.capture ∧ (cmdSetView seg t0 q roll s).2.trigger = s.trigger ∧
    (cmdSetView seg t0 q roll s).2.tables = s.tables ∧ (cmdSetView seg t0 q roll s).2.lanes = s.lanes ∧
    (cmdSetView seg t0 q roll s).2.rpath = s.rpath ∧ (cmdSetView seg t0 q roll s).2.panel = s.panel ∧
    (cmdSetView seg t0 q roll s).2.events = s.events ∧ (cmdSetView seg t0 q roll s).2.uplink = s.uplink := by
  unfold cmdSetView
  try dsimp only
  (repeat' split) <;> simp

@[simp] theorem cmdZoom_frame (pivot : Word) (q : DWord) (s : State) :
    (cmdZoom pivot q s).2.pending = s.pending ∧ (cmdZoom pivot q s).2.resetN = s.resetN ∧
    (cmdZoom pivot q s).2.pods = s.pods ∧ (cmdZoom pivot q s).2.time = s.time ∧
    (cmdZoom pivot q s).2.capture = s.capture ∧ (cmdZoom pivot q s).2.trigger = s.trigger ∧
    (cmdZoom pivot q s).2.tables = s.tables ∧ (cmdZoom pivot q s).2.lanes = s.lanes ∧
    (cmdZoom pivot q s).2.rpath = s.rpath ∧ (cmdZoom pivot q s).2.panel = s.panel ∧
    (cmdZoom pivot q s).2.events = s.events ∧ (cmdZoom pivot q s).2.uplink = s.uplink := by
  unfold cmdZoom
  try dsimp only
  (repeat' split) <;> simp

@[simp] theorem cmdPan_frame (count : Word) (s : State) :
    (cmdPan count s).2.pending = s.pending ∧ (cmdPan count s).2.resetN = s.resetN ∧
    (cmdPan count s).2.pods = s.pods ∧ (cmdPan count s).2.time = s.time ∧ (cmdPan count s).2.capture = s.capture ∧
    (cmdPan count s).2.trigger = s.trigger ∧ (cmdPan count s).2.tables = s.tables ∧
    (cmdPan count s).2.lanes = s.lanes ∧ (cmdPan count s).2.rpath = s.rpath ∧ (cmdPan count s).2.panel = s.panel ∧
    (cmdPan count s).2.events = s.events ∧ (cmdPan count s).2.uplink = s.uplink := by
  unfold cmdPan
  try dsimp only
  simp

@[simp] theorem cmdFit_frame (s : State) :
    (cmdFit s).2.pending = s.pending ∧ (cmdFit s).2.resetN = s.resetN ∧ (cmdFit s).2.pods = s.pods ∧
    (cmdFit s).2.time = s.time ∧ (cmdFit s).2.capture = s.capture ∧ (cmdFit s).2.trigger = s.trigger ∧
    (cmdFit s).2.tables = s.tables ∧ (cmdFit s).2.lanes = s.lanes ∧ (cmdFit s).2.rpath = s.rpath ∧
    (cmdFit s).2.panel = s.panel ∧ (cmdFit s).2.events = s.events ∧ (cmdFit s).2.uplink = s.uplink := by
  unfold cmdFit
  try dsimp only
  (repeat' split) <;> simp

@[simp] theorem cmdSetCursor_frame (cursor pres : Word) (time : DWord) (s : State) :
    (cmdSetCursor cursor pres time s).2.pending = s.pending ∧ (cmdSetCursor cursor pres time s).2.resetN = s.resetN ∧
    (cmdSetCursor cursor pres time s).2.pods = s.pods ∧ (cmdSetCursor cursor pres time s).2.time = s.time ∧
    (cmdSetCursor cursor pres time s).2.capture = s.capture ∧
    (cmdSetCursor cursor pres time s).2.trigger = s.trigger ∧ (cmdSetCursor cursor pres time s).2.tables = s.tables ∧
    (cmdSetCursor cursor pres time s).2.lanes = s.lanes ∧ (cmdSetCursor cursor pres time s).2.rpath = s.rpath ∧
    (cmdSetCursor cursor pres time s).2.panel = s.panel ∧ (cmdSetCursor cursor pres time s).2.events = s.events ∧
    (cmdSetCursor cursor pres time s).2.uplink = s.uplink := by
  unfold cmdSetCursor
  try dsimp only
  (repeat' split) <;> simp

@[simp] theorem cmdMeasure_frame (tag : Tag) (seg chan : Word) (fromTime toTime : DWord) (s : State) :
    (cmdMeasure tag seg chan fromTime toTime s).2.pending = s.pending ∧
    (cmdMeasure tag seg chan fromTime toTime s).2.resetN = s.resetN ∧
    (cmdMeasure tag seg chan fromTime toTime s).2.pods = s.pods ∧
    (cmdMeasure tag seg chan fromTime toTime s).2.time = s.time ∧
    (cmdMeasure tag seg chan fromTime toTime s).2.capture = s.capture ∧
    (cmdMeasure tag seg chan fromTime toTime s).2.trigger = s.trigger ∧
    (cmdMeasure tag seg chan fromTime toTime s).2.tables = s.tables ∧
    (cmdMeasure tag seg chan fromTime toTime s).2.lanes = s.lanes ∧
    (cmdMeasure tag seg chan fromTime toTime s).2.rpath = s.rpath ∧
    (cmdMeasure tag seg chan fromTime toTime s).2.panel = s.panel ∧
    (cmdMeasure tag seg chan fromTime toTime s).2.uplink = s.uplink := by
  unfold cmdMeasure
  try dsimp only
  (repeat' split) <;> simp

@[simp] theorem cmdReadColumns_frame (tag : Tag) (first count : Word) (s : State) :
    (cmdReadColumns tag first count s).2.pending = s.pending ∧
    (cmdReadColumns tag first count s).2.resetN = s.resetN ∧ (cmdReadColumns tag first count s).2.pods = s.pods ∧
    (cmdReadColumns tag first count s).2.time = s.time ∧ (cmdReadColumns tag first count s).2.capture = s.capture ∧
    (cmdReadColumns tag first count s).2.trigger = s.trigger ∧
    (cmdReadColumns tag first count s).2.tables = s.tables ∧ (cmdReadColumns tag first count s).2.lanes = s.lanes ∧
    (cmdReadColumns tag first count s).2.rpath = s.rpath ∧ (cmdReadColumns tag first count s).2.panel = s.panel ∧
    (cmdReadColumns tag first count s).2.events = s.events ∧ (cmdReadColumns tag first count s).2.uplink = s.uplink := by
  unfold cmdReadColumns
  try dsimp only
  (repeat' split) <;> simp

@[simp] theorem cmdViewStatus_frame (s : State) :
    (cmdViewStatus s).2 = s := by
  unfold cmdViewStatus
  try dsimp only
  simp

/-- A command packet's row: taken when a packet may be dispatched. -/
theorem exec_command (i : Instr) (s : State) (h : (encodePacket i).isSome) :
    exec i s = .next (if canDispatch s then takeCommand i s else s) := by
  cases i <;> first | (exact Bool.noConfusion h) | rfl

end Sys2Proof.Machine
end

