-- ==== Sys2Proof/Laws/Rows.lean ====
section
/-! SUPPORT. The frame of each row that no packet carries: the fields of the state that it never changes. -/

namespace Sys2Proof.Machine

@[simp] theorem receivePayloads_frame (ws : List Word) (s : State) :
    (ws.foldl (fun x w => receivePayload w x) s).pending = s.pending ∧
    (ws.foldl (fun x w => receivePayload w x) s).resetN = s.resetN ∧
    (ws.foldl (fun x w => receivePayload w x) s).pods = s.pods ∧
    (ws.foldl (fun x w => receivePayload w x) s).time = s.time ∧
    (ws.foldl (fun x w => receivePayload w x) s).capture = s.capture ∧
    (ws.foldl (fun x w => receivePayload w x) s).trigger = s.trigger ∧
    (ws.foldl (fun x w => receivePayload w x) s).tables = s.tables ∧
    (ws.foldl (fun x w => receivePayload w x) s).lanes = s.lanes ∧
    (ws.foldl (fun x w => receivePayload w x) s).rpath = s.rpath ∧
    (ws.foldl (fun x w => receivePayload w x) s).view = s.view ∧
    (ws.foldl (fun x w => receivePayload w x) s).panel = s.panel := by
  induction ws generalizing s with
  | nil => simp
  | cons w ws ih => simp [ih]

@[simp] theorem receiveTraining_frame (p : Pod) (w : TrainingWord) (s : State) :
    (receiveTraining p w s).pending = s.pending ∧ (receiveTraining p w s).resetN = s.resetN ∧
    (receiveTraining p w s).time = s.time ∧ (receiveTraining p w s).capture = s.capture ∧
    (receiveTraining p w s).trigger = s.trigger ∧ (receiveTraining p w s).tables = s.tables ∧
    (receiveTraining p w s).lanes = s.lanes ∧ (receiveTraining p w s).rpath = s.rpath ∧
    (receiveTraining p w s).view = s.view ∧ (receiveTraining p w s).panel = s.panel ∧
    (receiveTraining p w s).uplink = s.uplink := by
  simp [receiveTraining]

@[simp] theorem receiveBad_frame (p : Pod) (s : State) :
    (receiveBad p s).pending = s.pending ∧ (receiveBad p s).resetN = s.resetN ∧
    (receiveBad p s).time = s.time ∧ (receiveBad p s).capture = s.capture ∧
    (receiveBad p s).trigger = s.trigger ∧ (receiveBad p s).tables = s.tables ∧
    (receiveBad p s).lanes = s.lanes ∧ (receiveBad p s).rpath = s.rpath ∧
    (receiveBad p s).view = s.view ∧ (receiveBad p s).panel = s.panel ∧
    (receiveBad p s).uplink = s.uplink := by
  simp [receiveBad]

@[simp] theorem receiveGood_frame (p : Pod) (v : Vector Byte 16) (s : State) :
    (receiveGood p v s).pending = s.pending ∧ (receiveGood p v s).resetN = s.resetN ∧
    (receiveGood p v s).time = s.time ∧ (receiveGood p v s).capture = s.capture ∧
    (receiveGood p v s).trigger = s.trigger ∧ (receiveGood p v s).tables = s.tables ∧
    (receiveGood p v s).lanes = s.lanes ∧ (receiveGood p v s).rpath = s.rpath ∧
    (receiveGood p v s).view = s.view ∧ (receiveGood p v s).panel = s.panel ∧
    (receiveGood p v s).uplink = s.uplink := by
  simp [receiveGood]

theorem execPodPresenceSensed_frame (p : Pod) (s t : State)
    (h : execPodPresenceSensed p s = .next t) :
    t.pending = s.pending ∧ t.resetN = s.resetN ∧ t.time = s.time ∧ t.capture = s.capture ∧ t.trigger = s.trigger ∧
    t.tables = s.tables ∧ t.lanes = s.lanes ∧ t.rpath = s.rpath ∧ t.view = s.view ∧ t.panel = s.panel ∧
    t.events = s.events ∧ t.uplink = s.uplink := by
  unfold execPodPresenceSensed at h
  cases h
  simp

theorem execPodRemoved_frame (p : Pod) (s t : State)
    (h : execPodRemoved p s = .next t) :
    t.pending = s.pending ∧ t.resetN = s.resetN ∧ t.time = s.time ∧ t.capture = s.capture ∧ t.trigger = s.trigger ∧
    t.tables = s.tables ∧ t.lanes = s.lanes ∧ t.rpath = s.rpath ∧ t.view = s.view ∧ t.panel = s.panel ∧
    t.uplink = s.uplink := by
  unfold execPodRemoved at h
  cases h
  simp

theorem execTrainingWordReceived_frame (p : Pod) (w : TrainingWord) (s t : State)
    (h : execTrainingWordReceived p w s = .next t) :
    t.pending = s.pending ∧ t.resetN = s.resetN ∧ t.time = s.time ∧ t.capture = s.capture ∧ t.trigger = s.trigger ∧
    t.tables = s.tables ∧ t.lanes = s.lanes ∧ t.rpath = s.rpath ∧ t.view = s.view ∧ t.panel = s.panel ∧
    t.uplink = s.uplink := by
  unfold execTrainingWordReceived at h
  (repeat' split at h) <;> cases h <;> simp

theorem execTrainingGiveUp_frame (p : Pod) (w : TrainingWord) (s t : State)
    (h : execTrainingGiveUp p w s = .next t) :
    t.pending = s.pending ∧ t.resetN = s.resetN ∧ t.time = s.time ∧ t.capture = s.capture ∧ t.trigger = s.trigger ∧
    t.tables = s.tables ∧ t.lanes = s.lanes ∧ t.rpath = s.rpath ∧ t.view = s.view ∧ t.panel = s.panel ∧
    t.uplink = s.uplink := by
  unfold execTrainingGiveUp at h
  cases h
  (try split) <;> simp

theorem execSampleFrameReceived_frame (p : Pod) (samples : Vector Byte 16) (s t : State)
    (h : execSampleFrameReceived p samples s = .next t) :
    t.pending = s.pending ∧ t.resetN = s.resetN ∧ t.time = s.time ∧ t.capture = s.capture ∧ t.trigger = s.trigger ∧
    t.tables = s.tables ∧ t.lanes = s.lanes ∧ t.rpath = s.rpath ∧ t.view = s.view ∧ t.panel = s.panel ∧
    t.uplink = s.uplink := by
  unfold execSampleFrameReceived at h
  (repeat' split at h) <;> cases h <;> simp

theorem execBadSampleFrame_frame (p : Pod) (s t : State)
    (h : execBadSampleFrame p s = .next t) :
    t.pending = s.pending ∧ t.resetN = s.resetN ∧ t.time = s.time ∧ t.capture = s.capture ∧ t.trigger = s.trigger ∧
    t.tables = s.tables ∧ t.lanes = s.lanes ∧ t.rpath = s.rpath ∧ t.view = s.view ∧ t.panel = s.panel ∧
    t.uplink = s.uplink := by
  unfold execBadSampleFrame at h
  (repeat' split at h) <;> cases h <;> simp

theorem execStatusWordReceived_frame (p : Pod) (checkOk : Bool) (code : BitVec 8) (hyst : BitVec 2) (s t : State)
    (h : execStatusWordReceived p checkOk code hyst s = .next t) :
    t.pending = s.pending ∧ t.resetN = s.resetN ∧ t.time = s.time ∧ t.capture = s.capture ∧ t.trigger = s.trigger ∧
    t.tables = s.tables ∧ t.lanes = s.lanes ∧ t.rpath = s.rpath ∧ t.view = s.view ∧ t.panel = s.panel ∧
    t.uplink = s.uplink := by
  unfold execStatusWordReceived at h
  (repeat' split at h) <;> cases h <;> simp

theorem execSetupFail_frame (p : Pod) (s t : State)
    (h : execSetupFail p s = .next t) :
    t.pending = s.pending ∧ t.resetN = s.resetN ∧ t.time = s.time ∧ t.capture = s.capture ∧ t.trigger = s.trigger ∧
    t.tables = s.tables ∧ t.lanes = s.lanes ∧ t.rpath = s.rpath ∧ t.view = s.view ∧ t.panel = s.panel ∧
    t.uplink = s.uplink := by
  unfold execSetupFail at h
  cases h
  (try split) <;> simp

theorem execLevelStreamSample_frame (trigIn : Bool) (s t : State)
    (h : execLevelStreamSample trigIn s = .next t) :
    t.pending = s.pending ∧ t.resetN = s.resetN ∧ t.tables = s.tables ∧ t.view = s.view ∧ t.panel = s.panel ∧
    t.uplink = s.uplink := by
  unfold execLevelStreamSample at h
  cases h
  simp

theorem execDividerOutput_frame (d : DividerId) (s t : State)
    (h : execDividerOutput d s = .next t) :
    t.pending = s.pending ∧ t.resetN = s.resetN ∧ t.pods = s.pods ∧ t.time = s.time ∧ t.capture = s.capture ∧
    t.tables = s.tables ∧ t.lanes = s.lanes ∧ t.rpath = s.rpath ∧ t.view = s.view ∧ t.panel = s.panel ∧
    t.events = s.events ∧ t.uplink = s.uplink := by
  unfold execDividerOutput at h
  cases h
  (try split) <;> simp

theorem execCounterMatch_frame (k : CounterId) (s t : State)
    (h : execCounterMatch k s = .next t) :
    t.pending = s.pending ∧ t.resetN = s.resetN ∧ t.pods = s.pods ∧ t.time = s.time ∧ t.capture = s.capture ∧
    t.tables = s.tables ∧ t.lanes = s.lanes ∧ t.rpath = s.rpath ∧ t.view = s.view ∧ t.panel = s.panel ∧
    t.events = s.events ∧ t.uplink = s.uplink := by
  unfold execCounterMatch at h
  cases h
  (try split) <;> simp

theorem execGapTimeout_frame (l : LaneId) (s t : State)
    (h : execGapTimeout l s = .next t) :
    t.pending = s.pending ∧ t.resetN = s.resetN ∧ t.pods = s.pods ∧ t.time = s.time ∧ t.tables = s.tables ∧
    t.view = s.view ∧ t.panel = s.panel ∧ t.uplink = s.uplink := by
  unfold execGapTimeout at h
  cases h
  simp

theorem execTimeLimit_frame (s t : State)
    (h : execTimeLimit s = .next t) :
    t.pending = s.pending ∧ t.resetN = s.resetN ∧ t.pods = s.pods ∧ t.tables = s.tables ∧ t.view = s.view ∧
    t.panel = s.panel ∧ t.uplink = s.uplink := by
  unfold execTimeLimit at h
  cases h
  simp

theorem execPostFillCompletion_frame (s t : State)
    (h : execPostFillCompletion s = .next t) :
    t.pending = s.pending ∧ t.resetN = s.resetN ∧ t.pods = s.pods ∧ t.tables = s.tables ∧ t.view = s.view ∧
    t.panel = s.panel ∧ t.uplink = s.uplink := by
  unfold execPostFillCompletion at h
  cases h
  simp

theorem writerAccess_frame (s t : State) (h : writerAccess s = .next t) :
    t.pending = s.pending ∧ t.resetN = s.resetN ∧ t.pods = s.pods ∧ t.time = s.time ∧ t.trigger = s.trigger ∧
    t.tables = s.tables ∧ t.lanes = s.lanes ∧ t.panel = s.panel ∧ t.uplink = s.uplink := by
  unfold writerAccess at h
  (repeat' split at h) <;> cases h <;> simp

theorem serve_frame (r : Requester) (s t : State) (h : serve r s = .next t) :
    t.pending = s.pending ∧ t.resetN = s.resetN ∧ t.pods = s.pods ∧ t.time = s.time ∧
    t.tables = s.tables ∧ t.panel = s.panel ∧ t.uplink = s.uplink := by
  unfold serve at h
  split at h
  · have := writerAccess_frame _ _ h
    simp_all
  all_goals (cases h; simp)

theorem arbitrate_frame (s t : State) (h : arbitrate s = .next t) :
    t.pending = s.pending ∧ t.resetN = s.resetN ∧ t.pods = s.pods ∧ t.time = s.time ∧
    t.tables = s.tables ∧ t.panel = s.panel ∧ t.uplink = s.uplink := by
  unfold arbitrate at h
  split at h
  · have := writerAccess_frame _ _ h
    simp_all
  · split at h
    · cases h; simp
    · have := serve_frame _ _ _ h
      simpa using this

theorem execArbiterGrant_frame (s t : State)
    (h : execArbiterGrant s = .next t) :
    t.pending = s.pending ∧ t.resetN = s.resetN ∧ t.pods = s.pods ∧ t.time = (settlePostFill s).time ∧
    t.tables = s.tables ∧ t.panel = s.panel ∧ t.uplink = s.uplink := by
  have a := arbitrate_frame (settlePostFill s) t h
  simpa using a

theorem execSecondsAdvance_frame (s t : State)
    (h : execSecondsAdvance s = .next t) :
    t.pending = s.pending ∧ t.resetN = s.resetN ∧ t.pods = s.pods ∧ t.capture = s.capture ∧ t.tables = s.tables ∧
    t.lanes = s.lanes ∧ t.rpath = s.rpath ∧ t.panel = s.panel ∧ t.uplink = s.uplink := by
  unfold execSecondsAdvance at h
  (repeat' split at h) <;> cases h <;> simp

theorem execCorrectionIntervalEnd_frame (s t : State)
    (h : execCorrectionIntervalEnd s = .next t) :
    t.pending = s.pending ∧ t.resetN = s.resetN ∧ t.pods = s.pods ∧ t.capture = s.capture ∧ t.tables = s.tables ∧
    t.lanes = s.lanes ∧ t.rpath = s.rpath ∧ t.panel = s.panel ∧ t.uplink = s.uplink := by
  unfold execCorrectionIntervalEnd at h
  (repeat' split at h) <;> cases h <;> simp

theorem execRollRefresh_frame (s t : State)
    (h : execRollRefresh s = .next t) :
    t.pending = s.pending ∧ t.resetN = s.resetN ∧ t.pods = s.pods ∧ t.capture = s.capture ∧ t.tables = s.tables ∧
    t.lanes = s.lanes ∧ t.rpath = s.rpath ∧ t.panel = s.panel ∧ t.uplink = s.uplink := by
  unfold execRollRefresh at h
  (repeat' split at h) <;> cases h <;> simp

theorem execFrameEnd_frame (s t : State)
    (h : execFrameEnd s = .next t) :
    t.pending = s.pending ∧ t.resetN = s.resetN ∧ t.pods = s.pods ∧ t.time = s.time ∧ t.capture = s.capture ∧
    t.trigger = s.trigger ∧ t.tables = s.tables ∧ t.lanes = s.lanes ∧ t.rpath = s.rpath ∧ t.events = s.events ∧
    t.uplink = s.uplink := by
  unfold execFrameEnd at h
  (repeat' split at h) <;> cases h <;> simp

theorem execBacklightPeriodEnd_frame (s t : State)
    (h : execBacklightPeriodEnd s = .next t) :
    t.pending = s.pending ∧ t.resetN = s.resetN ∧ t.pods = s.pods ∧ t.time = s.time ∧ t.capture = s.capture ∧
    t.trigger = s.trigger ∧ t.tables = s.tables ∧ t.lanes = s.lanes ∧ t.rpath = s.rpath ∧ t.view = s.view ∧
    t.events = s.events ∧ t.uplink = s.uplink := by
  unfold execBacklightPeriodEnd at h
  (repeat' split at h) <;> cases h <;> simp

theorem execPacketArrival_frame (header : Word) (payload : List Word) (s t : State)
    (h : execPacketArrival header payload s = .next t) :
    t.pending = s.pending ∧ t.resetN = s.resetN ∧ t.pods = s.pods ∧ t.time = s.time ∧ t.capture = s.capture ∧
    t.trigger = s.trigger ∧ t.tables = s.tables ∧ t.lanes = s.lanes ∧ t.rpath = s.rpath ∧ t.view = s.view ∧
    t.panel = s.panel := by
  unfold execPacketArrival at h
  (repeat' split at h) <;> cases h <;> simp

theorem execStrayPayloadWord_frame (w : Word) (s t : State)
    (h : execStrayPayloadWord w s = .next t) :
    t.pending = s.pending ∧ t.resetN = s.resetN ∧ t.pods = s.pods ∧ t.time = s.time ∧ t.capture = s.capture ∧
    t.trigger = s.trigger ∧ t.tables = s.tables ∧ t.lanes = s.lanes ∧ t.rpath = s.rpath ∧ t.view = s.view ∧
    t.panel = s.panel := by
  unfold execStrayPayloadWord at h
  (repeat' split at h) <;> cases h <;> simp

theorem grantAnyFrames_frame (s t : State) (h : grantAnyFrames s = some t) :
    t.pending = s.pending ∧ t.resetN = s.resetN ∧ t.pods = s.pods ∧ t.time = s.time ∧ t.capture = s.capture ∧
    t.trigger = s.trigger ∧ t.tables = s.tables ∧ t.lanes = s.lanes ∧ t.view = s.view ∧ t.panel = s.panel ∧
    t.events = s.events := by
  unfold grantAnyFrames at h
  (repeat' split at h) <;> cases h <;> simp

@[simp] theorem grantPacket_frame (s : State) :
    (grantPacket s).pending = s.pending ∧ (grantPacket s).resetN = s.resetN ∧ (grantPacket s).pods = s.pods ∧
    (grantPacket s).time = s.time ∧ (grantPacket s).trigger = s.trigger ∧ (grantPacket s).tables = s.tables ∧
    (grantPacket s).lanes = s.lanes ∧ (grantPacket s).panel = s.panel := by
  unfold grantPacket
  split
  · simp
  · simp
  · have := grantAnyFrames_frame _ _ (by assumption)
    simp [this]
  · simp

theorem execTransmitGrant_frame (s t : State)
    (h : execTransmitGrant s = .next t) :
    t.pending = s.pending ∧ t.resetN = s.resetN ∧ t.pods = s.pods ∧ t.time = s.time ∧ t.trigger = s.trigger ∧
    t.tables = s.tables ∧ t.lanes = s.lanes ∧ t.panel = s.panel := by
  unfold execTransmitGrant at h
  cases h
  split <;> simp

theorem execWallClockReferenceCount_frame (s t : State)
    (h : execWallClockReferenceCount s = .next t) :
    t.pending = s.pending ∧ t.resetN = s.resetN ∧ t.pods = s.pods ∧ t.capture = s.capture ∧ t.tables = s.tables ∧
    t.lanes = s.lanes ∧ t.rpath = s.rpath ∧ t.panel = s.panel ∧ t.uplink = s.uplink := by
  unfold execWallClockReferenceCount at h
  cases h
  simp

theorem execPwmStep_frame (s t : State)
    (h : execPwmStep s = .next t) :
    t.pending = s.pending ∧ t.resetN = s.resetN ∧ t.pods = s.pods ∧ t.time = s.time ∧ t.capture = s.capture ∧
    t.trigger = s.trigger ∧ t.tables = s.tables ∧ t.lanes = s.lanes ∧ t.rpath = s.rpath ∧ t.view = s.view ∧
    t.events = s.events ∧ t.uplink = s.uplink := by
  unfold execPwmStep at h
  (repeat' split at h) <;> cases h <;> simp

theorem execResetNAsserted_frame (s t : State)
    (h : execResetNAsserted s = .next t) :
    t.pending = s.pending ∧ t.pods = s.pods ∧ t.time = s.time ∧ t.capture = s.capture ∧ t.trigger = s.trigger ∧
    t.tables = s.tables ∧ t.lanes = s.lanes ∧ t.rpath = s.rpath ∧ t.view = s.view ∧ t.events = s.events := by
  unfold execResetNAsserted at h
  cases h
  simp

theorem execPassColumnComputed_frame (s t : State)
    (h : execPassColumnComputed s = .next t) :
    t.pending = s.pending ∧ t.resetN = s.resetN ∧ t.pods = s.pods ∧ t.time = s.time ∧ t.capture = s.capture ∧
    t.trigger = s.trigger ∧ t.tables = s.tables ∧ t.lanes = s.lanes ∧ t.rpath = s.rpath ∧ t.panel = s.panel ∧
    t.uplink = s.uplink := by
  unfold execPassColumnComputed at h
  (repeat' split at h) <;> cases h <;> simp

/-- Rows that no packet carries, but for the resets, the dispatch and the end of an upstream packet, keep the frame tables
and the queue of waiting commands. -/
theorem exec_row_tables (i : Instr) (s t : State) (hi : (encodePacket i).isSome = false) (h1 : i ≠ .powerOnReset)
    (h2 : i ≠ .packetDispatch) (h3 : i ≠ .upstreamPacketSent) (h : exec i s = .next t) :
    t.tables = s.tables ∧ t.pending = s.pending := by
  cases i
  case powerOnReset => exact absurd rfl h1
  case packetDispatch => exact absurd rfl h2
  case upstreamPacketSent => exact absurd rfl h3
  case podPresenceSensed => simp [execPodPresenceSensed_frame _ _ _ h]
  case podRemoved => simp [execPodRemoved_frame _ _ _ h]
  case trainingWordReceived => simp [execTrainingWordReceived_frame _ _ _ _ h]
  case trainingGiveUp => simp [execTrainingGiveUp_frame _ _ _ _ h]
  case sampleFrameReceived => simp [execSampleFrameReceived_frame _ _ _ _ h]
  case badSampleFrame => simp [execBadSampleFrame_frame _ _ _ h]
  case statusWordReceived => simp [execStatusWordReceived_frame _ _ _ _ _ _ h]
  case setupFail => simp [execSetupFail_frame _ _ _ h]
  case levelStreamSample => simp [execLevelStreamSample_frame _ _ _ h]
  case dividerOutput => simp [execDividerOutput_frame _ _ _ h]
  case counterMatch => simp [execCounterMatch_frame _ _ _ h]
  case gapTimeout => simp [execGapTimeout_frame _ _ _ h]
  case timeLimit => simp [execTimeLimit_frame _ _ h]
  case postFillCompletion => simp [execPostFillCompletion_frame _ _ h]
  case arbiterGrant => simp [execArbiterGrant_frame _ _ h]
  case secondsAdvance => simp [execSecondsAdvance_frame _ _ h]
  case correctionIntervalEnd => simp [execCorrectionIntervalEnd_frame _ _ h]
  case rollRefresh => simp [execRollRefresh_frame _ _ h]
  case frameEnd => simp [execFrameEnd_frame _ _ h]
  case backlightPeriodEnd => simp [execBacklightPeriodEnd_frame _ _ h]
  case packetArrival => simp [execPacketArrival_frame _ _ _ _ h]
  case strayPayloadWord => simp [execStrayPayloadWord_frame _ _ _ h]
  case transmitGrant => simp [execTransmitGrant_frame _ _ h]
  case wallClockReferenceCount => simp [execWallClockReferenceCount_frame _ _ h]
  case pwmStep => simp [execPwmStep_frame _ _ h]
  case resetNAsserted => simp [execResetNAsserted_frame _ _ h]
  case passColumnComputed => simp [execPassColumnComputed_frame _ _ h]
  all_goals exact Bool.noConfusion hi

end Sys2Proof.Machine
end

