-- ==== Sys2Proof/Laws/Dram.lean ====
section
/-! SUPPORT. What writes the capture DRAM: nothing but a ring write (R48), so every other operation that changes the capture
store leaves the DRAM as it is. -/

namespace Sys2Proof.Machine

@[simp] theorem modSeg_dram (i : Nat) (f : Segment → Segment) (s : State) :
    (modSeg i f s).capture.dram = s.capture.dram := rfl

@[simp] theorem takeTrigger_dram (t : Nat) (c : Cause) (s : State) :
    (takeTrigger t c s).capture.dram = s.capture.dram := by
  unfold takeTrigger
  try dsimp only
  (repeat' split) <;> simp

@[simp] theorem transition_dram (c : Condition) (g : Target) (t : Nat) (s : State) :
    (transition c g t s).capture.dram = s.capture.dram := by
  unfold transition
  try dsimp only
  (repeat' split) <;> simp

@[simp] theorem judge_dram (v : TermValues) (t : Nat) (s : State) :
    (judge v t s).capture.dram = s.capture.dram := by
  unfold judge
  try dsimp only
  (repeat' split) <;> simp

@[simp] theorem judgeSample_dram (v : TermValues) (t : Nat) (s : State) :
    (judgeSample v t s).capture.dram = s.capture.dram := by
  unfold judgeSample
  try dsimp only
  (repeat' split) <;> simp

@[simp] theorem sequencerSample_dram (m : Sample) (e : Bool) (t : Nat) (s : State) :
    (sequencerSample m e t s).capture.dram = s.capture.dram := by
  unfold sequencerSample
  try dsimp only
  (repeat' split) <;> simp

@[simp] theorem logOverflow_dram (i : Nat) (s : State) :
    (logOverflow i s).capture.dram = s.capture.dram := by
  unfold logOverflow
  try dsimp only
  simp

@[simp] theorem placeInLog_dram (i : Nat) (r : FrameRecord) (s : State) :
    (placeInLog i r s).capture.dram = s.capture.dram := by
  unfold placeInLog
  try dsimp only
  (repeat' split) <;> simp

@[simp] theorem dropOldestEntry_dram (i : Nat) (s : State) :
    (dropOldestEntry i s).capture.dram = s.capture.dram := by
  unfold dropOldestEntry
  try dsimp only
  simp

@[simp] theorem joinLog_dram (i : Nat) (r : FrameRecord) (s : State) :
    (joinLog i r s).capture.dram = s.capture.dram := by
  unfold joinLog
  try dsimp only
  (repeat' split) <;> simp

@[simp] theorem writeLogEntry_dram (s : State) :
    (writeLogEntry s).capture.dram = s.capture.dram := by
  unfold writeLogEntry
  try dsimp only
  (repeat' split) <;> simp

@[simp] theorem takeFrame_dram (g : Option Nat) (e : Ended) (s : State) :
    (takeFrame g e s).capture.dram = s.capture.dram := by
  unfold takeFrame
  try dsimp only
  (repeat' split) <;> simp

@[simp] theorem applyLane_dram (l : LaneId) (g : Option Nat) (o : LaneOut) (s : State) :
    (applyLane l g o s).capture.dram = s.capture.dram := by
  unfold applyLane
  try dsimp only
  (repeat' split) <;> simp

@[simp] theorem settleGap_dram (l : LaneId) (s : State) :
    (settleGap l s).capture.dram = s.capture.dram := by
  unfold settleGap
  try dsimp only
  (repeat' split) <;> simp

@[simp] theorem settleGaps_dram (s : State) :
    (settleGaps s).capture.dram = s.capture.dram := by
  simp [settleGaps, forLanes]

@[simp] theorem liveLaneTick_dram (t : Nat) (v : BitVec 32) (l : LaneId) (s : State) :
    (liveLaneTick t v l s).capture.dram = s.capture.dram := by
  unfold liveLaneTick
  try dsimp only
  (repeat' split) <;> simp

@[simp] theorem liveTick_dram (t : Nat) (v : BitVec 32) (s : State) :
    (liveTick t v s).capture.dram = s.capture.dram := by
  simp [liveTick, forLanes]

@[simp] theorem laneSampleStop_dram (g : Option Nat) (l : LaneId) (s : State) :
    (laneSampleStop g l s).capture.dram = s.capture.dram := by
  unfold laneSampleStop
  try dsimp only
  (repeat' split) <;> simp

@[simp] theorem lanesStop_dram (g : Option Nat) (s : State) :
    (lanesStop g s).capture.dram = s.capture.dram := by
  simp [lanesStop, forLanes]

@[simp] theorem replayOverrun_dram (t : FrameTable) (l : LaneId) (n : Nat) (s : State) :
    (replayOverrun t l n s).capture.dram = s.capture.dram := by
  unfold replayOverrun
  try dsimp only
  simp

@[simp] theorem replayGap_dram (t : FrameTable) (l : LaneId) (s : State) :
    (replayGap t l s).capture.dram = s.capture.dram := by
  unfold replayGap
  try dsimp only
  (repeat' split) <;> simp

@[simp] theorem replayTick_dram (t : FrameTable) (l : LaneId) (s : State) :
    (replayTick t l s).capture.dram = s.capture.dram := by
  unfold replayTick
  try dsimp only
  (repeat' split) <;> simp

@[simp] theorem replayTicks_dram (t : FrameTable) (l : LaneId) (n : Nat) (s : State) :
    (replayTicks t l n s).capture.dram = s.capture.dram := by
  induction n generalizing s with
  | zero => simp [replayTicks]
  | succ m ih =>
    unfold replayTicks
    split <;> simp_all

@[simp] theorem replayEnd_dram (t : FrameTable) (l : LaneId) (n : Nat) (s : State) :
    (replayEnd t l n s).capture.dram = s.capture.dram := by
  unfold replayEnd
  try dsimp only
  (repeat' split) <;> simp

@[simp] theorem replayRead_dram (l : LaneId) (s : State) :
    (replayRead l s).capture.dram = s.capture.dram := by
  unfold replayRead
  try dsimp only
  (repeat' split) <;> simp

@[simp] theorem enqueue_dram (i : Nat) (r : Record) (p : Bool) (s : State) :
    (enqueue i r p s).capture.dram = s.capture.dram := by
  unfold enqueue
  try dsimp only
  simp

@[simp] theorem placeOverrun_dram (i : Nat) (o : Overrun) (r : Record) (p : Bool) (s : State) :
    (placeOverrun i o r p s).capture.dram = s.capture.dram := by
  unfold placeOverrun
  try dsimp only
  simp

@[simp] theorem loseRecord_dram (i : Nat) (r : Record) (s : State) :
    (loseRecord i r s).capture.dram = s.capture.dram := by
  unfold loseRecord
  try dsimp only
  simp

@[simp] theorem takeReference_dram (i : Nat) (r : Record) (s : State) :
    (takeReference i r s).capture.dram = s.capture.dram := by
  unfold takeReference
  try dsimp only
  simp

@[simp] theorem produce_dram (i : Nat) (r : Record) (p : Bool) (s : State) :
    (produce i r p s).capture.dram = s.capture.dram := by
  unfold produce
  try dsimp only
  (repeat' split) <;> simp

@[simp] theorem beginSegment_dram (i t : Nat) (s : State) :
    (beginSegment i t s).capture.dram = s.capture.dram := by
  unfold beginSegment
  try dsimp only
  simp

@[simp] theorem produceStart_dram (i t : Nat) (m : Sample) (s : State) :
    (produceStart i t m s).capture.dram = s.capture.dram := by
  unfold produceStart
  try dsimp only
  simp

@[simp] theorem producePod_dram (i t : Nat) (m : Sample) (p : Bool) (s : State) :
    (producePod i t m p s).capture.dram = s.capture.dram := by
  unfold producePod
  try dsimp only
  simp

@[simp] theorem produceChange_dram (i t : Nat) (m : Sample) (p : Bool) (s : State) :
    (produceChange i t m p s).capture.dram = s.capture.dram := by
  unfold produceChange
  try dsimp only
  simp

@[simp] theorem produceSample_dram (i t : Nat) (m : Sample) (e : Bool) (s : State) :
    (produceSample i t m e s).capture.dram = s.capture.dram := by
  unfold produceSample
  try dsimp only
  (repeat' split) <;> simp

@[simp] theorem captureSample_dram (t : Nat) (m : Sample) (e : Bool) (s : State) :
    (captureSample t m e s).capture.dram = s.capture.dram := by
  unfold captureSample
  try dsimp only
  (repeat' split) <;> simp

@[simp] theorem closeSegment_dram (i : Nat) (b : Bool) (s : State) :
    (closeSegment i b s).capture.dram = s.capture.dram := by
  unfold closeSegment
  try dsimp only
  (repeat' split) <;> simp

@[simp] theorem stopSampling_dram (g : Option Nat) (s : State) :
    (stopSampling g s).capture.dram = s.capture.dram := by
  unfold stopSampling
  try dsimp only
  simp

@[simp] theorem endCapture_dram (i : Nat) (b : Bool) (s : State) :
    (endCapture i b s).capture.dram = s.capture.dram := by
  unfold endCapture
  try dsimp only
  simp

@[simp] theorem endMonitor_dram (s : State) :
    (endMonitor s).capture.dram = s.capture.dram := by
  unfold endMonitor
  try dsimp only
  simp

@[simp] theorem stopCapture_dram (s : State) :
    (stopCapture s).capture.dram = s.capture.dram := by
  unfold stopCapture
  try dsimp only
  (repeat' split) <;> simp

@[simp] theorem timeLimitStop_dram (s : State) :
    (timeLimitStop s).capture.dram = s.capture.dram := by
  unfold timeLimitStop
  try dsimp only
  (repeat' split) <;> simp

@[simp] theorem settleTimeLimit_dram (s : State) :
    (settleTimeLimit s).capture.dram = s.capture.dram := by
  unfold settleTimeLimit
  try dsimp only
  (repeat' split) <;> simp

@[simp] theorem completePostFill_dram (i : Nat) (s : State) :
    (completePostFill i s).capture.dram = s.capture.dram := by
  unfold completePostFill
  try dsimp only
  (repeat' split) <;> simp

@[simp] theorem settlePostFill_dram (s : State) :
    (settlePostFill s).capture.dram = s.capture.dram := by
  unfold settlePostFill
  try dsimp only
  (repeat' split) <;> simp

@[simp] theorem settleAtTrigger_dram (s : State) : (settleAtTrigger s).capture.dram = s.capture.dram := by
  unfold settleAtTrigger
  split <;> simp

@[simp] theorem stampedSample_dram (t : Nat) (m : Sample) (e : Bool) (s : State) :
    (stampedSample t m e s).capture.dram = s.capture.dram := by
  unfold stampedSample
  try dsimp only
  (repeat' split) <;> simp

@[simp] theorem settleBeforeSample_dram (s : State) :
    (settleBeforeSample s).capture.dram = s.capture.dram := by
  unfold settleBeforeSample
  try dsimp only
  simp

@[simp] theorem gridTick_dram (b : Bool) (s : State) :
    (gridTick b s).capture.dram = s.capture.dram := by
  unfold gridTick
  try dsimp only
  (repeat' split) <;> simp

@[simp] theorem settleIndex_dram (i : Nat) (s : State) :
    (settleIndex i s).capture.dram = s.capture.dram := by
  unfold settleIndex
  try dsimp only
  (repeat' split) <;> simp

@[simp] theorem closeWritten_dram (i : Nat) (s : State) :
    (closeWritten i s).capture.dram = s.capture.dram := by
  unfold closeWritten
  try dsimp only
  (repeat' split) <;> simp

@[simp] theorem readRecord_dram (r : RecordReadout) (s : State) :
    (readRecord r s).capture.dram = s.capture.dram := by
  unfold readRecord
  try dsimp only
  simp

@[simp] theorem readoutAccess_dram (s : State) :
    (readoutAccess s).capture.dram = s.capture.dram := by
  unfold readoutAccess
  try dsimp only
  (repeat' split) <;> simp

@[simp] theorem newLayout_dram (s : State) :
    (newLayout s).capture.dram = s.capture.dram := rfl

@[simp] theorem startCapture_dram (s : State) :
    (startCapture s).capture.dram = s.capture.dram := by
  unfold startCapture
  try dsimp only
  simp

@[simp] theorem stopHunting_dram (l : LaneId) (s : State) :
    (stopHunting l s).capture.dram = s.capture.dram := by
  unfold stopHunting
  try dsimp only
  simp

@[simp] theorem stopGraceful_dram (l : LaneId) (s : State) :
    (stopGraceful l s).capture.dram = s.capture.dram := by
  unfold stopGraceful
  try dsimp only
  (repeat' split) <;> simp

@[simp] theorem stopNow_dram (l : LaneId) (s : State) :
    (stopNow l s).capture.dram = s.capture.dram := by
  unfold stopNow
  try dsimp only
  (repeat' split) <;> simp

@[simp] theorem grantRecords_dram (r : RecordReadout) (s : State) :
    (grantRecords r s).capture.dram = s.capture.dram := by
  unfold grantRecords
  try dsimp only
  simp

@[simp] theorem grantData_dram (s : State) :
    (grantData s).capture.dram = s.capture.dram := by
  unfold grantData
  try dsimp only
  (repeat' split) <;> simp

@[simp] theorem cmdSetCapture_dram (mask count prefill postfill hold auto : Word) (s : State) :
    (cmdSetCapture mask count prefill postfill hold auto s).2.capture.dram = s.capture.dram := by
  unfold cmdSetCapture
  try dsimp only
  (repeat' split) <;> simp

@[simp] theorem cmdRun_dram (s : State) :
    (cmdRun s).2.capture.dram = s.capture.dram := by
  unfold cmdRun
  try dsimp only
  (repeat' split) <;> simp

@[simp] theorem cmdMonitor_dram (s : State) :
    (cmdMonitor s).2.capture.dram = s.capture.dram := by
  unfold cmdMonitor
  try dsimp only
  (repeat' split) <;> simp

@[simp] theorem cmdStop_dram (s : State) :
    (cmdStop s).2.capture.dram = s.capture.dram := by
  unfold cmdStop
  try dsimp only
  simp

@[simp] theorem cmdReadRecords_dram (tag : Tag) (seg start count : Word) (s : State) :
    (cmdReadRecords tag seg start count s).2.capture.dram = s.capture.dram := by
  unfold cmdReadRecords
  try dsimp only
  (repeat' split) <;> simp

@[simp] theorem cmdAbortRead_dram (s : State) :
    (cmdAbortRead s).2.capture.dram = s.capture.dram := by
  unfold cmdAbortRead
  try dsimp only
  simp

@[simp] theorem cmdLaneStopGraceful_dram (lane : Word) (s : State) :
    (cmdLaneStopGraceful lane s).2.capture.dram = s.capture.dram := by
  unfold cmdLaneStopGraceful
  try dsimp only
  (repeat' split) <;> simp

@[simp] theorem cmdLaneStopNow_dram (lane : Word) (s : State) :
    (cmdLaneStopNow lane s).2.capture.dram = s.capture.dram := by
  unfold cmdLaneStopNow
  try dsimp only
  (repeat' split) <;> simp

theorem takeCommand_dram (i : Instr) (s : State) : (takeCommand i s).capture.dram = s.capture.dram := by
  cases i <;> simp [takeCommand, take]

@[simp] theorem softReset_dram (s : State) : (softReset s).capture.dram = s.capture.dram := rfl

end Sys2Proof.Machine
end

