-- ==== Sys2Proof/Laws/Lanes.lean ====
section
/-! SUPPORT. Decode lanes: channel sets and values bit by bit, what extraction and delivery leave alone, and what a tick keeps of
its lane (chapter 6). -/

namespace Sys2Proof.Machine

/-! ## Channel sets (R105) -/

theorem getLsbD_bitMask (c k : Nat) (hk : k < 32) : (bitMask c).getLsbD k = decide (c = k) := by
  unfold bitMask
  by_cases h : c = k
  · subst h
    simp [hk]
  · rcases Nat.lt_or_gt_of_ne h with h' | h'
    · have : k - c ≠ 0 := by omega
      simp [hk, h, this]
    · simp [hk, h, h']

/-- A channel set has the bit of exactly the channels listed. -/
theorem getLsbD_maskOf (cs : List Nat) (k : Nat) (hk : k < 32) : (maskOf cs).getLsbD k = decide (k ∈ cs) := by
  have grow : ∀ m : Word, (cs.foldl (fun m k => m ||| bitMask k) m).getLsbD k = (m.getLsbD k || decide (k ∈ cs)) := by
    induction cs with
    | nil => simp
    | cons c cs ih =>
      intro m
      simp only [List.foldl_cons, ih, BitVec.getLsbD_or, getLsbD_bitMask c k hk, List.mem_cons]
      by_cases h : c = k
      · simp [h]
      · have : ¬ k = c := fun e => h e.symm
        simp [h, this]
  unfold maskOf
  rw [grow]
  simp

/-! ## Values of field entries (R99) -/

/-- A value has fewer bits than its entry's width. -/
theorem valueOf_lt (lsb : Bool) (bits : List Bool) : valueOf lsb bits < 2 ^ bits.length := by
  cases lsb
  · have grow : ∀ (bits : List Bool) n, bits.foldl (fun n (b : Bool) => 2 * n + b.toNat) n < (n + 1) * 2 ^ bits.length := by
      intro bits
      induction bits with
      | nil => simp
      | cons b bs ih =>
        intro n
        refine lt_of_lt_of_le (ih _) ?_
        rw [List.length_cons, pow_succ, ← mul_assoc, mul_right_comm]
        apply Nat.mul_le_mul_right
        cases b <;> simp <;> omega
    simpa [valueOf] using grow bits 0
  · simp only [valueOf, if_true]
    induction bits with
    | nil => simp
    | cons b bs ih =>
      simp only [List.foldr_cons, List.length_cons, pow_succ]
      cases b <;> simp <;> omega

/-- Each bit of a value stands in the gatherer at its place from the front, or from the back (R99). -/
theorem testBit_valueOf (lsb : Bool) (bits : List Bool) (i : Nat) (h : i < bits.length) :
    (valueOf lsb bits).testBit i = bits.getD (if lsb then i else bits.length - 1 - i) false := by
  cases lsb
  · have grow : ∀ (bits : List Bool) n i, (bits.foldl (fun n (b : Bool) => 2 * n + b.toNat) n).testBit i =
        if i < bits.length then bits.getD (bits.length - 1 - i) false else n.testBit (i - bits.length) := by
      intro bits
      induction bits with
      | nil => simp
      | cons b bs ih =>
        intro n i
        simp only [List.foldl_cons, ih, List.length_cons]
        by_cases h1 : i < bs.length
        · rw [if_pos h1, if_pos (by omega), show bs.length + 1 - 1 - i = (bs.length - 1 - i) + 1 by omega]
          simp
        · rw [if_neg h1]
          by_cases h2 : i = bs.length
          · subst h2
            cases b <;> simp
          · rw [if_neg (by omega), show i - bs.length = (i - (bs.length + 1)) + 1 by omega, Nat.testBit_succ]
            congr 1
            (cases b <;> simp); omega
    simpa [valueOf, h] using grow bits 0 i
  · simp only [valueOf, if_true]
    induction bits generalizing i with
    | nil => simp at h
    | cons b bs ih =>
      simp only [List.foldr_cons]
      cases i with
      | zero => cases b <;> simp
      | succ i =>
        rw [Nat.testBit_succ, show (2 * _ + b.toNat) / 2 = List.foldr (fun b n => 2 * n + b.toNat) 0 bs by
          (cases b <;> simp); omega, ih i (by simpa using h)]
        simp

@[simp] theorem length_bytesMsb (n x : Nat) : (bytesMsb n x).length = n := by
  induction n with
  | zero => rfl
  | succ n ih => simp [bytesMsb, ih]

/-- Byte `i` of a value, most significant byte first (R99). -/
theorem getElem_bytesMsb (n x i : Nat) (h : i < n) :
    (bytesMsb n x)[i]? = some (BitVec.ofNat 8 (x / 256 ^ (n - 1 - i))) := by
  induction n generalizing i with
  | zero => omega
  | succ n ih =>
    unfold bytesMsb
    cases i with
    | zero => simp [show 256 = 2 ^ 8 by rfl, pow_mul]
    | succ i =>
      rw [List.getElem?_cons_succ, ih i (by omega)]
      congr 4
      omega

/-! ## Extraction needs no more fuel than it is given (R100, R129) -/

theorem reach_fuel (es : List Entry) (lengths : List (Nat × Nat)) :
    ∀ a b i, es.length < a + i → es.length < b + i → reach es lengths a i = reach es lengths b i := by
  intro a
  induction a with
  | zero =>
    intro b i h1 _
    cases b with
    | zero => rfl
    | succ b =>
      unfold reach
      simp [List.getElem?_eq_none (show es.length ≤ i by omega)]
  | succ a ih =>
    intro b i h1 h2
    cases b with
    | zero =>
      conv => lhs; unfold reach
      conv => rhs; unfold reach
      rw [List.getElem?_eq_none (by omega)]
    | succ b =>
      unfold reach
      split
      · rfl
      · split <;> try rfl
        exact ih b (i + 1) (by omega) (by omega)

theorem extract_fuel (t : FrameTable) (hw : ∀ e ∈ t.entries, 1 ≤ e.width) :
    ∀ a b (ln : Lane), ln.gatherer.length < a → ln.gatherer.length < b → extract t a ln = extract t b ln := by
  intro a
  induction a with
  | zero => omega
  | succ a ih =>
    intro b ln h1 h2
    cases b with
    | zero => omega
    | succ b =>
      unfold extract
      split
      · rename_i f e _ he
        have := hw e (List.mem_of_getElem? he)
        split
        · apply ih <;> simp [takeEntry] <;> omega
        · rfl
      · rfl

/-! ## What extraction and delivery leave alone -/

theorem takeEntry_with_front (t : FrameTable) (ln : Lane) (f : PartialFrame) (e : Entry) (g : FrontState) (r : Bool) :
    takeEntry t { ln with front := g, resync := r } f e = { takeEntry t ln f e with front := g, resync := r } := rfl

theorem extract_with_front (t : FrameTable) (n : Nat) (ln : Lane) (g : FrontState) (r : Bool) :
    extract t n { ln with front := g, resync := r } = { extract t n ln with front := g, resync := r } := by
  induction n generalizing ln with
  | zero => rfl
  | succ n ih =>
    unfold extract
    simp only
    split <;> (try split) <;> (try rfl)
    rw [takeEntry_with_front, ih]

/-- A delivery neither reads nor writes the front end and the resynchronising flag (R128, R129). -/
theorem deliverUnit_with_front (t : FrameTable) (bits : List Bool) (a b : Nat) (ln : Lane) (g : FrontState) (r : Bool) :
    deliverUnit t bits a b { ln with front := g, resync := r } =
      { deliverUnit t bits a b ln with front := g, resync := r } := by
  unfold deliverUnit
  split
  · simp_all
  · simp_all only
    split
    · rfl
    · exact extract_with_front t _ { ln with frame := _, gatherer := ln.gatherer ++ bits } g r

/-- What every step of a lane's tick keeps: its source and replay context; and it is OFF only where it says so. -/
def Lane.keeps (ln x : Lane) : Prop :=
  x.isReplay = ln.isReplay ∧ x.replay = ln.replay ∧ (ln.state ≠ .off → x.state ≠ .off)

theorem keeps_of_state {ln x : Lane} (h1 : x.isReplay = ln.isReplay) (h2 : x.replay = ln.replay)
    (h3 : x.state = ln.state) : ln.keeps x :=
  ⟨h1, h2, fun h => h3 ▸ h⟩

theorem Lane.keeps_refl (ln : Lane) : ln.keeps ln := ⟨rfl, rfl, id⟩

theorem Lane.keeps.trans {a b c : Lane} (h : a.keeps b) (g : b.keeps c) : a.keeps c :=
  ⟨g.1.trans h.1, g.2.1.trans h.2.1, fun n => g.2.2 (h.2.2 n)⟩

theorem extract_keeps (t : FrameTable) (n : Nat) (ln : Lane) : ln.keeps (extract t n ln) := by
  induction n generalizing ln with
  | zero => exact ln.keeps_refl
  | succ n ih =>
    unfold extract
    split <;> (try split) <;> (try exact ln.keeps_refl)
    exact (keeps_of_state rfl rfl rfl : ln.keeps (takeEntry t ln _ _)).trans (ih _)

theorem deliverUnit_keeps (t : FrameTable) (bits : List Bool) (a b : Nat) (ln : Lane) :
    ln.keeps (deliverUnit t bits a b ln) := by
  unfold deliverUnit
  split
  · exact ln.keeps_refl
  · simp only
    split
    · exact keeps_of_state rfl rfl rfl
    · exact (keeps_of_state rfl rfl rfl : ln.keeps _).trans (extract_keeps _ _ _)

theorem openFrame_keeps (t : FrameTable) (tick : Nat) (ln : Lane) : ln.keeps (openFrame t tick ln) :=
  ⟨rfl, rfl, fun _ => by simp [openFrame]⟩

theorem endFrame_keeps (t : FrameTable) (l : LaneId) (tick : Nat) (a o r : Bool) (ln : Lane)
    (h : (endFrame t l tick a o r ln).off = false) : ln.keeps (endFrame t l tick a o r ln).lane := by
  revert h
  unfold endFrame
  simp only
  split
  · split
    · exact fun h => absurd h (by simp)
    · exact fun _ => ⟨rfl, rfl, fun _ => by simp [LaneOut.quiet]⟩
  · intro h
    rw [if_neg (by simpa using h)]
    exact ⟨rfl, rfl, fun _ => by simp⟩

/-- A frame with no open lane frame ends as entry to OFF alone (R112). -/
theorem endFrame_off_of_none (t : FrameTable) (l : LaneId) (tick : Nat) (a r : Bool) (ln : Lane) (h : ln.frame = none) :
    endFrame t l tick a true r ln = ⟨ln.toOff, none, false, true⟩ := by
  simp [endFrame, h]

theorem afterUnit_keeps (t : FrameTable) (l : LaneId) (tick : Nat) (ln : Lane) (h : (afterUnit t l tick ln).off = false) :
    ln.keeps (afterUnit t l tick ln).lane := by
  revert h
  unfold afterUnit
  split
  · exact endFrame_keeps _ _ _ _ _ _ _
  · exact fun _ => ln.keeps_refl

/-- A unit's delivery with the end it may bring (R129). -/
theorem unitEnd_keeps (t : FrameTable) (l : LaneId) (tick : Nat) (bits : List Bool) (a : Nat) (ln x : Lane) (hx : ln.keeps x)
    (h : (afterUnit t l tick (deliverUnit t bits a tick x)).off = false) :
    ln.keeps (afterUnit t l tick (deliverUnit t bits a tick x)).lane :=
  (hx.trans (deliverUnit_keeps t bits a tick x)).trans (afterUnit_keeps t l tick _ h)

theorem mark_keeps (ln : Lane) (f : PartialFrame → PartialFrame) : ln.keeps (ln.mark f) := keeps_of_state rfl rfl rfl

theorem charTick_keeps (t : FrameTable) (p : StartStop) (l : LaneId) (tick : Nat) (v : Bool) (c : CharState) (ln : Lane)
    (h : (charTick t p l tick v c ln).off = false) : ln.keeps (charTick t p l tick v c ln).lane := by
  revert h
  have idle : ln.keeps { ln with front := { ln.front with char := none } } := keeps_of_state rfl rfl rfl
  unfold charTick
  simp only
  split
  · exact fun _ => ln.keeps_refl
  split
  · split
    · exact fun _ => idle
    · intro _
      refine Lane.keeps.trans (b := if ln.state = .hunt then openFrame t c.start ln else ln) ?_ (keeps_of_state rfl rfl rfl)
      split
      · exact openFrame_keeps _ _ _
      · exact ln.keeps_refl
  split
  · exact fun _ => keeps_of_state rfl rfl rfl
  split
  · exact fun h => (idle.trans (mark_keeps _ _)).trans (endFrame_keeps _ _ _ _ _ _ _ h)
  split
  · exact fun _ => keeps_of_state rfl rfl rfl
  · exact unitEnd_keeps t l tick _ _ ln _ (idle.trans (mark_keeps _ _))

theorem startStopTick_keeps (t : FrameTable) (p : StartStop) (l : LaneId) (tick : Nat) (was now : BitVec 32) (ln : Lane)
    (h : (startStopTick t p l tick was now ln).off = false) : ln.keeps (startStopTick t p l tick was now ln).lane := by
  revert h
  unfold startStopTick
  simp only
  have keep : ∀ out : LaneOut, (out.off = false → ln.keeps out.lane) → (if out.off then out else
      { out with lane := { out.lane with front := out.lane.front.countIdle (now.getLsbD p.chan == p.idle) } }).off = false →
      ln.keeps (if out.off then out else
        { out with lane := { out.lane with front := out.lane.front.countIdle (now.getLsbD p.chan == p.idle) } }).lane := by
    intro out hk
    split
    · exact hk
    · exact fun h => (hk h).trans (keeps_of_state rfl rfl rfl)
  apply keep
  split
  · exact charTick_keeps _ _ _ _ _ _ _
  · intro _
    simp only [LaneOut.quiet, edgeTick]
    split
    · exact keeps_of_state rfl rfl rfl
    · exact ln.keeps_refl

theorem strobeBits_keeps (t : FrameTable) (p : Strobed) (l : LaneId) (tick : Nat) (now : BitVec 32) (ln : Lane)
    (h : (strobeBits t p l tick now ln).off = false) : ln.keeps (strobeBits t p l tick now ln).lane := by
  revert h
  unfold strobeBits
  simp only
  split
  · exact unitEnd_keeps t l tick _ _ ln _ (keeps_of_state rfl rfl rfl)
  · exact fun _ => keeps_of_state rfl rfl rfl

theorem strobedTick_keeps (t : FrameTable) (p : Strobed) (l : LaneId) (tick : Nat) (was now : BitVec 32) (ln : Lane)
    (h : (strobedTick t p l tick was now ln).off = false) : ln.keeps (strobedTick t p l tick was now ln).lane := by
  revert h
  unfold strobedTick
  simp only
  split
  · split
    · exact fun h => (keeps_of_state rfl rfl rfl : ln.keeps { ln with resync := false }).trans (endFrame_keeps _ _ _ _ _ _ _ h)
    · exact fun _ => keeps_of_state rfl rfl rfl
  split
  · split
    · exact fun _ => keeps_of_state rfl rfl rfl
    · intro h
      refine Lane.keeps.trans ?_ (strobeBits_keeps _ _ _ _ _ _ h)
      split
      · exact keeps_of_state rfl rfl rfl
      · exact (keeps_of_state rfl rfl rfl : ln.keeps _).trans (openFrame_keeps _ _ _)
  · exact fun _ => keeps_of_state rfl rfl rfl

theorem twoWireTick_keeps (t : FrameTable) (p : TwoWire) (l : LaneId) (tick : Nat) (was now : BitVec 32) (ln : Lane)
    (h : (twoWireTick t p l tick was now ln).off = false) : ln.keeps (twoWireTick t p l tick was now ln).lane := by
  revert h
  have opens : ∀ x : Lane, x.keeps (openTwoWire t tick x) := fun x =>
    (keeps_of_state rfl rfl rfl : x.keeps _).trans (openFrame_keeps _ _ _)
  unfold twoWireTick
  simp only
  split
  · split
    · split
      · exact endFrame_keeps _ _ _ _ _ _ _
      · exact fun h => (endFrame_keeps _ _ _ _ _ _ _ h).trans (opens _)
    · split
      · exact fun _ => ln.keeps_refl
      · exact fun _ => opens ln
  split
  · split
    · exact endFrame_keeps _ _ _ _ _ _ _
    · exact fun _ => keeps_of_state rfl rfl rfl
  split
  · unfold twoWireBit
    simp only
    split
    · exact unitEnd_keeps t l tick _ _ ln _ (keeps_of_state rfl rfl rfl)
    · exact fun _ => keeps_of_state rfl rfl rfl
  · exact fun _ => ln.keeps_refl

/-- A tick that does not take its lane OFF keeps the lane's source and replay context (R112, R117). -/
theorem judgeTick_keeps (t : FrameTable) (l : LaneId) (tick : Nat) (now : BitVec 32) (ln : Lane)
    (h : (judgeTick t l tick now ln).off = false) : ln.keeps (judgeTick t l tick now ln).lane := by
  revert h
  unfold judgeTick
  split
  · exact fun _ => keeps_of_state rfl rfl rfl
  · split
    · exact startStopTick_keeps _ _ _ _ _ _ _
    · exact strobedTick_keeps _ _ _ _ _ _ _
    · exact twoWireTick_keeps _ _ _ _ _ _ _

theorem laneTick_keeps (t : FrameTable) (l : LaneId) (tick : Nat) (levels : BitVec 32) (ln : Lane)
    (h : (laneTick t l tick levels ln).off = false) : ln.keeps (laneTick t l tick levels ln).lane := by
  revert h
  unfold laneTick
  simp only
  split
  · exact judgeTick_keeps t l tick _ ln
  · exact fun h => (judgeTick_keeps t l tick _ ln h).trans (keeps_of_state rfl rfl rfl)

end Sys2Proof.Machine
end

