-- ==== Sys2Proof/Laws/LanesOff.lean ====
section
/-! SUPPORT. With every lane OFF, what the part does for its lanes changes nothing. Each lemma names a state with the same lanes
as one in which every lane is known to be OFF. -/

namespace Sys2Proof.Machine

variable {s t : State}

theorem live_off (h : allLanesOff s) (e : t.lanes = s.lanes) (l : LaneId) : (t.lanes[l]).live = false := by
  have := h l
  simp only [Fin.getElem_fin] at this
  simp [Lane.live, e, this]

theorem settleGap_off (h : allLanesOff s) (e : t.lanes = s.lanes) (l : LaneId) : settleGap l t = t := by
  unfold settleGap
  split
  · rfl
  · simp only [live_off h e, Bool.false_and, Bool.false_eq_true, if_false]

theorem settleGaps_off (h : allLanesOff s) (e : t.lanes = s.lanes) : settleGaps t = t := by
  simp [settleGaps, forLanes, settleGap_off h e]

theorem liveLaneTick_off (h : allLanesOff s) (e : t.lanes = s.lanes) (n : Nat) (v : BitVec 32) (l : LaneId) :
    liveLaneTick n v l t = t := by
  unfold liveLaneTick
  split
  · rfl
  · simp only [live_off h e, Bool.false_eq_true, if_false]

theorem liveTick_off (h : allLanesOff s) (e : t.lanes = s.lanes) (n : Nat) (v : BitVec 32) : liveTick n v t = t := by
  simp [liveTick, forLanes, liveLaneTick_off h e]

theorem laneSampleStop_off (h : allLanesOff s) (e : t.lanes = s.lanes) (g : Option Nat) (l : LaneId) :
    laneSampleStop g l t = t := by
  unfold laneSampleStop
  split
  · rfl
  · simp only [live_off h e, Bool.false_and, Bool.false_eq_true, if_false]

theorem lanesStop_off (h : allLanesOff s) (e : t.lanes = s.lanes) (g : Option Nat) : lanesStop g t = t := by
  simp [lanesStop, forLanes, laneSampleStop_off h e]

theorem sampleStart_off (h : allLanesOff s) (e : t.lanes = s.lanes) (l : LaneId) :
    (t.lanes[l]).sampleStart = t.lanes[l] := by
  unfold Lane.sampleStart
  simp only [live_off h e, Bool.false_and, Bool.false_eq_true, if_false]

theorem setLane_self (l : LaneId) : setLane l t.lanes[l] t = t := by
  simp [setLane]

theorem lanesStart_off (h : allLanesOff s) (e : t.lanes = s.lanes) : lanesStart t = t := by
  simp only [lanesStart, forLanes, sampleStart_off h e, setLane_self]

theorem stopSampling_off (h : allLanesOff s) (e : t.lanes = s.lanes) (g : Option Nat) :
    stopSampling g t = setTime { t.time with sampling := false, fresh := false } t := by
  unfold stopSampling
  rw [lanesStop_off h (t := { t with time := { t.time with sampling := false, fresh := false } }) e]
  rfl

theorem startSampling_off (h : allLanesOff s) (e : t.lanes = s.lanes) :
    startSampling t = setTime { t.time with sampling := true, fresh := true, modeInForce := t.time.mode }
      (setTrigger (t.trigger.primed t.time.last) t) := by
  unfold startSampling
  rw [lanesStart_off h (by exact e)]
  rfl

/-- The end of a capture with every lane OFF. -/
theorem endCapture_off (h : allLanesOff s) (e : t.lanes = s.lanes) (i : Nat) (b : Bool) :
    endCapture i b t =
      setTime { t.time with sampling := false, fresh := false }
        (setTrigger t.trigger.toIdle (setCapture { (closeSegment i b t).capture with ctl := .closing } t)) := by
  have hl : (setTrigger (closeSegment i b t).trigger.toIdle
      (setCapture { (closeSegment i b t).capture with ctl := .closing } (closeSegment i b t))).lanes = s.lanes := by
    simp [e]
  unfold endCapture
  rw [stopSampling_off h hl]
  have f := closeSegment_frame i b t
  simp only [closeSegment_frame, setTrigger_time, setCapture_time]
  obtain ⟨_, _, _, _, _, _, _, _, _, _, _⟩ := f
  simp [setTime, setTrigger, setCapture, *]

end Sys2Proof.Machine
end

