-- ==== Sys2Proof/Laws/Mem.lean ====
section
/-! SUPPORT. Canonical memories: every operation keeps the canonical form, a read after a write to the same address gives the
value written, and a write leaves every other address as it reads. -/

namespace Sys2Proof.Machine

variable {α : Type} [DecidableEq α] {d : α}

theorem Mem.wfFrom_mono {m : Mem α} {a b : Nat} (h : Mem.wfFrom d m b = true) (hab : a ≤ b) :
    Mem.wfFrom d m a = true := by
  cases m with
  | nil => rfl
  | cons kv rest =>
    simp only [Mem.wfFrom, Bool.and_eq_true, decide_eq_true_eq] at *
    exact ⟨⟨by omega, h.1.2⟩, h.2⟩

/-- Below where a canonical list begins, every address reads as the default. -/
theorem Mem.read_below {m : Mem α} {a b : Nat} (h : Mem.wfFrom d m b = true) (hab : a < b) : Mem.read d m a = d := by
  induction m generalizing b with
  | nil => rfl
  | cons kv rest ih =>
    simp only [Mem.wfFrom, Bool.and_eq_true, decide_eq_true_eq] at h
    have hk : kv.1 ≠ a := by omega
    simp only [Mem.read, if_neg hk]
    exact ih h.2 (by omega)

theorem Mem.insert_wfFrom {m : Mem α} {a b : Nat} {v : α} (h : Mem.wfFrom d m b = true) (hab : b ≤ a) (hv : v ≠ d) :
    Mem.wfFrom d (Mem.insert m a v) b = true := by
  induction m generalizing b with
  | nil => simp [Mem.insert, Mem.wfFrom, hab, hv]
  | cons kv rest ih =>
    obtain ⟨k, w⟩ := kv
    simp only [Mem.wfFrom, Bool.and_eq_true, decide_eq_true_eq] at h
    unfold Mem.insert
    split
    · rename_i hlt
      simp only [Mem.wfFrom, Bool.and_eq_true, decide_eq_true_eq, Bool.not_eq_true', decide_eq_false_iff_not]
      refine ⟨⟨hab, hv⟩, ⟨by omega, ?_⟩, h.2⟩
      simpa using h.1.2
    · split
      · rename_i heq
        subst heq
        simp only [Mem.wfFrom, Bool.and_eq_true, decide_eq_true_eq, Bool.not_eq_true', decide_eq_false_iff_not]
        exact ⟨⟨hab, hv⟩, h.2⟩
      · simp only [Mem.wfFrom, Bool.and_eq_true, decide_eq_true_eq]
        exact ⟨h.1, ih h.2 (by omega)⟩

theorem Mem.erase_wfFrom {m : Mem α} {a b : Nat} (h : Mem.wfFrom d m b = true) :
    Mem.wfFrom d (Mem.erase m a) b = true := by
  induction m generalizing b with
  | nil => rfl
  | cons kv rest ih =>
    obtain ⟨k, w⟩ := kv
    simp only [Mem.wfFrom, Bool.and_eq_true, decide_eq_true_eq] at h
    unfold Mem.erase
    split
    · exact Mem.wfFrom_mono h.2 (by omega)
    · simp only [Mem.wfFrom, Bool.and_eq_true, decide_eq_true_eq]
      exact ⟨h.1, ih h.2⟩

/-- A write keeps the canonical form. -/
theorem Mem.write_wf {m : Mem α} (a : Nat) (v : α) (h : Mem.wf d m = true) : Mem.wf d (Mem.write d m a v) = true := by
  unfold Mem.write
  split
  · exact Mem.erase_wfFrom h
  · exact Mem.insert_wfFrom h (Nat.zero_le a) (by assumption)

omit [DecidableEq α] in
theorem Mem.read_insert_self (m : Mem α) (a : Nat) (v : α) : Mem.read d (Mem.insert m a v) a = v := by
  induction m with
  | nil => simp [Mem.insert, Mem.read]
  | cons kv rest ih =>
    obtain ⟨k, w⟩ := kv
    unfold Mem.insert
    split
    · simp [Mem.read]
    · split
      · simp [Mem.read]
      · have : k ≠ a := by omega
        simp [Mem.read, this, ih]

omit [DecidableEq α] in
theorem Mem.read_insert_ne (m : Mem α) {a b : Nat} (v : α) (h : b ≠ a) :
    Mem.read d (Mem.insert m a v) b = Mem.read d m b := by
  induction m with
  | nil => simp [Mem.insert, Mem.read, Ne.symm h]
  | cons kv rest ih =>
    obtain ⟨k, w⟩ := kv
    unfold Mem.insert
    split
    · simp [Mem.read, Ne.symm h]
    · split
      · rename_i he
        subst he
        simp [Mem.read, Ne.symm h]
      · simp [Mem.read, ih]

theorem Mem.read_erase_self {m : Mem α} {a b : Nat} (h : Mem.wfFrom d m b = true) :
    Mem.read d (Mem.erase m a) a = d := by
  induction m generalizing b with
  | nil => rfl
  | cons kv rest ih =>
    obtain ⟨k, w⟩ := kv
    simp only [Mem.wfFrom, Bool.and_eq_true, decide_eq_true_eq] at h
    unfold Mem.erase
    split
    · rename_i he
      exact Mem.read_below h.2 (by omega)
    · rename_i he
      simp only [Mem.read, if_neg he]
      exact ih h.2

omit [DecidableEq α] in
theorem Mem.read_erase_ne (m : Mem α) {a b : Nat} (h : b ≠ a) : Mem.read d (Mem.erase m a) b = Mem.read d m b := by
  induction m with
  | nil => rfl
  | cons kv rest ih =>
    obtain ⟨k, w⟩ := kv
    unfold Mem.erase
    split
    · rename_i he
      have : k ≠ b := by omega
      simp [Mem.read, this]
    · simp [Mem.read, ih]

/-- A read after a write to the same address gives the value written. -/
theorem Mem.read_write_self {m : Mem α} (a : Nat) (v : α) (h : Mem.wf d m = true) :
    Mem.read d (Mem.write d m a v) a = v := by
  unfold Mem.write
  split
  · rename_i hv
    rw [hv]
    exact Mem.read_erase_self h
  · exact Mem.read_insert_self m a v

/-- A write leaves every other address as it reads. -/
theorem Mem.read_write_ne (m : Mem α) {a b : Nat} (v : α) (h : b ≠ a) :
    Mem.read d (Mem.write d m a v) b = Mem.read d m b := by
  unfold Mem.write
  split
  · exact Mem.read_erase_ne m h
  · exact Mem.read_insert_ne m v h

/-! ## The two memories of the part -/

/-- The DRAM after a ring write. -/
theorem ringWrite_dram (q : Queued) (rest : List Queued) (s : State) :
    (ringWrite q rest s).capture.dram =
      Mem.write Record.blank s.capture.dram (ringSlot q.seg (segAt s q.seg) (segAt s q.seg).written) q.record := by
  unfold ringWrite
  dsimp only
  (repeat' split) <;> simp

theorem paintLine_wf (f : Nat → BitVec 4) (plane : Mem (BitVec 4)) (a n : Nat) (h : Mem.wf 0 plane = true) :
    Mem.wf 0 (paintLine f plane a n) = true := by
  induction n with
  | zero => exact h
  | succ m ih => exact Mem.write_wf _ _ ih

theorem paintRect_wf (f : Nat → Nat → BitVec 4) (plane : Mem (BitVec 4)) (x y w h : Nat) (hp : Mem.wf 0 plane = true) :
    Mem.wf 0 (paintRect f plane x y w h) = true := by
  induction h with
  | zero => exact hp
  | succ m ih => exact paintLine_wf _ _ _ _ ih

end Sys2Proof.Machine
end

