-- ==== Sys2Proof/Laws/Packets.lean ====
section
/-! SUPPORT. Headers and two-word arguments read back as they were written, and the words of frame records and cells
(sections 11.1, 11.2, 11.6). -/

namespace Sys2Proof.Machine

theorem field_word (n lo len : Nat) (h : n < 4294967296) : field (word n) lo len = n / 2 ^ lo % 2 ^ len := by
  simp only [field, word, BitVec.toNat_ofNat, Nat.shiftRight_eq_div_pow]
  rw [Nat.mod_eq_of_lt (a := n) (b := 2 ^ 32) (by omega)]

theorem headerLength_headerWord (p : Nat) (tag : Tag) (n : Nat) (hp : p < 16) (hn : n < 1024) :
    headerLength (headerWord p tag n) = n := by
  have ht := tag.isLt
  simp only [headerLength, headerWord]
  rw [field_word _ _ _ (by omega)]
  omega

theorem headerTag_headerWord (p : Nat) (tag : Tag) (n : Nat) (hp : p < 16) :
    headerTag (headerWord p tag n) = tag := by
  have ht := tag.isLt
  simp only [headerTag, headerWord]
  rw [field_word _ _ _ (by omega)]
  apply BitVec.eq_of_toNat_eq
  simp only [BitVec.toNat_ofNat]
  omega

theorem headerType_headerWord (p : Nat) (tag : Tag) (n : Nat) (hp : p < 16) (hn : n < 1024) :
    headerType (headerWord p tag n) = BitVec.ofNat 4 p := by
  have ht := tag.isLt
  simp only [headerType, headerWord]
  rw [field_word _ _ _ (by omega)]
  apply BitVec.eq_of_toNat_eq
  simp only [BitVec.toNat_ofNat]
  omega

@[simp] theorem dword_lowWord_highWord (d : DWord) : dword (lowWord d) (highWord d) = d := by
  unfold dword lowWord highWord
  apply BitVec.eq_of_getLsbD_eq
  intro i hi
  simp only [BitVec.getLsbD_append, BitVec.getLsbD_extractLsb']
  split
  · simp_all
  · have : i - 32 < 32 := by omega
    have : 32 + (i - 32) = i := by omega
    simp_all

theorem field_code (c : Nat) (h : c < 256) : field (word c) 0 8 = c := by
  rw [field_word _ _ _ (by omega)]
  omega

/-- The bytes of a number, least significant first (R212). -/
theorem bytesOf_eq_map (n x : Nat) : bytesOf n x = (List.range n).map fun k => BitVec.ofNat 8 (x / 256 ^ k) := by
  induction n generalizing x with
  | zero => rfl
  | succ n ih =>
    rw [bytesOf, ih, List.range_succ_eq_map]
    simp [Nat.div_div_eq_div_mul, Nat.pow_succ', Function.comp_def]

@[simp] theorem bytesOf_length (n x : Nat) : (bytesOf n x).length = n := by simp [bytesOf_eq_map]

@[simp] theorem packBytes_length (bs : List Byte) : (packBytes bs).length = (bs.length + 3) / 4 := by
  induction bs using packBytes.induct <;> (simp_all [packBytes]; try omega)

theorem wordOfBytes_byte (a b c d : Byte) (k : Nat) (hk : k < 4) :
    BitVec.ofNat 8 ((wordOfBytes a b c d).toNat / 256 ^ k) = [a, b, c, d].getD k 0 := by
  have ha := a.isLt; have hb := b.isLt; have hc := c.isLt; have hd := d.isLt
  have key : (wordOfBytes a b c d).toNat = ((d.toNat * 256 + c.toNat) * 256 + b.toNat) * 256 + a.toNat := by
    simp only [wordOfBytes, BitVec.toNat_append]
    rw [← Nat.shiftLeft_add_eq_or_of_lt ha, ← Nat.shiftLeft_add_eq_or_of_lt hb, ← Nat.shiftLeft_add_eq_or_of_lt hc]
    simp only [Nat.shiftLeft_eq]
  obtain rfl | rfl | rfl | rfl : k = 0 ∨ k = 1 ∨ k = 2 ∨ k = 3 := by omega
  all_goals
    rw [key]
    apply BitVec.eq_of_toNat_eq
    simp
    omega

/-- Byte k of word j of packed bytes is byte 4j + k, or 0 past the end (R212, R214). -/
theorem packBytes_byte (bs : List Byte) (j k : Nat) (hj : j < (packBytes bs).length) (hk : k < 4) :
    BitVec.ofNat 8 (((packBytes bs).getD j 0).toNat / 256 ^ k) = bs.getD (4 * j + k) 0 := by
  induction bs using packBytes.induct generalizing j with
  | case1 => simp [packBytes] at hj
  | case5 a b c d rest ih =>
    cases j with
    | zero =>
      simp only [packBytes, List.getD_cons_zero, wordOfBytes_byte _ _ _ _ _ hk]
      obtain rfl | rfl | rfl | rfl : k = 0 ∨ k = 1 ∨ k = 2 ∨ k = 3 := by omega
      all_goals rfl
    | succ j =>
      have := ih j (by simpa [packBytes] using hj)
      rw [show 4 * (j + 1) + k = 4 * j + k + 4 by omega]
      simpa [packBytes] using this
  | _ =>
    obtain rfl : j = 0 := by simp [packBytes] at hj; omega
    simp only [packBytes, List.getD_cons_zero, wordOfBytes_byte _ _ _ _ _ hk]
    obtain rfl | rfl | rfl | rfl : k = 0 ∨ k = 1 ∨ k = 2 ∨ k = 3 := by omega
    all_goals rfl

theorem frameBytes_length (r : FrameRecord) : (frameBytes r).length = 20 + 5 * r.fields.length + r.data.length := by
  have : (r.fields.flatMap fieldBytes).length = 5 * r.fields.length := by
    induction r.fields with
    | nil => rfl
    | cons f fs ih => simp [fieldBytes, ih]; omega
  simp [frameBytes, this]
  omega

/-- A frame record takes `frameWordCount` words (section 11.6). -/
theorem frameWords_length (r : FrameRecord) : (frameWords r).length = frameWordCount r := by
  simp [frameWords, frameBytes_length, frameWordCount]

@[simp] theorem packCells_length (cs : List Cell) : (packCells cs).length = (cs.length + 1) / 2 := by
  induction cs using packCells.induct <;> (simp_all [packCells]; try omega)

/-- Word j holds cell 2j in its low half and cell 2j + 1, or 0 past the end, in its high half (section 11.6). -/
theorem packCells_word (cs : List Cell) (j : Nat) (hj : 2 * j < cs.length) :
    (packCells cs)[j]? = some (word (cellBits (cs.getD (2 * j) .blank) + cellBits (cs.getD (2 * j + 1) .blank) * 2 ^ 16)) := by
  induction cs using packCells.induct generalizing j with
  | case1 => simp at hj
  | case2 a =>
    obtain rfl : j = 0 := by simp at hj; omega
    simp [packCells, cellBits]
  | case3 a b rest ih =>
    cases j with
    | zero => simp [packCells]
    | succ j =>
      have := ih j (by simp at hj; omega)
      rw [show 2 * (j + 1) = 2 * j + 2 by omega]
      simpa [packCells] using this

end Sys2Proof.Machine
end

