-- ==== Sys2Proof/Laws/PerInstr.lean ====
section
/-! SUPPORT. The family PayloadFits: a well-formed command that a packet carries fits in its packet, and the packet's header
reads back its length, tag and type (section 10.1, section 11.1). -/

namespace Sys2Proof.Laws

open Sys2Proof.Machine

/-- The packet of a well-formed command has at most 1,023 payload words, and its header gives their number. -/
def PayloadFits.Statement (i : Instr) : Prop :=
  i.wf = true → ∀ p : Packet, encodePacket i = some p →
    p.payload.length ≤ maxPayload ∧ headerLength p.header = p.payload.length ∧ p.truncated = false

/-- Packets of up to 1,023 payload words. -/
theorem packetOf_fits (ptype : Nat) (tag : Tag) (payload : List Word) (ht : ptype < 16) (h : payload.length ≤ 1023) :
    (packetOf ptype tag payload).payload.length ≤ maxPayload ∧
      headerLength (packetOf ptype tag payload).header = (packetOf ptype tag payload).payload.length ∧
      (packetOf ptype tag payload).truncated = false :=
  ⟨h, headerLength_headerWord ptype tag payload.length ht (by omega), rfl⟩

/-- A packet known to be one of those. -/
theorem fits_of_packetOf {p : Packet} (ptype : Nat) (tag : Tag) (payload : List Word) (ht : ptype < 16)
    (h : payload.length ≤ 1023) (hp : some (packetOf ptype tag payload) = some p) :
    p.payload.length ≤ maxPayload ∧ headerLength p.header = p.payload.length ∧ p.truncated = false := by
  cases hp
  exact packetOf_fits ptype tag payload ht h

theorem PayloadFits.powerOnReset :
    PayloadFits.Statement (.powerOnReset) := by
  intro _ p hp
  simp [encodePacket] at hp

theorem PayloadFits.podPresenceSensed (p : Pod) :
    PayloadFits.Statement (.podPresenceSensed p) := by
  intro _ p hp
  simp [encodePacket] at hp

theorem PayloadFits.podRemoved (p : Pod) :
    PayloadFits.Statement (.podRemoved p) := by
  intro _ p hp
  simp [encodePacket] at hp

theorem PayloadFits.trainingWordReceived (p : Pod) (w : TrainingWord) :
    PayloadFits.Statement (.trainingWordReceived p w) := by
  intro _ p hp
  simp [encodePacket] at hp

theorem PayloadFits.trainingGiveUp (p : Pod) (w : TrainingWord) :
    PayloadFits.Statement (.trainingGiveUp p w) := by
  intro _ p hp
  simp [encodePacket] at hp

theorem PayloadFits.sampleFrameReceived (p : Pod) (samples : Vector Byte 16) :
    PayloadFits.Statement (.sampleFrameReceived p samples) := by
  intro _ p hp
  simp [encodePacket] at hp

theorem PayloadFits.badSampleFrame (p : Pod) :
    PayloadFits.Statement (.badSampleFrame p) := by
  intro _ p hp
  simp [encodePacket] at hp

theorem PayloadFits.statusWordReceived (p : Pod) (checkOk : Bool) (code : BitVec 8) (hyst : BitVec 2) :
    PayloadFits.Statement (.statusWordReceived p checkOk code hyst) := by
  intro _ p hp
  simp [encodePacket] at hp

theorem PayloadFits.setupFail (p : Pod) :
    PayloadFits.Statement (.setupFail p) := by
  intro _ p hp
  simp [encodePacket] at hp

theorem PayloadFits.setPod (tag : Tag) (pod code hyst : Word) :
    PayloadFits.Statement (.setPod tag pod code hyst) := by
  intro _ p hp
  exact fits_of_packetOf _ _ _ (by decide) (by simp only [List.length_cons, List.length_nil]; omega) hp

theorem PayloadFits.retrain (tag : Tag) (pod : Word) :
    PayloadFits.Statement (.retrain tag pod) := by
  intro _ p hp
  exact fits_of_packetOf _ _ _ (by decide) (by simp only [List.length_cons, List.length_nil]; omega) hp

theorem PayloadFits.setDeskew (tag : Tag) (first : Word) (values : List Word) :
    PayloadFits.Statement (.setDeskew tag first values) := by
  intro hw p hp
  simp [Instr.wf, maxPayload] at hw
  exact fits_of_packetOf _ _ _ (by decide) (by simp only [List.length_cons]; omega) hp

theorem PayloadFits.setGlitch (tag : Tag) (pod width : Word) :
    PayloadFits.Statement (.setGlitch tag pod width) := by
  intro _ p hp
  exact fits_of_packetOf _ _ _ (by decide) (by simp only [List.length_cons, List.length_nil]; omega) hp

theorem PayloadFits.podStatus (tag : Tag) (pod : Word) :
    PayloadFits.Statement (.podStatus tag pod) := by
  intro _ p hp
  exact fits_of_packetOf _ _ _ (by decide) (by simp only [List.length_cons, List.length_nil]; omega) hp

theorem PayloadFits.levelStreamSample (trigIn : Bool) :
    PayloadFits.Statement (.levelStreamSample trigIn) := by
  intro _ p hp
  simp [encodePacket] at hp

theorem PayloadFits.dividerOutput (d : DividerId) :
    PayloadFits.Statement (.dividerOutput d) := by
  intro _ p hp
  simp [encodePacket] at hp

theorem PayloadFits.counterMatch (k : CounterId) :
    PayloadFits.Statement (.counterMatch k) := by
  intro _ p hp
  simp [encodePacket] at hp

theorem PayloadFits.gapTimeout (l : LaneId) :
    PayloadFits.Statement (.gapTimeout l) := by
  intro _ p hp
  simp [encodePacket] at hp

theorem PayloadFits.timeLimit :
    PayloadFits.Statement (.timeLimit) := by
  intro _ p hp
  simp [encodePacket] at hp

theorem PayloadFits.postFillCompletion :
    PayloadFits.Statement (.postFillCompletion) := by
  intro _ p hp
  simp [encodePacket] at hp

theorem PayloadFits.arbiterGrant :
    PayloadFits.Statement (.arbiterGrant) := by
  intro _ p hp
  simp [encodePacket] at hp

theorem PayloadFits.secondsAdvance :
    PayloadFits.Statement (.secondsAdvance) := by
  intro _ p hp
  simp [encodePacket] at hp

theorem PayloadFits.correctionIntervalEnd :
    PayloadFits.Statement (.correctionIntervalEnd) := by
  intro _ p hp
  simp [encodePacket] at hp

theorem PayloadFits.rollRefresh :
    PayloadFits.Statement (.rollRefresh) := by
  intro _ p hp
  simp [encodePacket] at hp

theorem PayloadFits.frameEnd :
    PayloadFits.Statement (.frameEnd) := by
  intro _ p hp
  simp [encodePacket] at hp

theorem PayloadFits.backlightPeriodEnd :
    PayloadFits.Statement (.backlightPeriodEnd) := by
  intro _ p hp
  simp [encodePacket] at hp

theorem PayloadFits.setTimebase (tag : Tag) (d mode chan edge mask value : Word) :
    PayloadFits.Statement (.setTimebase tag d mode chan edge mask value) := by
  intro _ p hp
  exact fits_of_packetOf _ _ _ (by decide) (by simp only [List.length_cons, List.length_nil]; omega) hp

theorem PayloadFits.timebaseStatus (tag : Tag) :
    PayloadFits.Statement (.timebaseStatus tag) := by
  intro _ p hp
  exact fits_of_packetOf _ _ _ (by decide) (by simp only [List.length_cons, List.length_nil]; omega) hp

theorem PayloadFits.setClock (tag : Tag) (seconds : Word) :
    PayloadFits.Statement (.setClock tag seconds) := by
  intro _ p hp
  exact fits_of_packetOf _ _ _ (by decide) (by simp only [List.length_cons, List.length_nil]; omega) hp

theorem PayloadFits.setCorrection (tag : Tag) (dir amount interval : Word) :
    PayloadFits.Statement (.setCorrection tag dir amount interval) := by
  intro _ p hp
  exact fits_of_packetOf _ _ _ (by decide) (by simp only [List.length_cons, List.length_nil]; omega) hp

theorem PayloadFits.setRollPeriod (tag : Tag) (code : Word) :
    PayloadFits.Statement (.setRollPeriod tag code) := by
  intro _ p hp
  exact fits_of_packetOf _ _ _ (by decide) (by simp only [List.length_cons, List.length_nil]; omega) hp

theorem PayloadFits.setCapture (tag : Tag) (mask count prefill postfill hold auto : Word) :
    PayloadFits.Statement (.setCapture tag mask count prefill postfill hold auto) := by
  intro _ p hp
  exact fits_of_packetOf _ _ _ (by decide) (by simp only [List.length_cons, List.length_nil]; omega) hp

theorem PayloadFits.run (tag : Tag) :
    PayloadFits.Statement (.run tag) := by
  intro _ p hp
  exact fits_of_packetOf _ _ _ (by decide) (by simp only [List.length_cons, List.length_nil]; omega) hp

theorem PayloadFits.monitor (tag : Tag) :
    PayloadFits.Statement (.monitor tag) := by
  intro _ p hp
  exact fits_of_packetOf _ _ _ (by decide) (by simp only [List.length_cons, List.length_nil]; omega) hp

theorem PayloadFits.stop (tag : Tag) :
    PayloadFits.Statement (.stop tag) := by
  intro _ p hp
  exact fits_of_packetOf _ _ _ (by decide) (by simp only [List.length_cons, List.length_nil]; omega) hp

theorem PayloadFits.readSegment (tag : Tag) (seg : Word) :
    PayloadFits.Statement (.readSegment tag seg) := by
  intro _ p hp
  exact fits_of_packetOf _ _ _ (by decide) (by simp only [List.length_cons, List.length_nil]; omega) hp

theorem PayloadFits.readRecords (tag : Tag) (seg start count : Word) :
    PayloadFits.Statement (.readRecords tag seg start count) := by
  intro _ p hp
  exact fits_of_packetOf _ _ _ (by decide) (by simp only [List.length_cons, List.length_nil]; omega) hp

theorem PayloadFits.captureStatus (tag : Tag) :
    PayloadFits.Statement (.captureStatus tag) := by
  intro _ p hp
  exact fits_of_packetOf _ _ _ (by decide) (by simp only [List.length_cons, List.length_nil]; omega) hp

theorem PayloadFits.abortRead (tag : Tag) :
    PayloadFits.Statement (.abortRead tag) := by
  intro _ p hp
  exact fits_of_packetOf _ _ _ (by decide) (by simp only [List.length_cons, List.length_nil]; omega) hp

theorem PayloadFits.loadTrigger (tag : Tag) (image : List Word) :
    PayloadFits.Statement (.loadTrigger tag image) := by
  intro hw p hp
  simp [Instr.wf, maxPayload] at hw
  exact fits_of_packetOf _ _ _ (by decide) (by simp only [List.length_cons]; omega) hp

theorem PayloadFits.setArmTime (tag : Tag) (present seconds : Word) :
    PayloadFits.Statement (.setArmTime tag present seconds) := by
  intro _ p hp
  exact fits_of_packetOf _ _ _ (by decide) (by simp only [List.length_cons, List.length_nil]; omega) hp

theorem PayloadFits.setCounter (tag : Tag) (k value : Word) :
    PayloadFits.Statement (.setCounter tag k value) := by
  intro _ p hp
  exact fits_of_packetOf _ _ _ (by decide) (by simp only [List.length_cons, List.length_nil]; omega) hp

theorem PayloadFits.setCompare (tag : Tag) (k value : Word) :
    PayloadFits.Statement (.setCompare tag k value) := by
  intro _ p hp
  exact fits_of_packetOf _ _ _ (by decide) (by simp only [List.length_cons, List.length_nil]; omega) hp

theorem PayloadFits.forceTrigger (tag : Tag) :
    PayloadFits.Statement (.forceTrigger tag) := by
  intro _ p hp
  exact fits_of_packetOf _ _ _ (by decide) (by simp only [List.length_cons, List.length_nil]; omega) hp

theorem PayloadFits.triggerStatus (tag : Tag) :
    PayloadFits.Statement (.triggerStatus tag) := by
  intro _ p hp
  exact fits_of_packetOf _ _ _ (by decide) (by simp only [List.length_cons, List.length_nil]; omega) hp

theorem PayloadFits.loadFrameTable (tag : Tag) (lane : Word) (image : List Word) :
    PayloadFits.Statement (.loadFrameTable tag lane image) := by
  intro hw p hp
  simp [Instr.wf, maxPayload] at hw
  exact fits_of_packetOf _ _ _ (by decide) (by simp only [List.length_cons]; omega) hp

theorem PayloadFits.unloadTable (tag : Tag) (lane : Word) :
    PayloadFits.Statement (.unloadTable tag lane) := by
  intro _ p hp
  exact fits_of_packetOf _ _ _ (by decide) (by simp only [List.length_cons, List.length_nil]; omega) hp

theorem PayloadFits.tableStatus (tag : Tag) :
    PayloadFits.Statement (.tableStatus tag) := by
  intro _ p hp
  exact fits_of_packetOf _ _ _ (by decide) (by simp only [List.length_cons, List.length_nil]; omega) hp

theorem PayloadFits.laneStart (tag : Tag) (lane : Word) :
    PayloadFits.Statement (.laneStart tag lane) := by
  intro _ p hp
  exact fits_of_packetOf _ _ _ (by decide) (by simp only [List.length_cons, List.length_nil]; omega) hp

theorem PayloadFits.laneStopGraceful (tag : Tag) (lane : Word) :
    PayloadFits.Statement (.laneStopGraceful tag lane) := by
  intro _ p hp
  exact fits_of_packetOf _ _ _ (by decide) (by simp only [List.length_cons, List.length_nil]; omega) hp

theorem PayloadFits.laneStopNow (tag : Tag) (lane : Word) :
    PayloadFits.Statement (.laneStopNow tag lane) := by
  intro _ p hp
  exact fits_of_packetOf _ _ _ (by decide) (by simp only [List.length_cons, List.length_nil]; omega) hp

theorem PayloadFits.laneReplay (tag : Tag) (lane seg : Word) (fromTick toTick : DWord) (store : Word) :
    PayloadFits.Statement (.laneReplay tag lane seg fromTick toTick store) := by
  intro _ p hp
  exact fits_of_packetOf _ _ _ (by decide) (by simp only [List.length_cons, List.length_nil]; omega) hp

theorem PayloadFits.laneStatus (tag : Tag) (lane : Word) :
    PayloadFits.Statement (.laneStatus tag lane) := by
  intro _ p hp
  exact fits_of_packetOf _ _ _ (by decide) (by simp only [List.length_cons, List.length_nil]; omega) hp

theorem PayloadFits.setStream (tag : Tag) (mask : Word) :
    PayloadFits.Statement (.setStream tag mask) := by
  intro _ p hp
  exact fits_of_packetOf _ _ _ (by decide) (by simp only [List.length_cons, List.length_nil]; omega) hp

theorem PayloadFits.readFrames (tag : Tag) (seg mask : Word) (fromTick : DWord) (count : Word) :
    PayloadFits.Statement (.readFrames tag seg mask fromTick count) := by
  intro _ p hp
  exact fits_of_packetOf _ _ _ (by decide) (by simp only [List.length_cons, List.length_nil]; omega) hp

theorem PayloadFits.recordPathStatus (tag : Tag) :
    PayloadFits.Statement (.recordPathStatus tag) := by
  intro _ p hp
  exact fits_of_packetOf _ _ _ (by decide) (by simp only [List.length_cons, List.length_nil]; omega) hp

theorem PayloadFits.setView (tag : Tag) (seg : Word) (t0 q : DWord) (roll : Word) :
    PayloadFits.Statement (.setView tag seg t0 q roll) := by
  intro _ p hp
  exact fits_of_packetOf _ _ _ (by decide) (by simp only [List.length_cons, List.length_nil]; omega) hp

theorem PayloadFits.zoom (tag : Tag) (pivot : Word) (q : DWord) :
    PayloadFits.Statement (.zoom tag pivot q) := by
  intro _ p hp
  exact fits_of_packetOf _ _ _ (by decide) (by simp only [List.length_cons, List.length_nil]; omega) hp

theorem PayloadFits.pan (tag : Tag) (count : Word) :
    PayloadFits.Statement (.pan tag count) := by
  intro _ p hp
  exact fits_of_packetOf _ _ _ (by decide) (by simp only [List.length_cons, List.length_nil]; omega) hp

theorem PayloadFits.fit (tag : Tag) :
    PayloadFits.Statement (.fit tag) := by
  intro _ p hp
  exact fits_of_packetOf _ _ _ (by decide) (by simp only [List.length_cons, List.length_nil]; omega) hp

theorem PayloadFits.setCursor (tag : Tag) (cursor present : Word) (time : DWord) :
    PayloadFits.Statement (.setCursor tag cursor present time) := by
  intro _ p hp
  exact fits_of_packetOf _ _ _ (by decide) (by simp only [List.length_cons, List.length_nil]; omega) hp

theorem PayloadFits.measure (tag : Tag) (seg chan : Word) (fromTime toTime : DWord) :
    PayloadFits.Statement (.measure tag seg chan fromTime toTime) := by
  intro _ p hp
  exact fits_of_packetOf _ _ _ (by decide) (by simp only [List.length_cons, List.length_nil]; omega) hp

theorem PayloadFits.readColumns (tag : Tag) (first count : Word) :
    PayloadFits.Statement (.readColumns tag first count) := by
  intro _ p hp
  exact fits_of_packetOf _ _ _ (by decide) (by simp only [List.length_cons, List.length_nil]; omega) hp

theorem PayloadFits.viewStatus (tag : Tag) :
    PayloadFits.Statement (.viewStatus tag) := by
  intro _ p hp
  exact fits_of_packetOf _ _ _ (by decide) (by simp only [List.length_cons, List.length_nil]; omega) hp

theorem PayloadFits.setPanel (tag : Tag) (code : Word) :
    PayloadFits.Statement (.setPanel tag code) := by
  intro _ p hp
  exact fits_of_packetOf _ _ _ (by decide) (by simp only [List.length_cons, List.length_nil]; omega) hp

theorem PayloadFits.setRowMap (tag : Tag) (entries : List Word) :
    PayloadFits.Statement (.setRowMap tag entries) := by
  intro hw p hp
  simp [Instr.wf, maxPayload] at hw
  exact fits_of_packetOf _ _ _ (by decide) (by simp only [List.length_cons]; omega) hp

theorem PayloadFits.setPalette (tag : Tag) (first : Word) (colours : List Word) :
    PayloadFits.Statement (.setPalette tag first colours) := by
  intro hw p hp
  simp [Instr.wf, maxPayload] at hw
  exact fits_of_packetOf _ _ _ (by decide) (by simp only [List.length_cons]; omega) hp

theorem PayloadFits.overlayFill (tag : Tag) (x y w h index : Word) :
    PayloadFits.Statement (.overlayFill tag x y w h index) := by
  intro _ p hp
  exact fits_of_packetOf _ _ _ (by decide) (by simp only [List.length_cons, List.length_nil]; omega) hp

theorem PayloadFits.overlay (tag : Tag) (x y w h : Word) (pixels : List Word) :
    PayloadFits.Statement (.overlay tag x y w h pixels) := by
  intro hw p hp
  simp [Instr.wf, maxPayload] at hw
  exact fits_of_packetOf _ _ _ (by decide) (by simp only [List.length_cons]; omega) hp

theorem PayloadFits.setBacklight (tag : Tag) (level : Word) :
    PayloadFits.Statement (.setBacklight tag level) := by
  intro _ p hp
  exact fits_of_packetOf _ _ _ (by decide) (by simp only [List.length_cons, List.length_nil]; omega) hp

theorem PayloadFits.panelStatus (tag : Tag) :
    PayloadFits.Statement (.panelStatus tag) := by
  intro _ p hp
  exact fits_of_packetOf _ _ _ (by decide) (by simp only [List.length_cons, List.length_nil]; omega) hp

theorem PayloadFits.clearEvents (tag : Tag) (block mask : Word) :
    PayloadFits.Statement (.clearEvents tag block mask) := by
  intro _ p hp
  exact fits_of_packetOf _ _ _ (by decide) (by simp only [List.length_cons, List.length_nil]; omega) hp

theorem PayloadFits.setEnables (tag : Tag) (block mask : Word) :
    PayloadFits.Statement (.setEnables tag block mask) := by
  intro _ p hp
  exact fits_of_packetOf _ _ _ (by decide) (by simp only [List.length_cons, List.length_nil]; omega) hp

theorem PayloadFits.eventStatus (tag : Tag) :
    PayloadFits.Statement (.eventStatus tag) := by
  intro _ p hp
  exact fits_of_packetOf _ _ _ (by decide) (by simp only [List.length_cons, List.length_nil]; omega) hp

theorem PayloadFits.identify (tag : Tag) :
    PayloadFits.Statement (.identify tag) := by
  intro _ p hp
  exact fits_of_packetOf _ _ _ (by decide) (by simp only [List.length_cons, List.length_nil]; omega) hp

theorem PayloadFits.softReset (tag : Tag) :
    PayloadFits.Statement (.softReset tag) := by
  intro _ p hp
  exact fits_of_packetOf _ _ _ (by decide) (by simp only [List.length_cons, List.length_nil]; omega) hp

theorem PayloadFits.packetArrival (header : Word) (payload : List Word) :
    PayloadFits.Statement (.packetArrival header payload) := by
  intro _ p hp
  simp [encodePacket] at hp

theorem PayloadFits.strayPayloadWord (w : Word) :
    PayloadFits.Statement (.strayPayloadWord w) := by
  intro _ p hp
  simp [encodePacket] at hp

theorem PayloadFits.packetDispatch :
    PayloadFits.Statement (.packetDispatch) := by
  intro _ p hp
  simp [encodePacket] at hp

theorem PayloadFits.transmitGrant :
    PayloadFits.Statement (.transmitGrant) := by
  intro _ p hp
  simp [encodePacket] at hp

theorem PayloadFits.upstreamPacketSent :
    PayloadFits.Statement (.upstreamPacketSent) := by
  intro _ p hp
  simp [encodePacket] at hp

theorem PayloadFits.wallClockReferenceCount :
    PayloadFits.Statement (.wallClockReferenceCount) := by
  intro _ p hp
  simp [encodePacket] at hp

theorem PayloadFits.pwmStep :
    PayloadFits.Statement (.pwmStep) := by
  intro _ p hp
  simp [encodePacket] at hp

theorem PayloadFits.resetNAsserted :
    PayloadFits.Statement (.resetNAsserted) := by
  intro _ p hp
  simp [encodePacket] at hp

theorem PayloadFits.passColumnComputed :
    PayloadFits.Statement (.passColumnComputed) := by
  intro _ p hp
  simp [encodePacket] at hp

end Sys2Proof.Laws
end

