-- ==== Sys2Proof/Laws/ProgramImage.lean ====
section
/-! SUPPORT. What the reader of a TRIGGER_PROGRAM image accepts and what it makes of the words (R67, section
11.3): one lemma per part of the image, over the words `w`. -/

namespace Sys2Proof.Machine.ProgramImage

/-- A bit field lies below its power of two. -/
theorem field_lt (w : Word) (lo len : Nat) : field w lo len < 2 ^ len := Nat.mod_lt _ (Nat.two_pow_pos _)

/-- All of a list is present, or one item is absent. -/
theorem allSome_spec {α} (xs : List (Option α)) : (∀ ys, allSome xs = some ys ↔ xs = ys.map some) ∧
    (allSome xs = none ↔ none ∈ xs) := by
  induction xs with
  | nil => simp [allSome]
  | cons x xs ih =>
    cases x with
    | none => simp [allSome]; intro ys; cases ys <;> simp
    | some x =>
      simp only [allSome]
      refine ⟨?_, ?_⟩
      · intro ys
        cases ys with
        | nil => simp
        | cons y ys =>
          simp [ih.1]
          constructor
          · rintro ⟨h1, h2⟩; exact ⟨h2, h1⟩
          · rintro ⟨h1, h2⟩; exact ⟨h2, h1⟩
      · simp [ih.2]

theorem allSome_range {β} (f : Nat → Option β) (g : Nat → β) (n : Nat) (h : ∀ k, k < n → f k = some (g k)) :
    allSome ((List.range n).map f) = some ((List.range n).map g) := by
  rw [(allSome_spec _).1]
  simp only [List.map_map]
  apply List.map_congr_left
  intro k hk
  exact h k (List.mem_range.1 hk)

theorem allSome_range_none {β} (f : Nat → Option β) (n : Nat) (k : Nat) (hk : k < n)
    (h : f k = none) : allSome ((List.range n).map f) = none := by
  rw [(allSome_spec _).2]
  exact List.mem_map.2 ⟨k, List.mem_range.2 hk, h⟩

/-- The units that a program's image defines, by the words of section 11.3. -/
structure UnitsOf (w : Nat → Word) (u : Units) : Prop where
  p : ∀ k : Fin 8, (u.patterns[k]).isSome = (w (1 + 3 * k.val)).getLsbD 0
  e : ∀ k : Fin 8, (u.edges[k]).isSome = (w (25 + 2 * k.val)).getLsbD 0
  g : u.glitchUnit.isSome = (w 41).getLsbD 0
  c : ∀ k : Fin 4, (u.comps[k]).isSome = (w (53 + 8 * k.val)).getLsbD 0

/-- The source ids that a program may name (R67). -/
def sourceNamed (w : Nat → Word) (c : Nat) : Prop := (c < 8 ∧ (w (1 + 3 * c)).getLsbD 0 = true) ∨
      (8 ≤ c ∧ c < 16 ∧ (w (25 + 2 * (c - 8))).getLsbD 0 = true) ∨ (c = 16 ∧ (w 41).getLsbD 0 = true) ∨ c = 17 ∨
      (18 ≤ c ∧ c < 22) ∨ (22 ≤ c ∧ c < 26 ∧ (w (53 + 8 * (c - 22))).getLsbD 0 = true) ∨ c = 26

/-- A table of the source ids of section 11.3. -/
structure SourceTable (source : Nat → TermSource) : Prop where
  pe : ∀ k : Fin 8, source k.val = .pattern k ∧ source (8 + k.val) = .edge k
  g : source 16 = .glitch
  x : source 17 = .external
  a : source 26 = .always
  cf : ∀ k : Fin 4, source (18 + k.val) = .counter k ∧ source (22 + k.val) = .field k

/-- The ids up to 26 are the sources of the table. -/
theorem termSourceOf_spec {source} (hs : SourceTable source)
    (c : Nat) : termSourceOf c = if c ≤ 26 then some (source c) else none := by
  by_cases h : c ≤ 26
  · rw [if_pos h]
    have := hs.pe; have := hs.cf
    interval_cases c
    all_goals (simp only [termSourceOf])
    all_goals first
      | (simp; exact (hs.pe 0).1.symm) | (simp; exact (hs.pe 1).1.symm) | (simp; exact (hs.pe 2).1.symm) | (simp; exact (hs.pe 3).1.symm)
      | (simp; exact (hs.pe 4).1.symm) | (simp; exact (hs.pe 5).1.symm) | (simp; exact (hs.pe 6).1.symm) | (simp; exact (hs.pe 7).1.symm)
      | (simp; exact (hs.pe 0).2.symm) | (simp; exact (hs.pe 1).2.symm) | (simp; exact (hs.pe 2).2.symm) | (simp; exact (hs.pe 3).2.symm)
      | (simp; exact (hs.pe 4).2.symm) | (simp; exact (hs.pe 5).2.symm) | (simp; exact (hs.pe 6).2.symm) | (simp; exact (hs.pe 7).2.symm)
      | (simp; exact (hs.cf 0).1.symm) | (simp; exact (hs.cf 1).1.symm) | (simp; exact (hs.cf 2).1.symm) | (simp; exact (hs.cf 3).1.symm)
      | (simp; exact (hs.cf 0).2.symm) | (simp; exact (hs.cf 1).2.symm) | (simp; exact (hs.cf 2).2.symm) | (simp; exact (hs.cf 3).2.symm)
      | (simp; exact hs.g.symm) | (simp; exact hs.x.symm) | (simp; exact hs.a.symm)
  · rw [if_neg h]
    unfold termSourceOf
    rw [dif_neg (by omega), dif_neg (by omega), if_neg (by omega), if_neg (by omega), dif_neg (by omega),
        dif_neg (by omega), if_neg (by omega)]

/-- A source is defined exactly when its id is sourceNamed. -/
theorem defines_spec {w u source} (hu : UnitsOf w u) (hs : SourceTable source) (c : Nat)
    (hc : c ≤ 26) : u.defines (source c) = true ↔ sourceNamed w c := by
  have hc' := hc
  have k1 := hs.pe; have k2 := hs.cf
  rcases Nat.lt_or_ge c 8 with h | h
  · have := (hs.pe ⟨c, h⟩).1; simp only at this; rw [this]
    have := hu.p ⟨c, h⟩; simp only [Units.defines, this, sourceNamed]
    constructor
    · intro x; exact Or.inl ⟨h, x⟩
    · rintro (⟨_, x⟩ | x)
      · exact x
      · omega
  rcases Nat.lt_or_ge c 16 with h2 | h2
  · have := (hs.pe ⟨c - 8, by omega⟩).2; simp only [Nat.add_sub_cancel' h] at this; rw [this]
    have := hu.e ⟨c - 8, by omega⟩; simp only [Units.defines, this, sourceNamed]
    constructor
    · intro x; exact Or.inr (Or.inl ⟨h, h2, x⟩)
    · rintro (⟨_, x⟩ | ⟨_, _, x⟩ | x)
      · omega
      · exact x
      · omega
  rcases Nat.lt_or_ge c 22 with h3 | h3
  · rcases Nat.lt_or_ge c 18 with h4 | h4
    · rcases Nat.lt_or_ge c 17 with h5 | h5
      · have : c = 16 := by omega
        subst this; rw [hs.g]; simp [Units.defines, hu.g, sourceNamed]
      · have : c = 17 := by omega
        subst this; rw [hs.x]; simp [Units.defines, sourceNamed]
    · have := (hs.cf ⟨c - 18, by omega⟩).1; simp only [Nat.add_sub_cancel' h4] at this; rw [this]
      simp [Units.defines, sourceNamed, h4, h3]
  · rcases Nat.lt_or_ge c 26 with h4 | h4
    · have := (hs.cf ⟨c - 22, by omega⟩).2; simp only [Nat.add_sub_cancel' h3] at this; rw [this]
      have := hu.c ⟨c - 22, by omega⟩; simp only [Units.defines, this, sourceNamed]
      constructor
      · intro x; exact Or.inr (Or.inr (Or.inr (Or.inr (Or.inr (Or.inl ⟨h3, h4, x⟩)))))
      · rintro (⟨_, x⟩ | ⟨_, _, x⟩ | ⟨_, x⟩ | x | x | ⟨_, _, x⟩ | x) <;> first | exact x | omega
    · have : c = 26 := by omega
      subst this; rw [hs.a]; simp [Units.defines, sourceNamed]

theorem sourceNamed_le {w c} (h : sourceNamed w c) : c ≤ 26 := by
  unfold sourceNamed at h; omega

/-- A term is read exactly when its source is sourceNamed. -/
theorem parseTerm_spec {w u source} (hu : UnitsOf w u) (hs : SourceTable source) (t : Word) (k : Nat) :
   (sourceNamed w (field t (8 * k) 5) → parseTerm u t k = some ⟨source (field t (8 * k) 5), t.getLsbD (8 * k + 7)⟩) ∧
   (¬ sourceNamed w (field t (8 * k) 5) → parseTerm u t k = none) := by
  unfold parseTerm
  rw [termSourceOf_spec hs]
  constructor
  · intro h; rw [if_pos (sourceNamed_le h)]; simp [(defines_spec hu hs _ (sourceNamed_le h)).2 h, flag]
  · intro h
    by_cases hc : field t (8 * k) 5 ≤ 26
    · rw [if_pos hc]; have : u.defines (source (field t (8 * k) 5)) = false := by
        rw [← Bool.not_eq_true, defines_spec hu hs _ hc]; exact h
      simp [this]
    · rw [if_neg hc]

/-- A condition is read exactly when it has at most four terms, each sourceNamed. -/
theorem parseCondition_spec {w u source} (hu : UnitsOf w u) (hs : SourceTable source) (t : Word) (count : Nat)
    (any : Bool) :
   (count ≤ 4 ∧ (∀ k, k < count → sourceNamed w (field t (8 * k) 5)) →
       parseCondition u t count any = some ⟨(List.range count).map fun k => ⟨source (field t (8 * k) 5),
       t.getLsbD (8 * k + 7)⟩, any⟩) ∧
   (¬ (count ≤ 4 ∧ (∀ k, k < count → sourceNamed w (field t (8 * k) 5))) → parseCondition u t count any = none) := by
  unfold parseCondition
  constructor
  · rintro ⟨h1, h2⟩
    rw [if_neg (by omega), allSome_range _ _ _ (fun k hk => (parseTerm_spec hu hs t k).1 (h2 k hk))]; rfl
  · intro h
    by_cases hc : 4 < count
    · rw [if_pos hc]
    · rw [if_neg hc]
      have : ∃ k, k < count ∧ ¬ sourceNamed w (field t (8 * k) 5) := by
        by_contra hh; push Not at hh; exact h ⟨by omega, hh⟩
      obtain ⟨k, hk, hn⟩ := this
      rw [allSome_range_none _ _ k hk ((parseTerm_spec hu hs t k).2 hn)]; rfl

/-- A target is a stage of the program or TRIGGER. -/
theorem parseTarget_spec (n : Nat) (hn : n ≤ 8) (target : Nat → Target) (h1 : ∀ g, g < n → target g = .stage g)
    (h2 : target 8 = .trigger) (g : Nat) :
   ((g < n ∨ g = 8) → parseTarget n g = some (target g)) ∧ (¬ (g < n ∨ g = 8) → parseTarget n g = none) := by
  unfold parseTarget
  constructor
  · rintro (h | h)
    · rw [if_pos h, h1 g h]
    · subst h; rw [if_neg (by omega), if_pos rfl, h2]
  · intro h; rw [if_neg (by omega), if_neg (by omega)]

theorem edgeOf_cases (x : Nat) (hx : x < 4) (edge : Nat → Edge) (h : edge 0 = .rising ∧ edge 1 = .falling ∧
    edge 2 = .both) :
   (x = 3 → edgeOf x = none) ∧ (x ≠ 3 → edgeOf x = some (edge x)) := by
  obtain ⟨a, b, c⟩ := h
  interval_cases x <;> simp [edgeOf, a, b, c]

theorem comparison_cases (x : Nat) (hx : x < 4) (cm : Nat → Comparison) (h : cm 0 = .eq ∧ cm 1 = .ge ∧ cm 2 = .le) :
   (x = 3 → comparisonOf x = none) ∧ (x ≠ 3 → comparisonOf x = some (cm x)) := by
  obtain ⟨a, b, c⟩ := h
  interval_cases x <;> simp [comparisonOf, a, b, c]

theorem lane_cases (x : Nat) (hx : x < 8) (lane : Nat → LaneId) (h : ∀ l : LaneId, lane l.val = l) :
   (5 < x → laneOf (word x) = none) ∧ (x ≤ 5 → laneOf (word x) = some (lane x)) := by
  have e : (word x).toNat = x := by simp [word]; omega
  unfold laneOf
  constructor
  · intro h5; rw [dif_neg (by omega)]
  · intro h5
    rw [dif_pos (by omega)]
    have := h ⟨x, by omega⟩
    simp only [e]
    rw [this]

theorem action_cases (x : Nat) (hx : x < 4) (action : Nat → Action) (h : action 0 = .keep ∧ action 1 = .clear ∧
    action 2 = .run ∧ action 3 = .halt) :
   actionOf x = action x := by
  obtain ⟨a, b, c, d⟩ := h
  interval_cases x <;> simp [actionOf, a, b, c, d]

/-- The rules of R67 on one comparator. -/
def comparatorOk (w : Nat → Word) (i : Nat) : Prop := field (w (53 + 8 * i)) 16 2 ≠ 3 ∧ ((w (53 + 8 * i)).getLsbD 0 = true →
        field (w (53 + 8 * i)) 1 3 ≤ 5 ∧
        ((w (53 + 8 * i)).getLsbD 7 = true → 1 ≤ field (w (57 + 8 * i)) 8 3 ∧ field (w (57 + 8 * i)) 8 3 ≤ 4 ∧
          field (w (57 + 8 * i)) 0 6 + field (w (57 + 8 * i)) 8 3 ≤ 64) ∧
        ((w (53 + 8 * i)).getLsbD 8 = true → (w (60 + 8 * i)).toNat ≤ 65535))

/-- The comparator that the words give. -/
def comparatorOfWords (w : Nat → Word) (lane : Nat → LaneId) (compare : Nat → Comparison) (i : Nat) : Option Comparator :=
   if (w (53 + 8 * i)).getLsbD 0 then some {
          lane := lane (field (w (53 + 8 * i)) 1 3)
          kindTag := if (w (53 + 8 * i)).getLsbD 4 then some (BitVec.ofNat 4 (field (w (53 + 8 * i)) 12 4)) else none
          codes := if (w (53 + 8 * i)).getLsbD 5 then some (BitVec.ofNat 7 (field (w (54 + 8 * i)) 0 7)) else none
          address := if (w (53 + 8 * i)).getLsbD 6 then some (w (55 + 8 * i), w (56 + 8 * i)) else none
          data := if (w (53 + 8 * i)).getLsbD 7 then some ⟨field (w (57 + 8 * i)) 0 6, field (w (57 + 8 * i)) 8 3,
            w (58 + 8 * i), w (59 + 8 * i)⟩ else none
          units := if (w (53 + 8 * i)).getLsbD 8 then some (compare (field (w (53 + 8 * i)) 16 2),
              (w (60 + 8 * i)).toNat) else none } else none

/-- A comparator is read exactly when it keeps the rules. -/
theorem parseComparator_spec (image : List Word) (w : Nat → Word) (hw : ∀ i, w i = image.getD i 0) (lane : Nat →
    LaneId) (compare : Nat → Comparison)
   (hl : ∀ l : LaneId, lane l.val = l) (hc : compare 0 = .eq ∧ compare 1 = .ge ∧ compare 2 = .le) (i p : Nat)
       (hp : p = 53 + 8 * i) :
   (comparatorOk w i → parseComparator image p = some (comparatorOfWords w lane compare i)) ∧ (¬ comparatorOk w i →
       parseComparator image p = none) := by
  subst hp
  have ia : ∀ k, imageAt image k = w k := fun k => by rw [hw]; rfl
  have r1 := field_lt (w (53 + 8 * i)) 16 2
  have r2 := field_lt (w (53 + 8 * i)) 1 3
  obtain ⟨k1, k2⟩ := comparison_cases _ r1 compare hc
  obtain ⟨l1, l2⟩ := lane_cases _ r2 lane hl
  have e1 : 53 + 8 * i + 1 = 54 + 8 * i := by omega
  have e2 : 53 + 8 * i + 2 = 55 + 8 * i := by omega
  have e3 : 53 + 8 * i + 3 = 56 + 8 * i := by omega
  have e4 : 53 + 8 * i + 4 = 57 + 8 * i := by omega
  have e5 : 53 + 8 * i + 5 = 58 + 8 * i := by omega
  have e6 : 53 + 8 * i + 6 = 59 + 8 * i := by omega
  have e7 : 53 + 8 * i + 7 = 60 + 8 * i := by omega
  unfold parseComparator comparatorOk comparatorOfWords
  simp only [ia, e1, e2, e3, e4, e5, e6, e7, flag]
  by_cases h3 : field (w (53 + 8 * i)) 16 2 = 3
  · rw [k1 h3]
    exact ⟨fun h => absurd h3 h.1, fun _ => rfl⟩
  · rw [k2 h3]
    dsimp only
    cases hd : (w (53 + 8 * i)).getLsbD 0
    · exact ⟨fun _ => rfl, fun h => absurd ⟨h3, fun c => Bool.noConfusion c⟩ h⟩
    · simp only [↓reduceIte]
      by_cases h5 : field (w (53 + 8 * i)) 1 3 ≤ 5
      · rw [l2 h5]
        dsimp only
        have hdata : ∀ a b, parseDataItem (w (57 + 8 * i)) a b = if 1 ≤ field (w (57 + 8 * i)) 8 3 ∧
            field (w (57 + 8 * i)) 8 3 ≤ 4 ∧
          field (w (57 + 8 * i)) 0 6 + field (w (57 + 8 * i)) 8 3 ≤ 64 then some ⟨field (w (57 + 8 * i)) 0 6,
              field (w (57 + 8 * i)) 8 3, a, b⟩ else none := fun a b => rfl
        by_cases hq : 1 ≤ field (w (57 + 8 * i)) 8 3 ∧ field (w (57 + 8 * i)) 8 3 ≤ 4 ∧
          field (w (57 + 8 * i)) 0 6 + field (w (57 + 8 * i)) 8 3 ≤ 64
        · rw [hdata, if_pos hq]
          have hq' := hq
          obtain ⟨q1, q2, q3⟩ := hq'
          by_cases h9 : (w (60 + 8 * i)).toNat ≤ 65535
          · have h9' : ¬ 65535 < (w (60 + 8 * i)).toNat := by omega
            cases h7 : (w (53 + 8 * i)).getLsbD 7 <;> cases h8 : (w (53 + 8 * i)).getLsbD 8 <;> simp [h3, h5, q1, q2, q3,
                h9, h9']
          · have h9' : 65535 < (w (60 + 8 * i)).toNat := by omega
            cases h7 : (w (53 + 8 * i)).getLsbD 7 <;> cases h8 : (w (53 + 8 * i)).getLsbD 8 <;> simp [h3, h5, q1, q2, q3,
                h9, h9']
        · rw [hdata, if_neg hq]
          by_cases h9 : (w (60 + 8 * i)).toNat ≤ 65535
          · have h9' : ¬ 65535 < (w (60 + 8 * i)).toNat := by omega
            cases h7 : (w (53 + 8 * i)).getLsbD 7 <;> cases h8 : (w (53 + 8 * i)).getLsbD 8 <;> simp [h3, h5, h9,
                h9'] <;> omega
          · have h9' : 65535 < (w (60 + 8 * i)).toNat := by omega
            cases h7 : (w (53 + 8 * i)).getLsbD 7 <;> cases h8 : (w (53 + 8 * i)).getLsbD 8 <;> simp [h3, h5, h9,
                h9'] <;> omega
      · rw [l1 (by omega)]
        exact ⟨fun h => absurd (h.2 trivial).1 h5, fun _ => rfl⟩

/-- The pattern unit that the words give. -/
def patternOfWords (w : Nat → Word) (i : Nat) : Option PatternUnit :=
    if (w (1 + 3 * i)).getLsbD 0 then some ⟨w (2 + 3 * i), w (3 + 3 * i), (w (1 + 3 * i)).getLsbD 1⟩ else none
/-- The edge unit that the words give. -/
def edgeOfWords (w : Nat → Word) (edge : Nat → Edge) (i : Nat) : Option EdgeUnit :=
    if (w (25 + 2 * i)).getLsbD 0 then some ⟨w (26 + 2 * i), edge (field (w (25 + 2 * i)) 1 2)⟩ else none

theorem parseEdge_spec (image : List Word) (w : Nat → Word) (hw : ∀ i, w i = image.getD i 0) (edge : Nat → Edge)
    (h : edge 0 = .rising ∧ edge 1 = .falling ∧ edge 2 = .both) (i : Nat) :
   (field (w (25 + 2 * i)) 1 2 ≠ 3 →
       parseEdge (imageAt image (25 + 2 * i)) (imageAt image (26 + 2 * i)) = some (edgeOfWords w edge i)) ∧
   (field (w (25 + 2 * i)) 1 2 = 3 → parseEdge (imageAt image (25 + 2 * i)) (imageAt image (26 + 2 * i)) = none) := by
  have ia : ∀ k, imageAt image k = w k := fun k => by rw [hw]; rfl
  obtain ⟨k1, k2⟩ := edgeOf_cases _ (field_lt (w (25 + 2 * i)) 1 2) edge h
  unfold parseEdge
  rw [ia, ia]
  exact ⟨fun h => by rw [k2 h]; rfl, fun h => by rw [k1 h]⟩

/-- The units are read exactly when every edge code and every comparator keeps the rules. -/
theorem parseUnits_spec (image : List Word) (w : Nat → Word) (hw : ∀ i, w i = image.getD i 0) (edge : Nat → Edge)
    (h : edge 0 = .rising ∧ edge 1 = .falling ∧ edge 2 = .both)
    (lane : Nat → LaneId) (compare : Nat → Comparison)
   (hl : ∀ l : LaneId, lane l.val = l) (hc : compare 0 = .eq ∧ compare 1 = .ge ∧ compare 2 = .le) :
   ((∀ i, i < 8 → field (w (25 + 2 * i)) 1 2 ≠ 3) ∧ (∀ i, i < 4 → comparatorOk w i) → parseUnits image = some {
      patterns := #v[patternOfWords w 0, patternOfWords w 1, patternOfWords w 2, patternOfWords w 3, patternOfWords w 4,
          patternOfWords w 5, patternOfWords w 6, patternOfWords w 7]
      edges := #v[edgeOfWords w edge 0, edgeOfWords w edge 1, edgeOfWords w edge 2, edgeOfWords w edge 3,
          edgeOfWords w edge 4, edgeOfWords w edge 5, edgeOfWords w edge 6, edgeOfWords w edge 7]
      glitchUnit := if (w 41).getLsbD 0 then some (w 42) else none
      comps := #v[comparatorOfWords w lane compare 0, comparatorOfWords w lane compare 1,
          comparatorOfWords w lane compare 2, comparatorOfWords w lane compare 3] }) ∧
   (¬ ((∀ i, i < 8 → field (w (25 + 2 * i)) 1 2 ≠ 3) ∧ (∀ i, i < 4 → comparatorOk w i)) → parseUnits image = none) := by
  have ia : ∀ k, imageAt image k = w k := fun k => by rw [hw]; rfl
  have es := parseEdge_spec image w hw edge h
  have cs := fun i p hp => parseComparator_spec image w hw lane compare hl hc i p hp
  constructor
  · rintro ⟨h1, h2⟩
    unfold parseUnits
    dsimp only
    rw [(es 0).1 (h1 0 (by omega)), (es 1).1 (h1 1 (by omega)), (es 2).1 (h1 2 (by omega)), (es 3).1 (h1 3 (by omega)),
        (es 4).1 (h1 4 (by omega)), (es 5).1 (h1 5 (by omega)), (es 6).1 (h1 6 (by omega)), (es 7).1 (h1 7 (by omega)),
      (cs 0 53 (by omega)).1 (h2 0 (by omega)), (cs 1 61 (by omega)).1 (h2 1 (by omega)),
          (cs 2 69 (by omega)).1 (h2 2 (by omega)), (cs 3 77 (by omega)).1 (h2 3 (by omega))]
    dsimp only
    simp only [ia]
    rfl
  · intro hn
    have : (∃ i, i < 8 ∧ field (w (25 + 2 * i)) 1 2 = 3) ∨ (∃ i, i < 4 ∧ ¬ comparatorOk w i) := by
      by_contra hh
      push Not at hh
      exact hn ⟨fun i hi => hh.1 i hi, fun i hi => hh.2 i hi⟩
    unfold parseUnits
    dsimp only
    rcases this with ⟨i, hi, h3⟩ | ⟨i, hi, h3⟩
    · have := (es i).2 h3
      interval_cases i <;> (rw [this]; first | done | rfl | (split <;> first | rfl | simp_all))
    · have h4 := fun p hp => (cs i p hp).2 h3
      interval_cases i
      · rw [h4 53 (by omega)]; split <;> first | rfl | simp_all
      · rw [h4 61 (by omega)]; split <;> first | rfl | simp_all
      · rw [h4 69 (by omega)]; split <;> first | rfl | simp_all
      · rw [h4 77 (by omega)]; split <;> first | rfl | simp_all

/-- The counter that the words give. -/
def counterOfWords (w : Nat → Word) (source : Nat → TermSource) (i : Nat) : Counter :=
  ⟨0, false, (w (43 + 2 * i)).getLsbD 0, match field (w (43 + 2 * i)) 1 2 with
          | 0 => .sample
          | 1 => .divX
          | 2 => .divY
          | _ => .term (source (field (w (43 + 2 * i)) 8 5)), w (44 + 2 * i), w (44 + 2 * i), false, false, false⟩

/-- A source may drive a counter exactly when it is sourceNamed and is neither a counter nor ALWAYS. -/
theorem counts_spec {w u source} (hu : UnitsOf w u) (hs : SourceTable source) (c : Nat) (hc : c ≤ 26) :
    u.counts (source c) = true ↔ sourceNamed w c ∧ ¬ (18 ≤ c ∧ c < 22) ∧ c ≠ 26 := by
  have hn := defines_spec hu hs c hc
  have key : ∀ src : TermSource,
      u.counts src = (u.defines src && !(match src with | .counter _ => true | .always => true | _ => false)) := by
    intro src; cases src <;> simp [Units.counts, Units.defines]
  rw [key, Bool.and_eq_true, hn]
  refine and_congr_right fun _ => ?_
  rcases Nat.lt_or_ge c 8 with h | h
  · have := (hs.pe ⟨c, h⟩).1; simp only at this; rw [this]; simp; omega
  rcases Nat.lt_or_ge c 16 with h2 | h2
  · have := (hs.pe ⟨c - 8, by omega⟩).2; simp only [Nat.add_sub_cancel' h] at this; rw [this]; simp; omega
  rcases Nat.lt_or_ge c 18 with h3 | h3
  · rcases Nat.lt_or_ge c 17 with h5 | h5
    · have : c = 16 := by omega
      subst this; rw [hs.g]; simp
    · have : c = 17 := by omega
      subst this; rw [hs.x]; simp
  rcases Nat.lt_or_ge c 22 with h4 | h4
  · have := (hs.cf ⟨c - 18, by omega⟩).1; simp only [Nat.add_sub_cancel' h3] at this; rw [this]; simp; omega
  rcases Nat.lt_or_ge c 26 with h5 | h5
  · have := (hs.cf ⟨c - 22, by omega⟩).2; simp only [Nat.add_sub_cancel' h4] at this; rw [this]; simp; omega
  · have : c = 26 := by omega
    subst this; rw [hs.a]; simp

/-- A counter is read exactly when its term source, if it has one, is sourceNamed and is neither a counter nor ALWAYS. -/
theorem parseCounter_spec {w u source} (hu : UnitsOf w u) (hs : SourceTable source) (i : Nat) :
   ((field (w (43 + 2 * i)) 1 2 = 3 → sourceNamed w (field (w (43 + 2 * i)) 8 5) ∧ ¬(18 ≤ field (w (43 + 2 * i)) 8 5 ∧
       field (w (43 + 2 * i)) 8 5 < 22) ∧ field (w (43 + 2 * i)) 8 5 ≠ 26) →
     parseCounter u (w (43 + 2 * i)) (w (44 + 2 * i)) = some (counterOfWords w source i)) ∧
   (¬ (field (w (43 + 2 * i)) 1 2 = 3 → sourceNamed w (field (w (43 + 2 * i)) 8 5) ∧ ¬(18 ≤ field (w (43 + 2 * i)) 8 5 ∧
       field (w (43 + 2 * i)) 8 5 < 22) ∧ field (w (43 + 2 * i)) 8 5 ≠ 26) →
     parseCounter u (w (43 + 2 * i)) (w (44 + 2 * i)) = none) := by
  have r := field_lt (w (43 + 2 * i)) 1 2
  unfold parseCounter counterOfWords flag
  generalize field (w (43 + 2 * i)) 1 2 = a at *
  generalize hc : field (w (43 + 2 * i)) 8 5 = c at *
  interval_cases a
  · exact ⟨fun _ => rfl, fun h => absurd (fun c => by omega) h⟩
  · exact ⟨fun _ => rfl, fun h => absurd (fun c => by omega) h⟩
  · exact ⟨fun _ => rfl, fun h => absurd (fun c => by omega) h⟩
  · rw [termSourceOf_spec hs]
    constructor
    · intro h
      have h := h rfl
      rw [if_pos (sourceNamed_le h.1)]
      exact if_pos ((counts_spec hu hs c (sourceNamed_le h.1)).2 h)
    · intro h
      by_cases h26 : c ≤ 26
      · rw [if_pos h26]
        exact if_neg fun hh => h fun _ => (counts_spec hu hs c h26).1 hh
      · rw [if_neg h26]
        rfl

/-- The rules of R67 on one condition. -/
def conditionOk (w : Nat → Word) (t : Word) (count : Nat) : Prop := count ≤ 4 ∧ (∀ k, k < count →
    sourceNamed w (field t (8 * k) 5))

/-- The rules of R67 on one stage. -/
def stageOk (w : Nat → Word) (n j : Nat) : Prop := conditionOk w (w (85 + 4 * j)) (field (w (87 + 4 * j)) 0 3) ∧
        (field (w (87 + 4 * j)) 4 4 < n ∨ field (w (87 + 4 * j)) 4 4 = 8) ∧
        ((w (87 + 4 * j)).getLsbD 8 = true → conditionOk w (w (86 + 4 * j)) (field (w (87 + 4 * j)) 9 3) ∧
          (field (w (87 + 4 * j)) 13 4 < n ∨ field (w (87 + 4 * j)) 13 4 = 8))

/-- The condition that the words give. -/
def conditionOfWords (source : Nat → TermSource) (terms : Word) (count : Nat) (any : Bool) : Condition :=
  ⟨(List.range count).map fun k => ⟨source (field terms (8 * k) 5), terms.getLsbD (8 * k + 7)⟩, any⟩

/-- The stage that the words give. -/
def stageOfWords (w : Nat → Word) (source : Nat → TermSource) (target : Nat → Target) (action : Nat → Action)
    (j : Nat) : Stage := {
          advance := conditionOfWords source (w (85 + 4 * j)) (field (w (87 + 4 * j)) 0 3) ((w (87 + 4 * j)).getLsbD 3)
          advanceTo := target (field (w (87 + 4 * j)) 4 4)
          alternate := if (w (87 + 4 * j)).getLsbD 8 then some (conditionOfWords source (w (86 + 4 * j)) (field (w (87 + 4 * j)) 9 3) ((w (87 + 4 * j)).getLsbD 12), target (field (w (87 + 4 * j)) 13 4)) else none
          actions := #v[action (field (w (88 + 4 * j)) 0 2), action (field (w (88 + 4 * j)) 2 2),
              action (field (w (88 + 4 * j)) 4 2), action (field (w (88 + 4 * j)) 6 2)]
          restartX := (w (88 + 4 * j)).getLsbD 8, restartY := (w (88 + 4 * j)).getLsbD 9, watch :=
              (w (88 + 4 * j)).getLsbD 10 }

/-- A stage is read exactly when it keeps the rules. -/
theorem parseStage_spec {w u source} (hu : UnitsOf w u) (hs : SourceTable source) (n : Nat) (hn : n ≤ 8) (target : Nat →
    Target) (h1 : ∀ g, g < n → target g = .stage g) (h2 : target 8 = .trigger)
   (action : Nat → Action) (ha : action 0 = .keep ∧ action 1 = .clear ∧ action 2 = .run ∧ action 3 = .halt) (j : Nat) :
   (stageOk w n j → parseStage u n (w (85 + 4 * j)) (w (86 + 4 * j)) (w (87 + 4 * j)) (w (88 + 4 * j)) = some (stageOfWords w source target action j)) ∧
   (¬ stageOk w n j → parseStage u n (w (85 + 4 * j)) (w (86 + 4 * j)) (w (87 + 4 * j)) (w (88 + 4 * j)) = none) := by
  have c1 := parseCondition_spec hu hs (w (85 + 4 * j)) (field (w (87 + 4 * j)) 0 3) ((w (87 + 4 * j)).getLsbD 3)
  have c2 := parseCondition_spec hu hs (w (86 + 4 * j)) (field (w (87 + 4 * j)) 9 3) ((w (87 + 4 * j)).getLsbD 12)
  have t1 := parseTarget_spec n hn target h1 h2 (field (w (87 + 4 * j)) 4 4)
  have t2 := parseTarget_spec n hn target h1 h2 (field (w (87 + 4 * j)) 13 4)
  have ac := fun lo => action_cases _ (field_lt (w (88 + 4 * j)) lo 2) action ha
  unfold stageOk conditionOk parseStage stageOfWords parseAlternate flag
  by_cases p1 : field (w (87 + 4 * j)) 0 3 ≤ 4 ∧ (∀ k, k < field (w (87 + 4 * j)) 0 3 →
      sourceNamed w (field (w (85 + 4 * j)) (8 * k) 5))
  · rw [c1.1 p1]
    by_cases p2 : field (w (87 + 4 * j)) 4 4 < n ∨ field (w (87 + 4 * j)) 4 4 = 8
    · rw [t1.1 p2]
      cases p3 : (w (87 + 4 * j)).getLsbD 8
      · refine ⟨fun _ => ?_, fun h => absurd ⟨p1, p2, fun c => Bool.noConfusion c⟩ h⟩
        simp [ac, conditionOfWords]
      · simp only [↓reduceIte]
        by_cases p4 : field (w (87 + 4 * j)) 9 3 ≤ 4 ∧ (∀ k, k < field (w (87 + 4 * j)) 9 3 →
            sourceNamed w (field (w (86 + 4 * j)) (8 * k) 5))
        · rw [c2.1 p4]
          by_cases p5 : field (w (87 + 4 * j)) 13 4 < n ∨ field (w (87 + 4 * j)) 13 4 = 8
          · rw [t2.1 p5]
            refine ⟨fun _ => ?_, fun h => absurd ⟨p1, p2, fun _ => ⟨p4, p5⟩⟩ h⟩
            simp [ac, conditionOfWords]
          · rw [t2.2 p5]
            exact ⟨fun h => absurd (h.2.2 trivial).2 p5, fun _ => rfl⟩
        · rw [c2.2 p4]
          exact ⟨fun h => absurd (h.2.2 trivial).1 p4, fun _ => rfl⟩
    · rw [t1.2 p2]
      exact ⟨fun h => absurd h.2.1 p2, fun _ => rfl⟩
  · rw [c1.2 p1]
    exact ⟨fun h => absurd h.1 p1, fun _ => rfl⟩

/-- The stages are read four words each, in order. -/
theorem parseStages_spec (image : List Word) (n : Nat) (hlen : image.length = 85 + 4 * n) (w : Nat → Word) (hw : ∀ i,
    w i = image.getD i 0) (u : Units) (m : Nat) (d j : Nat) (hd : j + d = n) :
   parseStages u m (image.drop (85 + 4 * j)) = (List.range d).map fun k => parseStage u m (w (85 + 4 * (j + k))) (w (86 + 4 * (j + k))) (w (87 + 4 * (j + k))) (w (88 + 4 * (j + k))) := by
  induction d generalizing j with
  | zero => rw [List.drop_eq_nil_of_le (by omega)]; rfl
  | succ d ih =>
    have g : ∀ k (hk : k < image.length), image.drop k = w k :: image.drop (k + 1) := by
      intro k hk
      rw [List.drop_eq_getElem_cons hk, hw, List.getD_eq_getElem _ _ hk]
    rw [g _ (by omega), g _ (by omega), g _ (by omega), g _ (by omega)]
    unfold parseStages
    have := ih (j + 1) (by omega)
    rw [show 85 + 4 * j + 1 + 1 + 1 + 1 = 85 + 4 * (j + 1) by omega, this, List.range_succ_eq_map, List.map_cons,
        List.map_map]
    simp only [Nat.add_zero, show 85 + 4 * j + 1 = 86 + 4 * j by omega, show 86 + 4 * j + 1 = 87 + 4 * j by omega,
        show 87 + 4 * j + 1 = 88 + 4 * j by omega]
    congr 1
    apply List.map_congr_left
    intro k _
    simp only [Function.comp, Nat.succ_eq_add_one, show j + 1 + k = j + (k + 1) by omega]

end Sys2Proof.Machine.ProgramImage
end

