-- ==== Sys2Proof/Laws/Ranges.lean ====
section
/-! SUPPORT. What keeps settings and counts in their ranges: the viewport (R156), the dividers (R66, R82), the row map (R184)
and the pod links (R2, R5, R10 to R12). -/

namespace Sys2Proof.Machine

/-! ## The viewport: Q and T0 change only by the viewport commands and roll-refresh -/

@[simp] theorem swapReady_viewport (v : View) : v.swapReady.q = v.q ∧ v.swapReady.t0 = v.t0 := by
  unfold View.swapReady
  split <;> exact ⟨rfl, rfl⟩

@[simp] theorem beginColumn_viewport (p : Pass) (s : State) : (beginColumn p s).view.q = s.view.q ∧ (beginColumn p s).view.t0 = s.view.t0 := by
  unfold beginColumn
  try dsimp only
  simp

@[simp] theorem beginPass_viewport (n : Snapshot) (s : State) : (beginPass n s).view.q = s.view.q ∧ (beginPass n s).view.t0 = s.view.t0 := by
  unfold beginPass
  try dsimp only
  simp

@[simp] theorem startPass_viewport (s : State) : (startPass s).view.q = s.view.q ∧ (startPass s).view.t0 = s.view.t0 := by
  unfold startPass
  try dsimp only
  (repeat' split) <;> simp

@[simp] theorem viewRequest_viewport (s : State) : (viewRequest s).view.q = s.view.q ∧ (viewRequest s).view.t0 = s.view.t0 := by
  unfold viewRequest
  try dsimp only
  (repeat' split) <;> simp

@[simp] theorem finishPass_viewport (p : Pass) (s : State) : (finishPass p s).view.q = s.view.q ∧ (finishPass p s).view.t0 = s.view.t0 := by
  unfold finishPass
  try dsimp only
  (repeat' split) <;> simp

@[simp] theorem columnBoundary_viewport (p : Pass) (s : State) : (columnBoundary p s).view.q = s.view.q ∧ (columnBoundary p s).view.t0 = s.view.t0 := by
  unfold columnBoundary
  try dsimp only
  (repeat' split) <;> simp

@[simp] theorem finishColumn_viewport (p : Pass) (s : State) : (finishColumn p s).view.q = s.view.q ∧ (finishColumn p s).view.t0 = s.view.t0 := by
  unfold finishColumn
  try dsimp only
  simp

@[simp] theorem passAccess_viewport (p : Pass) (s : State) : (passAccess p s).view.q = s.view.q ∧ (passAccess p s).view.t0 = s.view.t0 := by
  unfold passAccess
  try dsimp only
  (repeat' split) <;> simp

@[simp] theorem finishMeasure_viewport (m : MeasureRun) (r : MeasureResult) (s : State) : (finishMeasure m r s).view.q = s.view.q ∧ (finishMeasure m r s).view.t0 = s.view.t0 := by
  unfold finishMeasure
  try dsimp only
  simp

@[simp] theorem overtakeMeasure_viewport (m : MeasureRun) (s : State) : (overtakeMeasure m s).view.q = s.view.q ∧ (overtakeMeasure m s).view.t0 = s.view.t0 := by
  unfold overtakeMeasure
  try dsimp only
  simp

@[simp] theorem settleMeasure_viewport (m : MeasureRun) (s : State) : (settleMeasure m s).view.q = s.view.q ∧ (settleMeasure m s).view.t0 = s.view.t0 := by
  unfold settleMeasure
  try dsimp only
  (repeat' split) <;> simp

@[simp] theorem measureAccess_viewport (m : MeasureRun) (s : State) : (measureAccess m s).view.q = s.view.q ∧ (measureAccess m s).view.t0 = s.view.t0 := by
  unfold measureAccess
  try dsimp only
  simp

@[simp] theorem measureAfterWrite_viewport (i : Nat) (s : State) : (measureAfterWrite i s).view.q = s.view.q ∧ (measureAfterWrite i s).view.t0 = s.view.t0 := by
  unfold measureAfterWrite
  try dsimp only
  (repeat' split) <;> simp

@[simp] theorem viewAccess_viewport (s : State) : (viewAccess s).view.q = s.view.q ∧ (viewAccess s).view.t0 = s.view.t0 := by
  unfold viewAccess
  try dsimp only
  (repeat' split) <;> simp

@[simp] theorem endMeasure_viewport (s : State) : (endMeasure s).view.q = s.view.q ∧ (endMeasure s).view.t0 = s.view.t0 := by
  unfold endMeasure
  try dsimp only
  (repeat' split) <;> simp

@[simp] theorem viewAtRun_viewport (s : State) : (viewAtRun s).view.q = s.view.q ∧ (viewAtRun s).view.t0 = s.view.t0 := by
  unfold viewAtRun
  try dsimp only
  (repeat' split) <;> simp

@[simp] theorem ringWrite_viewport (q : Queued) (r : List Queued) (s : State) : (ringWrite q r s).view.q = s.view.q ∧ (ringWrite q r s).view.t0 = s.view.t0 := by
  unfold ringWrite
  try dsimp only
  (repeat' split) <;> simp

@[simp] theorem startCapture_viewport (s : State) : (startCapture s).view.q = s.view.q ∧ (startCapture s).view.t0 = s.view.t0 := by
  unfold startCapture
  try dsimp only
  simp

@[simp] theorem panelOff_viewport (s : State) : (panelOff s).view.q = s.view.q ∧ (panelOff s).view.t0 = s.view.t0 := by
  unfold panelOff
  try dsimp only
  simp

@[simp] theorem endFrameScan_viewport (s : State) : (endFrameScan s).view.q = s.view.q ∧ (endFrameScan s).view.t0 = s.view.t0 := by
  unfold endFrameScan
  try dsimp only
  simp

@[simp] theorem grantColumns_viewport (c : ColumnReadout) (s : State) : (grantColumns c s).view.q = s.view.q ∧ (grantColumns c s).view.t0 = s.view.t0 := by
  unfold grantColumns
  try dsimp only
  simp

@[simp] theorem grantData_viewport (s : State) : (grantData s).view.q = s.view.q ∧ (grantData s).view.t0 = s.view.t0 := by
  unfold grantData
  try dsimp only
  (repeat' split) <;> simp

/-! ## The dividers -/

theorem dividersInRange_mk (t : Trigger) : dividersInRange t ↔ t.divX.inRange ∧ t.divY.inRange := Iff.rfl

theorem DividerUnit.inRange.inRange_tick {d : DividerUnit} (h : d.inRange) : d.tick.1.inRange := by
  unfold DividerUnit.inRange at *
  unfold DividerUnit.tick
  split <;> simp_all
  omega

theorem DividerUnit.inRange.inRange_restart {d : DividerUnit} (h : d.inRange) :
    ({ d with phase := 0 } : DividerUnit).inRange := by
  unfold DividerUnit.inRange at *
  simp_all
  omega

@[simp] theorem mapCounters_dividers (t : Trigger) (f : Counter → Counter) (h : dividersInRange t) :
    dividersInRange (t.mapCounters f) := h

@[simp] theorem emptyField_dividers (t : Trigger) (h : dividersInRange t) : dividersInRange t.emptyField := h

@[simp] theorem emptyLatches_dividers (t : Trigger) (h : dividersInRange t) : dividersInRange t.emptyLatches := h

@[simp] theorem fresh_dividers (t : Trigger) (h : dividersInRange t) : dividersInRange t.fresh := h

@[simp] theorem stepSource_dividers (t : Trigger) (src : CounterSource) (h : dividersInRange t) :
    dividersInRange (t.stepSource src) := h

@[simp] theorem holdDividers_dividers (t : Trigger) (h : dividersInRange t) : dividersInRange t.holdDividers :=
  ⟨h.1.inRange_restart, h.2.inRange_restart⟩

@[simp] theorem toIdle_dividers (t : Trigger) (h : dividersInRange t) : dividersInRange t.toIdle :=
  holdDividers_dividers t h

@[simp] theorem tickSteps_dividers (t : Trigger) (e : Bool) (v : TermValues) (h : dividersInRange t) :
    dividersInRange (t.tickSteps e v) := ⟨h.1.inRange_tick, h.2.inRange_tick⟩

@[simp] theorem trigger_enterStage_dividers (t : Trigger) (n : Nat) (h : dividersInRange t) :
    dividersInRange (t.enterStage n) := by
  have h1 := h.1.inRange_restart
  have h2 := h.2.inRange_restart
  unfold Trigger.enterStage
  refine ⟨?_, ?_⟩ <;> (dsimp only; split) <;> first | exact h.1 | exact h.2 | assumption

@[simp] theorem offerTo_dividers (t : Trigger) (n : Fin 4) (r : FrameRecord) (a : Option Word) (h : dividersInRange t) :
    dividersInRange (t.offerTo n r a) := by
  unfold Trigger.offerTo Trigger.fieldMatch
  (repeat' split) <;> exact h

@[simp] theorem offer_dividers (t : Trigger) (r : FrameRecord) (a : Option Word) (h : dividersInRange t) :
    dividersInRange (t.offer r a) := by
  unfold Trigger.offer
  split
  · exact offerTo_dividers _ _ _ _ (offerTo_dividers _ _ _ _ (offerTo_dividers _ _ _ _ (offerTo_dividers _ _ _ _ h)))
  · exact h

@[simp] theorem enterStage_dividers (n : Nat) (s : State) (h : dividersInRange s.trigger) :
    dividersInRange (enterStage n s).trigger := by
  unfold enterStage
  try dsimp only
  simp (maxDischargeDepth := 12) [h]

@[simp] theorem enterRunning_dividers (s : State) (h : dividersInRange s.trigger) :
    dividersInRange (enterRunning s).trigger := by
  unfold enterRunning
  exact enterStage_dividers _ _ (holdDividers_dividers _ h)

@[simp] theorem startSequencer_dividers (s : State) (h : dividersInRange s.trigger) :
    dividersInRange (startSequencer s).trigger := by
  unfold startSequencer
  dsimp only
  (repeat' split)
  · exact holdDividers_dividers _ (fresh_dividers _ h)
  · exact enterRunning_dividers _ (fresh_dividers _ h)
  · exact enterRunning_dividers _ (fresh_dividers _ h)

@[simp] theorem rearm_dividers (s : State) (h : dividersInRange s.trigger) :
    dividersInRange (rearm s).trigger := by
  exact enterRunning_dividers _ (fresh_dividers _ h)

@[simp] theorem secondsChanged_dividers (s : State) (h : dividersInRange s.trigger) :
    dividersInRange (secondsChanged s).trigger := by
  unfold secondsChanged
  try dsimp only
  (repeat' split) <;> simp (maxDischargeDepth := 12) [h]

@[simp] theorem takeTrigger_dividers (t : Nat) (c : Cause) (s : State) (h : dividersInRange s.trigger) :
    dividersInRange (takeTrigger t c s).trigger := by
  have h' := holdDividers_dividers _ h
  unfold takeTrigger
  dsimp only
  split <;> exact h'

@[simp] theorem transition_dividers (c : Condition) (g : Target) (t : Nat) (s : State) (h : dividersInRange s.trigger) :
    dividersInRange (transition c g t s).trigger := by
  unfold transition
  try dsimp only
  (repeat' split) <;> simp (maxDischargeDepth := 12) [h]

@[simp] theorem judge_dividers (v : TermValues) (t : Nat) (s : State) (h : dividersInRange s.trigger) :
    dividersInRange (judge v t s).trigger := by
  unfold judge
  try dsimp only
  (repeat' split) <;> simp (maxDischargeDepth := 12) [h]

@[simp] theorem keepPrevious_dividers (m : Sample) (v : TermValues) (s : State) (h : dividersInRange s.trigger) :
    dividersInRange (keepPrevious m v s).trigger := by
  exact h

@[simp] theorem judgeSample_dividers (v : TermValues) (t : Nat) (s : State) (h : dividersInRange s.trigger) :
    dividersInRange (judgeSample v t s).trigger := by
  unfold judgeSample
  try dsimp only
  (repeat' split) <;> simp (maxDischargeDepth := 12) [h]

@[simp] theorem sequencerSample_dividers (m : Sample) (e : Bool) (t : Nat) (s : State) (h : dividersInRange s.trigger) :
    dividersInRange (sequencerSample m e t s).trigger := by
  have ht := tickSteps_dividers s.trigger e (s.trigger.termValues m) h
  unfold sequencerSample
  (repeat' split) <;>
    first
      | exact h
      | exact ht
      | exact keepPrevious_dividers _ _ _ (judgeSample_dividers _ _ _ ht)
      | exact keepPrevious_dividers _ _ _ (judgeSample_dividers _ _ _ h)

@[simp] theorem takeFrame_dividers (g : Option Nat) (e : Ended) (s : State) (h : dividersInRange s.trigger) :
    dividersInRange (takeFrame g e s).trigger := by
  unfold takeFrame
  try dsimp only
  (repeat' split) <;> simp (maxDischargeDepth := 12) [h]

@[simp] theorem applyLane_dividers (l : LaneId) (g : Option Nat) (o : LaneOut) (s : State) (h : dividersInRange s.trigger) :
    dividersInRange (applyLane l g o s).trigger := by
  unfold applyLane
  simp only [raiseIf_frame]
  split
  · exact h
  · exact takeFrame_dividers _ _ (setLane _ _ _) h

@[simp] theorem settleGap_dividers (l : LaneId) (s : State) (h : dividersInRange s.trigger) :
    dividersInRange (settleGap l s).trigger := by
  unfold settleGap
  try dsimp only
  (repeat' split) <;> simp (maxDischargeDepth := 12) [h]

@[simp] theorem settleGaps_dividers (s : State) (h : dividersInRange s.trigger) :
    dividersInRange (settleGaps s).trigger := by
  simp (maxDischargeDepth := 12) [settleGaps, forLanes, h]

@[simp] theorem liveLaneTick_dividers (t : Nat) (v : BitVec 32) (l : LaneId) (s : State) (h : dividersInRange s.trigger) :
    dividersInRange (liveLaneTick t v l s).trigger := by
  unfold liveLaneTick
  try dsimp only
  (repeat' split) <;> simp (maxDischargeDepth := 12) [h]

@[simp] theorem liveTick_dividers (t : Nat) (v : BitVec 32) (s : State) (h : dividersInRange s.trigger) :
    dividersInRange (liveTick t v s).trigger := by
  simp (maxDischargeDepth := 12) [liveTick, forLanes, h]

@[simp] theorem laneSampleStop_dividers (g : Option Nat) (l : LaneId) (s : State) (h : dividersInRange s.trigger) :
    dividersInRange (laneSampleStop g l s).trigger := by
  unfold laneSampleStop
  try dsimp only
  (repeat' split) <;> simp (maxDischargeDepth := 12) [h]

@[simp] theorem lanesStop_dividers (g : Option Nat) (s : State) (h : dividersInRange s.trigger) :
    dividersInRange (lanesStop g s).trigger := by
  simp (maxDischargeDepth := 12) [lanesStop, forLanes, h]

@[simp] theorem replayOverrun_dividers (t : FrameTable) (l : LaneId) (n : Nat) (s : State) (h : dividersInRange s.trigger) :
    dividersInRange (replayOverrun t l n s).trigger := by
  unfold replayOverrun
  try dsimp only
  simp (maxDischargeDepth := 12) [h]

@[simp] theorem replayGap_dividers (t : FrameTable) (l : LaneId) (s : State) (h : dividersInRange s.trigger) :
    dividersInRange (replayGap t l s).trigger := by
  unfold replayGap
  try dsimp only
  (repeat' split) <;> simp (maxDischargeDepth := 12) [h]

@[simp] theorem replayTick_dividers (t : FrameTable) (l : LaneId) (s : State) (h : dividersInRange s.trigger) :
    dividersInRange (replayTick t l s).trigger := by
  unfold replayTick
  try dsimp only
  (repeat' split) <;> simp (maxDischargeDepth := 12) [h]

@[simp] theorem replayTicks_dividers (t : FrameTable) (l : LaneId) (n : Nat) (s : State) (h : dividersInRange s.trigger) :
    dividersInRange (replayTicks t l n s).trigger := by
  induction n generalizing s with
  | zero => exact h
  | succ m ih =>
    unfold replayTicks
    split
    · exact ih _ (replayTick_dividers _ _ _ h)
    · exact h

@[simp] theorem replayEnd_dividers (t : FrameTable) (l : LaneId) (n : Nat) (s : State) (h : dividersInRange s.trigger) :
    dividersInRange (replayEnd t l n s).trigger := by
  unfold replayEnd
  try dsimp only
  (repeat' split) <;> simp (maxDischargeDepth := 12) [h]

@[simp] theorem replayRead_dividers (l : LaneId) (s : State) (h : dividersInRange s.trigger) :
    dividersInRange (replayRead l s).trigger := by
  unfold replayRead
  split
  · dsimp only
    split
    · exact replayEnd_dividers _ _ _ _ (replayTicks_dividers _ _ _ _ h)
    · split
      · split
        · exact replayEnd_dividers _ _ _ _ (replayTicks_dividers _ _ _ (setLane _ _ _) (replayTicks_dividers _ _ _ _ h))
        · exact replayTicks_dividers _ _ _ _ h
      · exact replayTicks_dividers _ _ _ _ h
  · exact h

@[simp] theorem referenceCount_dividers (s : State) (h : dividersInRange s.trigger) :
    dividersInRange (referenceCount s).trigger := by
  unfold referenceCount
  dsimp only
  (repeat' split) <;>
    first
      | exact h
      | exact secondsChanged_dividers _ h
      | (simp only [rollUpdate_frame]; first | exact h | exact secondsChanged_dividers _ h)

@[simp] theorem startSampling_dividers (s : State) (h : dividersInRange s.trigger) :
    dividersInRange (startSampling s).trigger := by
  unfold startSampling
  simp only [lanesStart_frame]
  exact h

@[simp] theorem stopSampling_dividers (g : Option Nat) (s : State) (h : dividersInRange s.trigger) :
    dividersInRange (stopSampling g s).trigger := by
  unfold stopSampling
  try dsimp only
  simp (maxDischargeDepth := 12) [h]

@[simp] theorem endCapture_dividers (i : Nat) (b : Bool) (s : State) (h : dividersInRange s.trigger) :
    dividersInRange (endCapture i b s).trigger := by
  unfold endCapture
  refine stopSampling_dividers _ _ (toIdle_dividers _ ?_)
  simpa using h

@[simp] theorem endMonitor_dividers (s : State) (h : dividersInRange s.trigger) :
    dividersInRange (endMonitor s).trigger := by
  exact stopSampling_dividers _ _ h

@[simp] theorem stopCapture_dividers (s : State) (h : dividersInRange s.trigger) :
    dividersInRange (stopCapture s).trigger := by
  unfold stopCapture
  try dsimp only
  (repeat' split) <;> simp (maxDischargeDepth := 12) [h]

@[simp] theorem timeLimitStop_dividers (s : State) (h : dividersInRange s.trigger) :
    dividersInRange (timeLimitStop s).trigger := by
  unfold timeLimitStop
  dsimp only
  simp only [raise_trigger]
  refine stopCapture_dividers _ ?_
  split <;> exact h

@[simp] theorem settleTimeLimit_dividers (s : State) (h : dividersInRange s.trigger) :
    dividersInRange (settleTimeLimit s).trigger := by
  unfold settleTimeLimit
  try dsimp only
  (repeat' split) <;> simp (maxDischargeDepth := 12) [h]

@[simp] theorem completePostFill_dividers (i : Nat) (s : State) (h : dividersInRange s.trigger) :
    dividersInRange (completePostFill i s).trigger := by
  unfold completePostFill
  try dsimp only
  (repeat' split) <;> simp (maxDischargeDepth := 12) [h]

@[simp] theorem settlePostFill_dividers (s : State) (h : dividersInRange s.trigger) :
    dividersInRange (settlePostFill s).trigger := by
  unfold settlePostFill
  try dsimp only
  (repeat' split) <;> simp (maxDischargeDepth := 12) [h]

@[simp] theorem settleAtTrigger_dividers (s : State) (h : dividersInRange s.trigger) :
    dividersInRange (settleAtTrigger s).trigger := by
  unfold settleAtTrigger
  split <;> simp (maxDischargeDepth := 12) [h]

@[simp] theorem stampedSample_dividers (t : Nat) (m : Sample) (e : Bool) (s : State) (h : dividersInRange s.trigger) :
    dividersInRange (stampedSample t m e s).trigger := by
  unfold stampedSample
  try dsimp only
  (repeat' split) <;> simp (maxDischargeDepth := 12) [h]

@[simp] theorem settleBeforeSample_dividers (s : State) (h : dividersInRange s.trigger) :
    dividersInRange (settleBeforeSample s).trigger := by
  unfold settleBeforeSample
  try dsimp only
  simp (maxDischargeDepth := 12) [h]

@[simp] theorem gridTick_dividers (b : Bool) (s : State) (h : dividersInRange s.trigger) :
    dividersInRange (gridTick b s).trigger := by
  have h1 := settleBeforeSample_dividers (setTrigger { s.trigger with trigOut := false } s) h
  unfold gridTick
  dsimp only
  split
  · exact stampedSample_dividers _ _ _ _ h1
  · exact h1

@[simp] theorem startCapture_dividers (s : State) (h : dividersInRange s.trigger) :
    dividersInRange (startCapture s).trigger := by
  unfold startCapture
  try dsimp only
  simp (maxDischargeDepth := 12) [h]

@[simp] theorem stopHunting_dividers (l : LaneId) (s : State) (h : dividersInRange s.trigger) :
    dividersInRange (stopHunting l s).trigger := by
  unfold stopHunting
  try dsimp only
  simp (maxDischargeDepth := 12) [h]

@[simp] theorem stopGraceful_dividers (l : LaneId) (s : State) (h : dividersInRange s.trigger) :
    dividersInRange (stopGraceful l s).trigger := by
  unfold stopGraceful
  try dsimp only
  (repeat' split) <;> simp (maxDischargeDepth := 12) [h]

@[simp] theorem stopNow_dividers (l : LaneId) (s : State) (h : dividersInRange s.trigger) :
    dividersInRange (stopNow l s).trigger := by
  unfold stopNow
  try dsimp only
  (repeat' split) <;> simp (maxDischargeDepth := 12) [h]


/-! ## Commands and rows -/

theorem clampT0_range (x : Int) : clampT0 x ≤ Config.lastTick := Nat.min_le_right _ _

theorem clampQ_range (x : Nat) : 1 ≤ clampQ x ∧ clampQ x ≤ Config.maxQ := by
  unfold clampQ clamp
  simp only [Config.maxQ]
  omega

@[simp] theorem rollUpdate_viewport (s : State) (h : viewportInRange s.view) : viewportInRange (rollUpdate s).view := by
  unfold rollUpdate
  split
  · unfold viewportInRange
    simp only [viewRequest_viewport]
    exact ⟨h.1, h.2.1, clampT0_range _⟩
  · exact h

@[simp] theorem referenceCount_viewport (s : State) (h : viewportInRange s.view) :
    viewportInRange (referenceCount s).view := by
  unfold referenceCount
  dsimp only
  (repeat' split) <;>
    first
      | exact h
      | (simp only [secondsChanged_frame]; exact h)
      | (refine rollUpdate_viewport _ ?_; first | exact h | (simp only [secondsChanged_frame]; exact h))

theorem rowOf_height (w : Word) (r : RowEntry) (h : rowOf w = some r) : 8 ≤ r.height ∧ r.height ≤ 32 := by
  unfold rowOf clamp at h
  dsimp only at h
  (repeat' split at h) <;> simp_all <;> subst h <;> dsimp only <;> omega

theorem rowsOf_heights (ws : List Word) (rows : List RowEntry) (h : rowsOf ws = some rows) :
    rows.length = ws.length ∧ ∀ r ∈ rows, 8 ≤ r.height ∧ r.height ≤ 32 := by
  induction ws generalizing rows with
  | nil => simp [rowsOf] at h; subst h; simp
  | cons w rest ih =>
    unfold rowsOf at h
    split at h
    · rename_i r rs h1 h2
      have := ih rs h2
      have hw := rowOf_height w r h1
      cases h
      simp_all
    · cases h

theorem storeDeskew_range (d : List Nat) (n : Nat) (vs : List Word) (h : ∀ x ∈ d, x ≤ 15) :
    (storeDeskew d n vs).length = d.length ∧ ∀ x ∈ storeDeskew d n vs, x ≤ 15 := by
  induction vs generalizing d n with
  | nil => exact ⟨rfl, h⟩
  | cons v rest ih =>
    unfold storeDeskew
    have := ih (d.set n (min v.toNat 15)) (n + 1) (by
      intro x hx
      rcases List.mem_or_eq_of_mem_set hx with h1 | h1
      · exact h x h1
      · omega)
    simpa using this

theorem load_dividers (t u : Trigger) (image : List Word) (h : t.load image = some u) : dividersInRange u := by
  unfold Trigger.load at h
  dsimp only at h
  split at h
  · cases h
  · split at h
    · cases h
    · split at h
      · cases h
        unfold dividersInRange DividerUnit.inRange loadDivider clamp
        dsimp only
        omega
      · cases h

theorem modLink_range (p : Pod) (f : PodLink → PodLink) (s : State) (h : podsInRange s.pods)
    (hf : (s.pods.links[p]).inRange → (f s.pods.links[p]).inRange) : podsInRange (modLink p f s).pods := by
  obtain ⟨h1, h2⟩ := h
  refine ⟨fun i => ?_, h2⟩
  unfold modLink
  simp only [Fin.getElem_fin, Vector.getElem_set]
  split
  · exact hf (h1 p)
  · exact h1 i

theorem trainingWord_range (k : PodLink) (w : TrainingWord) (h : k.inRange) (hs : k.state = .training) :
    (k.trainingWord w).inRange := by
  have hr : k.nextRun w ≤ 16 := by
    unfold PodLink.inRange at h
    unfold PodLink.nextRun
    (repeat' split) <;> simp_all
  unfold PodLink.inRange at *
  unfold PodLink.trainingWord PodLink.lock
  dsimp only
  simp_all
  (repeat' split) <;> simp_all
  omega

theorem countAck_range (k : PodLink) : (k.countAck.1).getD 0 ≤ 63 ∧ (k.countAck.1.isSome → k.wait.isSome) := by
  unfold PodLink.countAck
  split
  · simp_all
  · split <;> simp_all

theorem badFrame_range (k : PodLink) (h : k.inRange) (hs : k.state = .up) : k.badFrame.inRange := by
  have hc := countAck_range k
  unfold PodLink.inRange at *
  unfold PodLink.badFrame PodLink.dropWait
  split <;> simp_all <;> omega

theorem goodFrame_range (k : PodLink) (v : Vector Byte 16) (h : k.inRange) (hs : k.state = .up) : (k.goodFrame v).inRange := by
  have hc := countAck_range k
  unfold PodLink.inRange at *
  unfold PodLink.goodFrame
  simp_all

theorem statusWord_range (k : PodLink) (c : BitVec 8) (y : BitVec 2) (h : k.inRange) : (k.statusWord c y).inRange := by
  unfold PodLink.inRange at *
  unfold PodLink.statusWord
  split <;> simp_all

theorem dropWait_range (k : PodLink) (h : k.inRange) : k.dropWait.inRange := by
  unfold PodLink.inRange at *
  unfold PodLink.dropWait
  simp_all

theorem train_range (k : PodLink) (h : k.inRange) (hw : k.wait = none) : k.train.inRange := by
  unfold PodLink.inRange at *
  unfold PodLink.train
  simp_all

theorem remove_range (k : PodLink) (h : k.inRange) : k.remove.inRange := by
  unfold PodLink.inRange at *
  unfold PodLink.remove PodLink.dropWait
  simp_all

end Sys2Proof.Machine
end

