-- ==== Sys2Proof/Laws/Receiver.lean ====
section
/-! SUPPORT. The receiver over a run of payload words (R196): stray, into a packet, and dropped. -/

namespace Sys2Proof.Machine

/-- An event raised again changes nothing more (R202). -/
theorem raise_raise (b : Fin 7) (m : Word) (s : State) : raise b m (raise b m s) = raise b m s := by
  have gone : ∀ e n : Word, m &&& ~~~(e ||| m) &&& n = 0#32 := by
    intro e n
    apply BitVec.eq_of_getLsbD_eq
    intro i hi
    simp only [BitVec.getLsbD_and, BitVec.getLsbD_not, BitVec.getLsbD_or, hi, BitVec.getLsbD_zero]
    cases m.getLsbD i <;> simp
  simp [raise, EventSet.raise, gone, BitVec.or_assoc]

/-- Payload words at an idle receiver are stray: BAD_PACKET is raised, however many there are. -/
theorem payload_at_idle (ws : List Word) (s : State) (h : s.uplink.rx = .idle) :
    ws.foldl (fun x w => receivePayload w x) s = if ws = [] then s else badPacket s := by
  induction ws generalizing s with
  | nil => rfl
  | cons w ws ih =>
    have one : receivePayload w s = badPacket s := by simp [receivePayload, h]
    rw [List.foldl_cons, one, ih _ (by simpa [badPacket, raise] using h)]
    split
    · simp
    · simp [badPacket, raise_raise]

/-- Payload words up to a packet's length join it; the last of them takes it to the queue's tail. -/
theorem payload_in_reception (ws : List Word) (h : Word) (s : State) (words : List Word)
    (hr : s.uplink.rx = .receiving h words false) (hlt : words.length < headerLength h) :
    (words.length + ws.length < headerLength h →
      ws.foldl (fun x w => receivePayload w x) s = setUplink { s.uplink with rx := .receiving h (words ++ ws) false } s) ∧
    (words.length + ws.length = headerLength h →
      ws.foldl (fun x w => receivePayload w x) s = setUplink { s.uplink with
        rx := .idle, queue := s.uplink.queue ++ [⟨h, words ++ ws, false⟩] } s) := by
  induction ws generalizing s words with
  | nil =>
    refine ⟨fun _ => ?_, fun e => ?_⟩
    · simp [setUplink, ← hr]
    · simp only [List.length_nil] at e
      omega
  | cons w ws ih =>
    by_cases hc : words.length + 1 = headerLength h
    · have one : receivePayload w s = setUplink { s.uplink with
          rx := .idle, queue := s.uplink.queue ++ [⟨h, words ++ [w], false⟩] } s := by
        simp [receivePayload, hr, ← hc, Uplink.complete]
      refine ⟨fun e => ?_, fun e => ?_⟩
      · simp only [List.length_cons] at e
        omega
      · have : ws = [] := by
          apply List.eq_nil_of_length_eq_zero
          simp only [List.length_cons] at e
          omega
        subst this
        simpa using one
    · have one : receivePayload w s = setUplink { s.uplink with rx := .receiving h (words ++ [w]) false } s := by
        have : ¬ headerLength h ≤ words.length + 1 := by omega
        simp [receivePayload, hr, this]
      have rest := ih (setUplink { s.uplink with rx := .receiving h (words ++ [w]) false } s) (words ++ [w]) rfl
        (by simp only [List.length_append, List.length_singleton]; omega)
      rw [List.foldl_cons, one]
      refine ⟨fun e => ?_, fun e => ?_⟩
      · rw [rest.1 (by simp at e ⊢; omega)]
        simp [setUplink]
      · rw [rest.2 (by simp at e ⊢; omega)]
        simp [setUplink]

/-- Payload words of a packet that found no slot are dropped; after the last the receiver is idle. -/
theorem payload_dropped (ws : List Word) (k : Nat) (s : State) (hr : s.uplink.rx = .dropping k) (hk : 0 < k) :
    (ws.length < k → ws.foldl (fun x w => receivePayload w x) s =
      setUplink { s.uplink with rx := .dropping (k - ws.length) } s) ∧
    (ws.length = k → ws.foldl (fun x w => receivePayload w x) s = setUplink { s.uplink with rx := .idle } s) := by
  induction ws generalizing s k with
  | nil =>
    refine ⟨fun _ => ?_, fun e => ?_⟩
    · simp [setUplink, ← hr]
    · simp only [List.length_nil] at e
      omega
  | cons w ws ih =>
    by_cases h1 : k ≤ 1
    · have one : receivePayload w s = setUplink { s.uplink with rx := .idle } s := by simp [receivePayload, hr, h1]
      refine ⟨fun e => ?_, fun e => ?_⟩
      · simp only [List.length_cons] at e
        omega
      · have : ws = [] := by
          apply List.eq_nil_of_length_eq_zero
          simp only [List.length_cons] at e
          omega
        subst this
        simpa using one
    · have one : receivePayload w s = setUplink { s.uplink with rx := .dropping (k - 1) } s := by
        simp [receivePayload, hr, h1]
      have rest := ih (k - 1) (setUplink { s.uplink with rx := .dropping (k - 1) } s) rfl (by omega)
      rw [List.foldl_cons, one]
      refine ⟨fun e => ?_, fun e => ?_⟩
      · rw [rest.1 (by simp only [List.length_cons] at e; omega)]
        simp only [setUplink, List.length_cons]
        congr 3
        omega
      · rw [rest.2 (by simp only [List.length_cons] at e; omega)]
        simp [setUplink]

end Sys2Proof.Machine
end

