-- ==== Sys2Proof/Laws/Segments.lean ====
section
/-! SUPPORT. Segments and logs one by one: what a change of one segment, of one segment's reference, or of one log leaves of the
others (chapters 3 and 7). -/

namespace Sys2Proof.Machine

theorem segAt_modSeg (i j : Nat) (f : Segment → Segment) (s : State) (h : i < s.capture.segs.length) :
    segAt (modSeg i f s) j = if j = i then f (segAt s i) else segAt s j := by
  by_cases hj : j = i
  · subst hj
    simp [segAt, modSeg, h]
  · have : ¬ i = j := fun e => hj e.symm
    simp [segAt, modSeg, hj, this]

theorem segAt_enqueue (i j : Nat) (r : Record) (post : Bool) (s : State) (h : i < s.capture.segs.length) :
    segAt (enqueue i r post s) j =
      if j = i then { segAt s i with produced := (segAt s i).produced + 1 } else segAt s j := by
  unfold enqueue
  rw [segAt_modSeg _ _ _ _ (by simpa [setCapture] using h)]
  rfl

theorem segAt_takeReference (i j : Nat) (r : Record) (s : State) (h : i < s.capture.segs.length) :
    segAt (takeReference i r s) j =
      if j = i then { segAt s i with refLevels := r.levels, refPods := r.pods } else segAt s j :=
  segAt_modSeg i j _ s h

/-- With room and no overrun pending a record enters the queue's tail, counts as produced and becomes the reference (R45). -/
theorem produce_with_room (i : Nat) (r : Record) (post : Bool) (s : State) (h : i < s.capture.segs.length)
    (ho : (segAt s i).overrun = none) (hq : s.capture.queue.length < 4096) :
    (produce i r post s).capture.queue = s.capture.queue ++ [⟨i, r, post⟩] ∧
    segAt (produce i r post s) i = { segAt s i with
      produced := (segAt s i).produced + 1, refLevels := r.levels, refPods := r.pods } ∧
    ∀ j, j ≠ i → segAt (produce i r post s) j = segAt s j := by
  have e : produce i r post s = enqueue i r post (takeReference i r s) := by simp [produce, ho, hq, Config.writerQueueMax]
  have hl : i < (takeReference i r s).capture.segs.length := by simpa [takeReference, modSeg] using h
  rw [e]
  refine ⟨rfl, ?_, fun j hj => ?_⟩
  · rw [segAt_enqueue _ _ _ _ _ hl, if_pos rfl, segAt_takeReference _ _ _ _ h, if_pos rfl]
  · rw [segAt_enqueue _ _ _ _ _ hl, if_neg hj, segAt_takeReference _ _ _ _ h, if_neg hj]

theorem logAt_keepInLog (i j : Nat) (keep : FrameRecord → Bool) (s : State) :
    logAt (keepInLog i keep s) j = if j = i then (logAt s i).filter keep else logAt s j := by
  unfold keepInLog
  simp only [logAt, setPath]
  by_cases hj : j = i
  · subst hj
    by_cases h : j < s.rpath.logs.length
    · simp [h]
    · simp [h]
  · have : ¬ i = j := fun e => hj e.symm
    simp [this, hj]

/-- Trimming drops from one segment's log and from the log write queue its entries that start before the oldest time (R145). -/
theorem trimLog_drops (i oldest : Nat) (s : State) :
    (∀ j, logAt (trimLog i oldest s) j =
      if j = i then (logAt s i).filter (fun e => decide (oldest ≤ e.start)) else logAt s j) ∧
    (trimLog i oldest s).rpath.logQueue =
      s.rpath.logQueue.filter (fun e => decide (e.1 ≠ i) || decide (oldest ≤ e.2.start)) := by
  refine ⟨fun j => logAt_keepInLog i j _ s, ?_⟩
  simp only [trimLog, keepInLogQueue, keepInLog, setPath]
  congr 1
  funext e
  by_cases h : e.1 = i <;> simp [h]

/-- A stored replay drops its lane's entries from one segment's log and from the whole log write queue (R142). -/
theorem dropLaneEntries_drops (i : Nat) (l : LaneId) (s : State) :
    (∀ j, logAt (dropLaneEntries i l s) j =
      if j = i then (logAt s i).filter (fun e => decide (e.lane ≠ l)) else logAt s j) ∧
    (dropLaneEntries i l s).rpath.logQueue = s.rpath.logQueue.filter (fun e => decide (e.2.lane ≠ l)) :=
  ⟨fun j => logAt_keepInLog i j _ s, rfl⟩

/-- A wait that ends with no match leaves the shadow unconfirmed, and a link in no wait as it was (R11). -/
theorem dropWait_unconfirms (k : PodLink) :
    (k.wait = none → k.dropWait = k) ∧ (∀ n, k.wait = some n → k.dropWait = { k with wait := none, confirmed := false }) := by
  unfold PodLink.dropWait
  refine ⟨fun h => ?_, fun n h => by simp [h]⟩
  cases k
  simp_all

/-- What stands before and at the end of the run of a range whose records lie below a time. -/
theorem takeWhile_below (f : Nat → Record) (t n : Nat) :
    let k := (((List.range n).map f).takeWhile (fun r => decide (r.time < t))).length
    k ≤ n ∧ (∀ j, j < k → (f j).time < t) ∧ (k < n → t ≤ (f k).time) := by
  induction n generalizing f with
  | zero => simp
  | succ n ih =>
    rw [List.range_succ_eq_map, List.map_cons, List.map_map]
    by_cases h : (f 0).time < t
    · rw [List.takeWhile_cons_of_pos (by simpa using h), List.length_cons]
      obtain ⟨a, b, c⟩ := ih (fun j => f (j + 1))
      refine ⟨Nat.succ_le_succ a, fun j hj => ?_, fun hlt => c (Nat.lt_of_succ_lt_succ hlt)⟩
      cases j with
      | zero => exact h
      | succ j => exact b j (Nat.lt_of_succ_lt_succ hj)
    · rw [List.takeWhile_cons_of_neg (by simpa using h)]
      exact ⟨Nat.zero_le _, fun j hj => absurd hj (Nat.not_lt_zero j), fun _ => by simpa using h⟩

/-- The index of the first retained record at or above a time: every earlier one lies below it (R55, R176). -/
theorem indexAtOrAfter_spec (s : State) (i t : Nat) :
    indexAtOrAfter s i t ≤ (segAt s i).retained ∧ (∀ j, j < indexAtOrAfter s i t → (recordAt s i j).time < t) ∧
    (indexAtOrAfter s i t < (segAt s i).retained → t ≤ (recordAt s i (indexAtOrAfter s i t)).time) := by
  unfold indexAtOrAfter retainedRecords
  exact takeWhile_below (recordAt s i) t _

/-- What closing a segment changes once its trigger index is settled (R55). -/
theorem closeWritten_spec (i : Nat) (s u : State) (hu : u = settleIndex i s) :
    (closeWritten i s).capture = { u.capture with
      ctl := if u.capture.ctl = .closing ∧ u.capture.queue = [] then .idle else u.capture.ctl
      segs := u.capture.segs.set i
        { segAt u i with state := if (segAt u i).closeStopped then .stopped else .done } } ∧
    (closeWritten i s).rpath = u.rpath ∧
    (u.capture.ctl = .closing → u.capture.queue = [] → (closeWritten i s).events[blkCapture] =
      ((u.events[blkCapture]).raise evSegmentDone).raise evCaptureComplete) ∧
    (u.capture.ctl ≠ .closing ∨ u.capture.queue ≠ [] →
      (closeWritten i s).events[blkCapture] = (u.events[blkCapture]).raise evSegmentDone) := by
  unfold closeWritten
  rw [← hu]
  by_cases h : u.capture.ctl = .closing ∧ u.capture.queue = []
  · rw [if_pos (by exact h)]
    refine ⟨?_, rfl, fun _ _ => ?_, fun hn => ?_⟩
    · rw [if_pos h]
      rfl
    · simp [raise, setCapture, modSeg]
    · exact hn.elim (absurd h.1) (absurd h.2)
  · rw [if_neg (by exact h)]
    refine ⟨?_, rfl, fun a b => absurd ⟨a, b⟩ h, fun _ => ?_⟩
    · rw [if_neg h]
      rfl
    · simp [raise, modSeg]

end Sys2Proof.Machine
end

