-- ==== Sys2Proof/Laws/Sequencer.lean ====
section
/-! SUPPORT. What the sequencer's operations do: the values of terms and conditions (R68 to R71), the steps of one tick (R77,
R82), entering a stage (R76), and the cause and time of a trigger (R87). -/

namespace Sys2Proof.Machine

/-! ## Vectors of four and of eight -/

theorem vector4_eq {α : Type} (v : Vector α 4) (a b c d : α) (h0 : v[(0 : Fin 4)] = a) (h1 : v[(1 : Fin 4)] = b)
    (h2 : v[(2 : Fin 4)] = c) (h3 : v[(3 : Fin 4)] = d) : v = #v[a, b, c, d] := by
  ext i hi
  match i, hi with
  | 0, _ => simpa using h0
  | 1, _ => simpa using h1
  | 2, _ => simpa using h2
  | 3, _ => simpa using h3

theorem vector4_map {α β : Type} (v : Vector α 4) (f : α → β) : v.map f = #v[f v[0], f v[1], f v[2], f v[3]] := by
  apply vector4_eq <;> simp

theorem vector8_map {α β : Type} (v : Vector α 8) (f : α → β) :
    v.toList.map f = [f v[0], f v[1], f v[2], f v[3], f v[4], f v[5], f v[6], f v[7]] := by
  have : v.toList = [v[0], v[1], v[2], v[3], v[4], v[5], v[6], v[7]] := by
    apply List.ext_getElem
    · simp
    · intro i h1 h2
      simp at h1
      match i, h1 with
      | 0, _ | 1, _ | 2, _ | 3, _ | 4, _ | 5, _ | 6, _ | 7, _ => simp
  rw [this]
  rfl

theorem eightBits_list : ∀ b0 b1 b2 b3 b4 b5 b6 b7 : Bool, ∀ n : Fin 8,
    (eightBits [b0, b1, b2, b3, b4, b5, b6, b7]).getLsbD n = [b0, b1, b2, b3, b4, b5, b6, b7].getD n.val false := by
  decide +kernel

theorem eightBits_getLsbD (f : Fin 8 → Bool) (n : Fin 8) :
    (eightBits [f 0, f 1, f 2, f 3, f 4, f 5, f 6, f 7]).getLsbD n = f n := by
  rw [eightBits_list]
  fin_cases n <;> rfl

/-! ## Bits under a mask -/

/-- Two words agree under a mask when they agree in each of its bits. -/
theorem masked_equal (a b m : BitVec 32) :
    ((a ^^^ b) &&& m == 0) = true ↔ ∀ k, m.getLsbD k = true → a.getLsbD k = b.getLsbD k := by
  simp only [beq_iff_eq]
  constructor
  · intro h k hk
    have := congrArg (fun x => BitVec.getLsbD x k) h
    simp [hk] at this
    exact this
  · intro h
    apply BitVec.eq_of_getLsbD_eq
    intro i hi
    cases hm : m.getLsbD i
    · simp [hm]
    · simp [hm, h i hm]

theorem some_bit (x : BitVec 32) : (x != 0) = true ↔ ∃ k, x.getLsbD k = true := by
  simp only [bne_iff_ne]
  constructor
  · intro h
    by_contra hc
    apply h
    apply BitVec.eq_of_getLsbD_eq
    intro i hi
    simp at hc
    simpa using hc i
  · rintro ⟨k, hk⟩ h
    simp [h] at hk

/-- A channel changed in an edge's direction (R69). -/
theorem changed_bit (e : Edge) (p q : BitVec 32) (k : Nat) :
    (changed e p q).getLsbD k = true ↔ p.getLsbD k ≠ q.getLsbD k ∧ (e = .rising → q.getLsbD k = true) ∧
      (e = .falling → q.getLsbD k = false) := by
  by_cases hk : k < 32
  · cases e <;> simp only [changed, BitVec.getLsbD_and, BitVec.getLsbD_not, BitVec.getLsbD_xor, hk] <;>
      cases p.getLsbD k <;> cases q.getLsbD k <;> simp
  · have hp : p.getLsbD k = false := BitVec.getLsbD_of_ge _ _ (Nat.le_of_not_lt hk)
    have hq : q.getLsbD k = false := BitVec.getLsbD_of_ge _ _ (Nat.le_of_not_lt hk)
    have hc : (changed e p q).getLsbD k = false := BitVec.getLsbD_of_ge _ _ (Nat.le_of_not_lt hk)
    simp [hp, hq, hc]

/-! ## Terms and conditions -/

theorem sourceTrue_pattern (tr : Trigger) (sm : Sample) (n : Fin 8) :
    tr.sourceTrue (tr.termValues sm) (.pattern n) = patternTerm tr.patterns[n] tr.prev.levels sm.levels := by
  simp only [Trigger.sourceTrue, TermValues.unit, Trigger.termValues, vector8_map]
  exact eightBits_getLsbD (fun i => patternTerm tr.patterns[i] tr.prev.levels sm.levels) n

theorem sourceTrue_edge (tr : Trigger) (sm : Sample) (n : Fin 8) :
    tr.sourceTrue (tr.termValues sm) (.edge n) = edgeTerm tr.edges[n] tr.prev.levels sm.levels := by
  simp only [Trigger.sourceTrue, TermValues.unit, Trigger.termValues, vector8_map]
  exact eightBits_getLsbD (fun i => edgeTerm tr.edges[i] tr.prev.levels sm.levels) n

/-- A PATTERN unit: its masked levels equal the value's now and, for ENTERED, did not before (R68). -/
theorem patternTerm_spec (u : PatternUnit) (before now : BitVec 32) :
    patternTerm (some u) before now = true ↔
      (∀ k, u.mask.getLsbD k = true → now.getLsbD k = u.value.getLsbD k) ∧
      (u.entered = true → ¬ ∀ k, u.mask.getLsbD k = true → before.getLsbD k = u.value.getLsbD k) := by
  simp only [patternTerm, PatternUnit.holds, Bool.and_eq_true, Bool.or_eq_true, masked_equal, Bool.not_eq_true',
    ← Bool.not_eq_true]
  refine and_congr_right fun _ => ?_
  rw [imp_iff_not_or]

/-- An EDGE unit: a masked channel changed in its direction (R69). -/
theorem edgeTerm_spec (u : EdgeUnit) (before now : BitVec 32) :
    edgeTerm (some u) before now = true ↔ ∃ k, u.mask.getLsbD k = true ∧ before.getLsbD k ≠ now.getLsbD k ∧
      (u.edge = .rising → now.getLsbD k = true) ∧ (u.edge = .falling → now.getLsbD k = false) := by
  simp only [edgeTerm, some_bit, BitVec.getLsbD_and, Bool.and_eq_true, changed_bit]
  exact exists_congr fun k => ⟨fun h => ⟨h.2, h.1⟩, fun h => ⟨h.2, h.1⟩⟩

/-- The glitch unit: a masked glitch flag is set (R69). -/
theorem glitchTerm_spec (m : Word) (flags : BitVec 32) :
    glitchTerm (some m) flags = true ↔ ∃ k, m.getLsbD k = true ∧ flags.getLsbD k = true := by
  simp only [glitchTerm, some_bit, BitVec.getLsbD_and, Bool.and_eq_true]
  exact exists_congr fun k => and_comm

/-- A condition: false without terms, else one contributed value under OR and all under AND (R71). -/
theorem conditionTrue_spec (tr : Trigger) (v : TermValues) (c : Condition) :
    (c.terms = [] → tr.conditionTrue v c = false) ∧
    (c.terms ≠ [] → c.any = true →
      (tr.conditionTrue v c = true ↔ ∃ x ∈ c.terms, tr.sourceTrue v x.source ≠ x.negate)) ∧
    (c.terms ≠ [] → c.any = false →
      (tr.conditionTrue v c = true ↔ ∀ x ∈ c.terms, tr.sourceTrue v x.source ≠ x.negate)) := by
  refine ⟨fun h => by simp [Trigger.conditionTrue, h], fun h1 h2 => ?_, fun h1 h2 => ?_⟩ <;>
  · unfold Trigger.conditionTrue
    split
    · contradiction
    · simp [h2]

/-! ## Counters, dividers and stages -/

/-- One count step: suppressed, below the compare value, or at it in HOLD and in WRAP (R78). -/
theorem step_spec (k : Counter) :
    (k.suppress = true → k.step = { k with value := k.value + 1, suppress := false }) ∧
    (k.suppress = false → k.value + 1 ≠ k.active → k.step = { k with value := k.value + 1 }) ∧
    (k.suppress = false → k.value + 1 = k.active →
      (k.hold = true → k.step = { k with value := k.active, running := false, matched := true }) ∧
      (k.hold = false → k.step = { k with value := 0, latch := true })) := by
  refine ⟨fun h => by simp only [Counter.step, h, ↓reduceIte], fun h h2 => ?_, fun h h2 => ?_⟩
  · unfold Counter.step
    rw [if_neg (by simp [h]), if_neg h2]
  · unfold Counter.step
    rw [if_neg (by simp [h]), if_pos h2, h2]
    exact ⟨fun h3 => by simp [h3], fun h3 => by simp [h3]⟩

/-- The counters after one tick's steps (R77). -/
theorem tickSteps_counters (tr : Trigger) (ev : Bool) (v : TermValues) (k : CounterId) :
    (tr.tickSteps ev v).counters[k] =
      if (tr.counters[k]).fires ev tr.divX.tick.2 tr.divY.tick.2 v tr.prevTerms then (tr.counters[k]).step
      else tr.counters[k] := by
  match k with
  | 0 | 1 | 2 | 3 => rfl

/-- One tick's steps change the dividers and the counters only. -/
theorem tickSteps_keeps (tr : Trigger) (ev : Bool) (v : TermValues) :
    tr.tickSteps ev v = { tr with
      divX := tr.divX.tick.1, divY := tr.divY.tick.1, counters := (tr.tickSteps ev v).counters } := rfl

/-- A stage's action on a counter, with its compare value committed (R76). -/
theorem enter_spec (c : Counter) (a : Action) :
    c.enter a = match a with
      | .keep => { c with active := c.staged }
      | .clear => { c with active := c.staged, value := 0, matched := false, latch := false, suppress := false }
      | .run => { c with active := c.staged, running := true }
      | .halt => { c with active := c.staged, running := false } := by
  cases a <;> rfl

/-- Entering a stage (R76). -/
theorem enterStage_spec (n : Nat) (s : State) (st : Stage) (cs : Vector Counter 4)
    (hst : st = s.trigger.stages.getD n Stage.cleared)
    (hcs : ∀ c : CounterId, cs[c] = (s.trigger.counters[c]).enter st.actions[c]) :
    enterStage n s = { s with
      trigger := { s.trigger with
        stage := n, counters := cs
        divX := if st.restartX then { s.trigger.divX with phase := 0 } else s.trigger.divX
        divY := if st.restartY then { s.trigger.divY with phase := 0 } else s.trigger.divY }
      events := if st.watch then s.events.set blkTrigger ((s.events[blkTrigger]).raise evStageWatch) else s.events } := by
  rw [vector4_eq cs _ _ _ _ (hcs 0) (hcs 1) (hcs 2) (hcs 3)]
  subst hst
  unfold enterStage raiseIf Trigger.watches
  by_cases h : (s.trigger.stages.getD n Stage.cleared).watch
  · rw [if_pos h, if_pos h]
    rfl
  · rw [if_neg h, if_neg h]
    rfl

/-! ## The cause and the time of a trigger -/

theorem foldl_min (l : List Nat) (e : Nat) :
    (l.foldl min e = e ∨ l.foldl min e ∈ l) ∧ l.foldl min e ≤ e ∧ ∀ x ∈ l, l.foldl min e ≤ x := by
  induction l generalizing e with
  | nil => simp
  | cons a l ih =>
    simp only [List.foldl_cons]
    obtain ⟨h1, h2, h3⟩ := ih (min e a)
    refine ⟨?_, by omega, fun x hx => ?_⟩
    · rcases h1 with h1 | h1
      · rcases Nat.le_total e a with h | h
        · exact Or.inl (by omega)
        · exact Or.inr (by rw [h1]; simp; exact Or.inl (by omega))
      · exact Or.inr (by simp [h1])
    · rcases List.mem_cons.1 hx with rfl | hx
      · omega
      · exact h3 x hx

/-- The ticks of a condition's FIELD terms that are not negated and whose latches are set. -/
theorem mem_fieldTicks (t : Trigger) (c : Condition) (e : Nat) :
    e ∈ t.fieldTicks c ↔ ∃ f : Fin 4, ⟨.field f, false⟩ ∈ c.terms ∧ t.latches[f] = some e := by
  simp only [Trigger.fieldTicks, List.mem_filterMap]
  constructor
  · rintro ⟨⟨src, neg⟩, hm, h⟩
    cases src with
    | field n =>
      cases neg with
      | true => simp at h
      | false => exact ⟨n, hm, by simpa using h⟩
    | _ => simp at h
  · rintro ⟨f, hm, h⟩
    exact ⟨⟨.field f, false⟩, hm, by simpa using h⟩

/-- With such a tick, cause FIELD and the earliest of them; else cause SEQUENCER and the sample's tick (R87). -/
theorem timeAndCause_spec (t : Trigger) (c : Condition) (n : Nat) :
    ((∃ f : Fin 4, ⟨.field f, false⟩ ∈ c.terms ∧ (t.latches[f]).isSome) → (t.timeAndCause c n).2 = .field ∧
      (∃ f : Fin 4, ⟨.field f, false⟩ ∈ c.terms ∧ t.latches[f] = some (t.timeAndCause c n).1) ∧
      ∀ (f : Fin 4) (e : Nat), ⟨.field f, false⟩ ∈ c.terms → t.latches[f] = some e → (t.timeAndCause c n).1 ≤ e) ∧
    ((∀ f : Fin 4, ⟨.field f, false⟩ ∈ c.terms → t.latches[f] = none) →
      (t.timeAndCause c n).2 = .sequencer ∧ (t.timeAndCause c n).1 = n) := by
  have hm := mem_fieldTicks t c
  unfold Trigger.timeAndCause
  cases h : t.fieldTicks c with
  | nil =>
    refine ⟨?_, fun _ => ⟨rfl, rfl⟩⟩
    rintro ⟨f, h1, h2⟩
    obtain ⟨e, he⟩ := Option.isSome_iff_exists.1 h2
    have := (hm e).2 ⟨f, h1, he⟩
    simp [h] at this
  | cons e rest =>
    obtain ⟨h1, h2, h3⟩ := foldl_min rest e
    refine ⟨fun _ => ⟨rfl, (hm _).1 ?_, fun f x hf hx => ?_⟩, fun hall => ?_⟩
    · rw [h]
      exact List.mem_cons.2 h1
    · have := (hm x).2 ⟨f, hf, hx⟩
      rw [h] at this
      rcases List.mem_cons.1 this with rfl | hx'
      · exact h2
      · exact h3 x hx'
    · obtain ⟨f, hf, hx⟩ := (hm e).1 (by simp [h])
      rw [hall f hf] at hx
      cases hx

end Sys2Proof.Machine
end

