-- ==== Sys2Proof/Laws/TableImage.lean ====
section
/-! SUPPORT. What the reader of a FRAME_TABLE image accepts and what it makes of the words (R103 to R105, section 11.3): the
entries in order with the first one at fault, the front end and the check. -/

namespace Sys2Proof.Machine.TableImage

open ProgramImage (field_lt)

/-- The entry that the words give, whether or not it keeps the rules. -/
def entryOfWords (e : Nat → Nat → Word) (k : Nat) : Entry := {
      name := field (e k 0) 0 5
      width := field (e k 0) 8 6
      lsbFirst := flag (e k 0) 15
      role := (roleOf (field (e k 0) 16 3)).getD .other
      rep := repeatOf (e k 0) (e k 1)
      inCheck := flag (e k 0) 22
      branch := if flag (e k 0) 23 then some ⟨e k 2, e k 3, field (e k 1) 24 4, field (e k 0) 24 5⟩ else none }

theorem role_cases (x : Nat) : (roleOf x = none ↔ 5 < x) ∧ (∀ r, roleOf x = some r → (r = .data ↔ x = 3) ∧
    (r = .check ↔ x = 4) ∧ (r = .length ↔ x = 2)) := by
  by_cases h : x ≤ 5
  · interval_cases x <;> simp [roleOf]
  · have : roleOf x = none := by unfold roleOf; split <;> first | omega | rfl
    simp [this]; omega

theorem role_getD (x : Nat) : ((roleOf x).getD .other = .data ↔ x = 3) ∧ ((roleOf x).getD .other = .check ↔ x = 4) ∧
    ((roleOf x).getD .other = .length ↔ x = 2) := by
  by_cases h : x ≤ 5
  · interval_cases x <;> simp [roleOf]
  · have : roleOf x = none := by unfold roleOf; split <;> first | omega | rfl
    simp [this]; omega


theorem entries_snoc (e : Nat → Nat → Word) (i : Nat) :
    (List.range i).map (entryOfWords e) ++ [entryOfWords e i] = (List.range (i + 1)).map (entryOfWords e) := by
  rw [List.range_succ, List.map_append]
  rfl

/-- The entries up to `i` that are no DATA entry. -/
theorem nonData_entries (e : Nat → Nat → Word) (i : Nat) :
    nonData ((List.range i).map (entryOfWords e) ++ [entryOfWords e i]) =
      ((List.range (i + 1)).filter fun i => field (e i 0) 16 3 ≠ 3).length := by
  rw [entries_snoc, nonData, List.filter_map, List.length_map]
  congr 2
  funext k
  simp only [Function.comp, entryOfWords]
  exact decide_eq_decide.2 (not_congr (role_getD (field (e k 0) 16 3)).1)

/-- The branches up to entry `i`. -/
theorem branchCount_entries (e : Nat → Nat → Word) (i : Nat) :
    branchCount ((List.range i).map (entryOfWords e) ++ [entryOfWords e i]) =
      ((List.range (i + 1)).filter fun i => (e i 0).getLsbD 23).length := by
  rw [entries_snoc, branchCount, List.filter_map, List.length_map]
  congr 2
  funext k
  simp only [Function.comp, entryOfWords]
  show _ = flag (e k 0) 23
  by_cases h : flag (e k 0) 23 = true
  · rw [if_pos h, h]; rfl
  · rw [if_neg h]; simp only [Bool.not_eq_true] at h; rw [h]; rfl

/-- The rules of R103 on an entry's branch. -/
theorem branchOk_spec (e : Nat → Nat → Word)
    (i n : Nat) : (entryOfWords e i).branchOk i n = true ↔ ¬ ((e i 0).getLsbD 23 = true ∧
    (field (e i 0) 20 2 ≠ 0 ∨ field (e i 0) 16 3 = 4 ∨ field (e i 0) 24 5 ≤ i ∨
        n ≤ field (e i 0) 24 5)) := by
  have hc := (role_getD (field (e i 0) 16 3)).2.1
  have hrep : (entryOfWords e i).rep = .once ↔ field (e i 0) 20 2 = 0 := by
    simp only [entryOfWords, repeatOf]
    split <;> simp_all
  have hrole : ((entryOfWords e i).role = .check ↔ field (e i 0) 16 3 = 4) := hc
  unfold Entry.branchOk
  by_cases hbr : (e i 0).getLsbD 23 = true
  · have : (entryOfWords e i).branch = some ⟨e i 2, e i 3, field (e i 1) 24 4, field (e i 0) 24 5⟩ := by
      exact if_pos (c := flag (e i 0) 23 = true) hbr
    rw [this]
    simp only [Bool.and_eq_true, decide_eq_true_eq, hrep, hrole, ne_eq, hbr, true_and]
    omega
  · have : (entryOfWords e i).branch = none := by exact if_neg (c := flag (e i 0) 23 = true) hbr
    rw [this]; exact ⟨fun _ h => hbr h.1, fun _ => rfl⟩

/-- The rules of R103 on an entry's repetition. -/
theorem repeatOk_spec (e : Nat → Nat → Word) (i n : Nat)
    (b : Bool) : (entryOfWords e i).repeatOk ((List.range i).map (entryOfWords e)) i n b = true ↔ ¬ ((field (e i 0) 20 2 ≠ 0 ∧ field (e i 0) 16 3 ≠ 3) ∨
      (field (e i 0) 20 2 = 1 ∧ (field (e i 1) 0 9 = 0 ∨ 256 < field (e i 1) 0 9)) ∨
      (field (e i 0) 20 2 = 2 ∧ (i ≤ field (e i 1) 0 5 ∨ field (e (field (e i 1) 0 5) 0) 16 3 ≠ 2 ∨
        (8 < field (e i 1) 16 5 ∧ field (e i 1) 16 5 < 24))) ∨
      (field (e i 0) 20 2 = 3 ∧ (i + 1 ≠ n ∨ b = true))) := by
  have hl := fun k => (role_getD (field (e k 0) 16 3)).2.2
  have r0 := field_lt (e i 0) 20 2
  have r1 := field_lt (e i 1) 16 5
  have hrole : ((entryOfWords e i).role = .data ↔ field (e i 0) 16 3 = 3) := (role_getD (field (e i 0) 16 3)).1
  have hrep : (entryOfWords e i).rep = repeatOf (e i 0) (e i 1) := rfl
  have h4 : field (e i 0) 20 2 = 0 ∨ field (e i 0) 20 2 = 1 ∨ field (e i 0) 20 2 = 2 ∨ field (e i 0) 20 2 = 3 := by omega
  unfold Entry.repeatOk
  rw [hrep]
  unfold repeatOf
  rcases h4 with h4 | h4 | h4 | h4 <;> rw [h4]
  · simp
  · simp only [Bool.and_eq_true, decide_eq_true_eq, hrole, true_and]; omega
  · have hx : (match ((List.range i).map (entryOfWords e))[field (e i 1) 0 5]? with
        | some r => decide (r.role = .length)
        | none => false) = true ↔ field (e i 1) 0 5 < i ∧ field (e (field (e i 1) 0 5) 0) 16 3 = 2 := by
      by_cases hlt : field (e i 1) 0 5 < i
      · rw [List.getElem?_map, List.getElem?_range hlt]
        simp only [Option.map_some, decide_eq_true_eq, hlt, true_and]
        exact hl _
      · rw [List.getElem?_eq_none (by simpa using hlt)]
        simp [hlt]
    simp only [Bool.and_eq_true, decide_eq_true_eq, hrole]
    refine (and_congr Iff.rfl hx).trans ?_
    simp only [true_and]
    unfold signed5
    split <;> omega
  · simp only [Bool.and_eq_true, decide_eq_true_eq, hrole, Bool.not_eq_true']
    cases b <;> simp

section
variable (image : List Word) (n : Nat) (w : Nat → Word) (e : Nat → Nat → Word) (faulty : Nat → Prop)
  (hlen : image.length = 11 + 4 * n) (hw : ∀ i, w i = image.getD i 0) (he : ∀ j k, e j k = w (11 + 4 * j + k))
  (hf : (∀ j, faulty j ↔ 5 < field (e j 0) 16 3 ∨ field (e j 0) 8 6 = 0 ∨ 32 < field (e j 0) 8 6 ∨
      (field (e j 0) 20 2 ≠ 0 ∧ field (e j 0) 16 3 ≠ 3) ∨
      (field (e j 0) 20 2 = 1 ∧ (field (e j 1) 0 9 = 0 ∨ 256 < field (e j 1) 0 9)) ∨
      (field (e j 0) 20 2 = 2 ∧ (j ≤ field (e j 1) 0 5 ∨ field (e (field (e j 1) 0 5) 0) 16 3 ≠ 2 ∨
        (8 < field (e j 1) 16 5 ∧ field (e j 1) 16 5 < 24))) ∨
      (field (e j 0) 20 2 = 3 ∧ (j + 1 ≠ n ∨ (w 5).getLsbD 0 = true)) ∨
      (field (e j 0) 16 3 = 4 ∧ (e j 0).getLsbD 22 = true) ∨
      ((e j 0).getLsbD 23 = true ∧ (field (e j 0) 20 2 ≠ 0 ∨ field (e j 0) 16 3 = 4 ∨ field (e j 0) 24 5 ≤ j ∨
        n ≤ field (e j 0) 24 5)) ∨
      16 < ((List.range (j + 1)).filter fun i => field (e i 0) 16 3 ≠ 3).length ∨
      4 < ((List.range (j + 1)).filter fun i => (e i 0).getLsbD 23).length))

include hlen hw he in
theorem drop_entry (i : Nat)
    (hi : i < n) : image.drop (11 + 4 * i) = e i 0 :: e i 1 :: e i 2 :: e i 3 :: image.drop (11 + 4 * (i + 1)) := by
  have g : ∀ k (hk : k < image.length), image.drop k = w k :: image.drop (k + 1) := by
    intro k hk
    rw [List.drop_eq_getElem_cons hk, hw, List.getD_eq_getElem _ _ hk]
  rw [g _ (by omega), g _ (by omega), g _ (by omega), g _ (by omega)]
  simp only [he]
  rfl

include hf in
/-- An entry keeps the rules exactly when it is not faulty. -/
theorem entryOk_spec (i : Nat) (hr : field (e i 0) 16 3 ≤ 5) :
    (entryOfWords e i).ok ((List.range i).map (entryOfWords e)) i n (flag (w 5) 0) = true ↔ ¬ faulty i := by
  rw [hf]
  have w1 : (entryOfWords e i).width = field (e i 0) 8 6 := rfl
  have w2 : (entryOfWords e i).inCheck = (e i 0).getLsbD 22 := rfl
  have hrole : ((entryOfWords e i).role = .check ↔ field (e i 0) 16 3 = 4) := (role_getD (field (e i 0) 16 3)).2.1
  unfold Entry.ok
  simp only [Bool.and_eq_true, repeatOk_spec, branchOk_spec, nonData_entries, branchCount_entries, decide_eq_true_eq,
      Bool.not_eq_true', Bool.and_eq_false_iff, decide_eq_false_iff_not, hrole, w1, w2, flag]
  generalize ((List.range (i + 1)).filter fun i => decide (field (e i 0) 16 3 ≠ 3)).length = A
  generalize ((List.range (i + 1)).filter fun i => (e i 0).getLsbD 23).length = B
  generalize (e i 0).getLsbD 23 = x
  generalize (e i 0).getLsbD 22 = y
  generalize (w 5).getLsbD 0 = z
  cases x <;> cases y <;> cases z <;> simp <;> omega

include hlen hw he hf in
/-- The entries are read when none is faulty; else the first faulty one is named. -/
theorem parseEntries_spec (d i : Nat) (hd : i + d = n) (hprev : ∀ k, k < i → ¬ faulty k) :
    ((∀ j, j < n → ¬ faulty j) ∧
        parseEntries (image.drop (11 + 4 * i)) (flag (w 5) 0) n ((List.range i).map (entryOfWords e)) i = .ok ((List.range n).map (entryOfWords e))) ∨
    (∃ j, j < n ∧ faulty j ∧ (∀ k, k < j → ¬ faulty k) ∧
        parseEntries (image.drop (11 + 4 * i)) (flag (w 5) 0) n ((List.range i).map (entryOfWords e)) i = .error j) := by
  induction d generalizing i with
  | zero =>
    left
    have : i = n := by omega
    subst this
    refine ⟨hprev, ?_⟩
    rw [List.drop_eq_nil_of_le (by omega)]; rfl
  | succ d ih =>
    rw [drop_entry image n w e hlen hw he i (by omega)]
    unfold parseEntries parseEntry
    by_cases hr : field (e i 0) 16 3 ≤ 5
    · have hs : ∃ r, roleOf (field (e i 0) 16 3) = some r := by
        cases h : roleOf (field (e i 0) 16 3) with
        | none => have := (role_cases (field (e i 0) 16 3)).1.1 h; omega
        | some r => exact ⟨r, rfl⟩
      obtain ⟨r, hs⟩ := hs
      have hE : (⟨field (e i 0) 0 5, field (e i 0) 8 6, flag (e i 0) 15, r, repeatOf (e i 0) (e i 1), flag (e i 0) 22,
          if flag (e i 0) 23 then some ⟨e i 2, e i 3, field (e i 1) 24 4,
          field (e i 0) 24 5⟩ else none⟩ : Entry) = entryOfWords e i := by
        simp [entryOfWords, hs]
      simp only [hs]
      rw [hE]
      by_cases hok : faulty i
      · right
        refine ⟨i, by omega, hok, hprev, ?_⟩
        rw [if_neg]
        rw [entryOk_spec n w e faulty hf i hr]; exact fun h => h hok
      · rw [if_pos ((entryOk_spec n w e faulty hf i hr).2 hok)]
        have h1 : (List.range i).map (entryOfWords e) ++ [entryOfWords e i] = (List.range (i + 1)).map (entryOfWords e) :=
            by rw [List.range_succ, List.map_append]; rfl
        rw [h1]
        exact ih (i + 1) (by omega) (by intro k hk; rcases Nat.lt_succ_iff_lt_or_eq.1 hk with h | h; exact hprev k h; subst h; exact hok)
    · right
      have hfi : faulty i := by rw [hf]; left; omega
      refine ⟨i, by omega, hfi, hprev, ?_⟩
      have : roleOf (field (e i 0) 16 3) = none := (role_cases _).1.2 (by omega)
      rw [this]
end

/-- The front end is read exactly when it keeps the rules of R104. -/
theorem parseFrontEnd_spec (f0 f1 f2 : Word) (channels : List Nat) (badFront : Prop)
  (hch : channels = field f0 8 5 :: ((if f0.getLsbD 15 then [field f0 16 5] else []) ++
        (List.range (field f0 24 3)).map fun i => field f1 (8 * i) 8))
  (hb : badFront ↔ field f0 0 2 = 3 ∨
        (field f0 0 2 = 0 ∧ (f1.toNat < 512 ∨ 16777216 < f1.toNat ∨ field f0 16 4 < 5 ∨
          9 < field f0 16 4 ∨ 4 < field f0 20 3 ∨ field f0 24 2 = 3)) ∨
        (field f0 0 2 = 1 ∧ (field f0 13 2 = 3 ∨ field f0 24 3 = 0 ∨ 4 < field f0 24 3 ∨ f2.toNat < 4 ∨
          32 < f2.toNat ∨ f2.toNat % field f0 24 3 ≠ 0 ∨ ¬ channels.Nodup ∨ ∃ k ∈ channels, 32 ≤ k)) ∨
        (field f0 0 2 = 2 ∧ field f0 8 5 = field f0 16 5)) :
   (badFront → parseFrontEnd f0 f1 f2 = none) ∧
   (¬ badFront → ∃ fe, parseFrontEnd f0 f1 f2 = some fe ∧
        (field f0 0 2 = 0 → ∃ (parity : Parity) (stop : StopBits), fe = .startStop ⟨field f0 8 5,
            f0.getLsbD 13, f1.toNat, field f0 16 4, parity, stop, f0.getLsbD 26⟩ ∧
          [Parity.none, .even, .odd, .mark, .space][field f0 20 3]? = some parity ∧
          [StopBits.one, .oneHalf, .two][field f0 24 2]? = some stop) ∧
        (field f0 0 2 = 1 → ∃ edge : Edge, fe = .strobed ⟨field f0 8 5, edge,
            if f0.getLsbD 15 then some (field f0 16 5) else none, f0.getLsbD 21,
            (List.range (field f0 24 3)).map (fun i => field f1 (8 * i) 8), f2.toNat⟩ ∧
          [Edge.rising, .falling, .both][field f0 13 2]? = some edge) ∧
        (field f0 0 2 = 2 → fe = .twoWire ⟨field f0 8 5, field f0 16 5, f0.getLsbD 24⟩)) := by
  have r0 := field_lt f0 0 2
  have rp := field_lt f0 20 3
  have rs := field_lt f0 24 2
  have re := field_lt f0 13 2
  have rc := field_lt f0 24 3
  have rk := field_lt f0 8 5
  have rsel := field_lt f0 16 5
  have par : (parityOf (field f0 20 3) = none ↔ 4 < field f0 20 3) ∧ ∀ x, parityOf (field f0 20 3) = some x → [Parity.none,
      .even, .odd, .mark, .space][field f0 20 3]? = some x := by
    generalize field f0 20 3 = a at *
    interval_cases a <;> simp [parityOf]
  have stp : (stopBitsOf (field f0 24 2) = none ↔ field f0 24 2 = 3) ∧ ∀ x, stopBitsOf (field f0 24 2) = some x →
      [StopBits.one, .oneHalf, .two][field f0 24 2]? = some x := by
    generalize field f0 24 2 = a at *
    interval_cases a <;> simp [stopBitsOf]
  have edg : (edgeOf (field f0 13 2) = none ↔ field f0 13 2 = 3) ∧ ∀ x, edgeOf (field f0 13 2) = some x → [Edge.rising,
      .falling, .both][field f0 13 2]? = some x := by
    generalize field f0 13 2 = a at *
    interval_cases a <;> simp [edgeOf]
  have h4 : field f0 0 2 = 0 ∨ field f0 0 2 = 1 ∨ field f0 0 2 = 2 ∨ field f0 0 2 = 3 := by omega
  rw [hb]
  unfold parseFrontEnd
  rcases h4 with h4 | h4 | h4 | h4
  · rw [h4]
    unfold parseStartStop
    refine ⟨?_, ?_⟩
    · intro h
      have h : f1.toNat < 512 ∨ 16777216 < f1.toNat ∨ field f0 16 4 < 5 ∨ 9 < field f0 16 4 ∨ 4 < field f0 20 3 ∨ field f0 24 2 = 3 := by omega
      cases hp : parityOf (field f0 20 3) with
      | none => rfl
      | some x =>
        cases hs : stopBitsOf (field f0 24 2) with
        | none => rfl
        | some y =>
          have : ¬ 4 < field f0 20 3 := fun c => by rw [par.1.2 c] at hp; cases hp
          have : ¬ field f0 24 2 = 3 := fun c => by rw [stp.1.2 c] at hs; cases hs
          exact if_neg (by omega)
    · intro h
      have h : ¬ (f1.toNat < 512 ∨ 16777216 < f1.toNat ∨ field f0 16 4 < 5 ∨ 9 < field f0 16 4 ∨ 4 < field f0 20 3 ∨ field f0 24 2 = 3) := fun c => h (by right; left; exact ⟨rfl, c⟩)
      cases hp : parityOf (field f0 20 3) with
      | none => exact absurd (par.1.1 hp) (by omega)
      | some x =>
        cases hs : stopBitsOf (field f0 24 2) with
        | none => exact absurd (stp.1.1 hs) (by omega)
        | some y =>
          dsimp only
          rw [if_pos (by omega)]
          exact ⟨_, rfl, fun _ => ⟨x, y, rfl, par.2 x hp, stp.2 y hs⟩, fun c => absurd c (by omega),
              fun c => absurd c (by omega)⟩
  · rw [h4]
    unfold parseStrobed
    have hchan : ∀ edge, (FrontEnd.strobed ⟨field f0 8 5, edge, if flag f0 15 then some (field f0 16 5) else none,
        flag f0 21, dataChannels f1 (field f0 24 3), f2.toNat⟩).channels = channels := by
      intro edge
      rw [hch]
      by_cases h : flag f0 15 = true
      · rw [if_pos h, if_pos (show f0.getLsbD 15 = true from h)]; rfl
      · rw [if_neg h, if_neg (show ¬ f0.getLsbD 15 = true from h)]; rfl
    have hall : (dataChannels f1 (field f0 24 3)).all (· < 32) = true ↔ ¬ ∃ k ∈ channels, 32 ≤ k := by
      rw [hch]
      simp only [List.all_eq_true, dataChannels, decide_eq_true_eq]
      constructor
      · rintro h ⟨k, hk, hk2⟩
        simp only [List.mem_cons, List.mem_append] at hk
        rcases hk with hk | hk | hk
        · omega
        · split at hk
          · simp at hk; omega
          · simp at hk
        · have := h k hk; omega
      · intro h k hk
        by_contra hc
        exact h ⟨k, by simp only [List.mem_cons, List.mem_append]; exact Or.inr (Or.inr hk), by omega⟩
    have key : ∀ edge : Edge, (1 ≤ field f0 24 3 ∧ field f0 24 3 ≤ 4 ∧ 4 ≤ f2.toNat ∧ f2.toNat ≤ 32 ∧
        f2.toNat % field f0 24 3 = 0 ∧ (dataChannels f1 (field f0 24 3)).all (· < 32) = true ∧
        (FrontEnd.strobed ⟨field f0 8 5, edge, if flag f0 15 then some (field f0 16 5) else none, flag f0 21,
        dataChannels f1 (field f0 24 3), f2.toNat⟩).channels.Nodup) ↔
       ¬ (field f0 24 3 = 0 ∨ 4 < field f0 24 3 ∨ f2.toNat < 4 ∨
          32 < f2.toNat ∨ f2.toNat % field f0 24 3 ≠ 0 ∨ ¬ channels.Nodup ∨ ∃ k ∈ channels, 32 ≤ k) := by
      intro edge
      rw [hall, hchan]
      generalize (∃ k ∈ channels, 32 ≤ k) = P
      generalize channels.Nodup = Q
      constructor
      · rintro ⟨a, b, c, d, e, f, g⟩ h
        rcases h with h | h | h | h | h | h | h
        all_goals first | omega | exact h e | exact h g | exact f h
      · intro h
        simp only [not_or, not_not] at h
        obtain ⟨a, b, c, d, e, f, g⟩ := h
        exact ⟨by omega, by omega, by omega, by omega, e, g, f⟩
    refine ⟨?_, ?_⟩
    · intro h
      have h : field f0 13 2 = 3 ∨ (field f0 24 3 = 0 ∨ 4 < field f0 24 3 ∨ f2.toNat < 4 ∨
          32 < f2.toNat ∨ f2.toNat % field f0 24 3 ≠ 0 ∨ ¬ channels.Nodup ∨ ∃ k ∈ channels, 32 ≤ k) := by
        rcases h with h | h | h | h
        · omega
        · omega
        · exact h.2
        · omega
      cases he : edgeOf (field f0 13 2) with
      | none => rfl
      | some edge =>
        refine if_neg fun c => ?_
        have c := (key edge).1 c
        rcases h with h | h
        · rw [edg.1.2 h] at he; cases he
        · exact c h
    · intro h
      have h : ¬ (field f0 13 2 = 3 ∨ (field f0 24 3 = 0 ∨ 4 < field f0 24 3 ∨ f2.toNat < 4 ∨
          32 < f2.toNat ∨ f2.toNat % field f0 24 3 ≠ 0 ∨ ¬ channels.Nodup ∨ ∃ k ∈ channels, 32 ≤ k)) :=
              fun c => h (by right; right; left; exact ⟨rfl, c⟩)
      rw [not_or] at h
      cases he : edgeOf (field f0 13 2) with
      | none => exact absurd (edg.1.1 he) h.1
      | some edge =>
        exact ⟨_, if_pos ((key edge).2 h.2), fun c => absurd c (by omega), fun _ => ⟨edge, rfl, edg.2 edge he⟩,
            fun c => absurd c (by omega)⟩
  · rw [h4]
    unfold parseTwoWire
    dsimp only
    by_cases hx : field f0 8 5 = field f0 16 5
    · rw [if_pos hx]; exact ⟨fun _ => rfl, fun h => absurd (by right; right; right; exact ⟨rfl, hx⟩) h⟩
    · rw [if_neg hx]
      refine ⟨fun h => ?_, fun _ => ⟨_, rfl, fun c => absurd c (by omega), fun c => absurd c (by omega), fun _ => rfl⟩⟩
      omega
  · rw [h4]
    exact ⟨fun _ => rfl, fun h => absurd (Or.inl rfl) h⟩

/-- The check is read exactly when it keeps the rules of R105. -/
theorem parseCheck_spec (e : Nat → Nat → Word) (n : Nat) (c0 c1 c2 c3 : Word) (checks : List Nat) (badCheck : Prop)
   (hc : checks = (List.range n).filter (fun i => field (e i 0) 16 3 = 4))
   (hb : badCheck ↔ 4 < field c0 0 3 ∨ (field c0 0 3 = 0 ∧ checks ≠ []) ∨
        (1 ≤ field c0 0 3 ∧ field c0 0 3 ≤ 4 ∧ ¬ ∃ i, checks = [i] ∧
          field (e i 0) 8 6 = if field c0 0 3 = 4 then 16 else 8) ∨
        (field c0 0 3 = 3 ∧ (256 ≤ c1.toNat ∨ 256 ≤ c2.toNat ∨ 256 ≤ c3.toNat)) ∨
        (field c0 0 3 = 4 ∧ (65536 ≤ c1.toNat ∨ 65536 ≤ c2.toNat ∨ 65536 ≤ c3.toNat))) :
   (badCheck → parseCheck c0 c1 c2 c3 ((List.range n).map (entryOfWords e)) = none) ∧
   (¬ badCheck → ∃ c, parseCheck c0 c1 c2 c3 ((List.range n).map (entryOfWords e)) = some c ∧
        c = ⟨c.kind, c1.toNat, c2.toNat, c3.toNat, c0.getLsbD 8, c0.getLsbD 9⟩ ∧
        c.kind.code.toNat = field c0 0 3) := by
  have hfil : ((List.range n).map (entryOfWords e)).filter (fun e => decide (e.role = .check)) = checks.map (entryOfWords e) := by
    rw [hc, List.filter_map]
    congr 2
    funext k
    simp only [Function.comp, entryOfWords]
    exact decide_eq_decide.2 (role_getD (field (e k 0) 16 3)).2.1
  have hwid : ∀ m : Nat,
      (decide ((checks.map (entryOfWords e)).length = 1) && (checks.map (entryOfWords e)).all fun e => e.width == m) = true ↔ ∃ i, checks = [i] ∧ field (e i 0) 8 6 = m := by
    intro m
    match checks with
    | [] => simp
    | [i] => simp [entryOfWords]
    | i :: j :: r => simp
  have hemp : (checks.map (entryOfWords e)).isEmpty = true ↔ checks = [] := by cases checks <;> simp
  unfold parseCheck
  rw [hfil]
  dsimp only
  have r0 := field_lt c0 0 3
  rw [hb]
  generalize field c0 0 3 = a at *
  generalize hW : (fun m => ∃ i, checks = [i] ∧ field (e i 0) 8 6 = m) = W at *
  have hwid' : ∀ m : Nat,
      (decide ((checks.map (entryOfWords e)).length = 1) && (checks.map (entryOfWords e)).all fun e => e.width == m) = true ↔ W m := by
    intro m; rw [← hW]; exact hwid m
  have hW' : ∀ m, (∃ i, checks = [i] ∧ field (e i 0) 8 6 = m) ↔ W m := by intro m; rw [← hW]
  simp only [hW']
  have h8 : a = 0 ∨ a = 1 ∨ a = 2 ∨ a = 3 ∨ a = 4 ∨ 4 < a := by omega
  rcases h8 with h | h | h | h | h | h
  · subst h
    simp only [checkKindOf]
    by_cases hx : checks = []
    · rw [if_pos (hemp.2 hx)]
      refine ⟨fun c => ?_, fun _ => ⟨_, rfl, rfl, rfl⟩⟩
      simp [hx] at c
    · rw [if_neg (fun c => hx (hemp.1 c))]
      exact ⟨fun _ => rfl, fun c => absurd (by right; left; exact ⟨by trivial, hx⟩) c⟩
  · subst h
    simp only [checkKindOf]
    by_cases hx : W 8
    · rw [if_pos ((hwid' 8).2 hx)]
      refine ⟨fun c => ?_, fun _ => ⟨_, rfl, rfl, rfl⟩⟩
      simp [hx] at c
    · rw [if_neg (fun c => hx ((hwid' 8).1 c))]
      exact ⟨fun _ => rfl, fun c => absurd (by right; right; left; exact ⟨by omega, by omega, hx⟩) c⟩
  · subst h
    simp only [checkKindOf]
    by_cases hx : W 8
    · rw [if_pos ((hwid' 8).2 hx)]
      refine ⟨fun c => ?_, fun _ => ⟨_, rfl, rfl, rfl⟩⟩
      simp [hx] at c
    · rw [if_neg (fun c => hx ((hwid' 8).1 c))]
      exact ⟨fun _ => rfl, fun c => absurd (by right; right; left; exact ⟨by omega, by omega, hx⟩) c⟩
  · subst h
    simp only [checkKindOf]
    by_cases hx : W 8
    · by_cases hy : 256 ≤ c1.toNat ∨ 256 ≤ c2.toNat ∨ 256 ≤ c3.toNat
      · refine ⟨fun _ => if_neg fun hh => ?_, fun c => absurd ?_ c⟩
        · simp only [Bool.and_eq_true, decide_eq_true_eq] at hh; omega
        · right; right; right; left; exact ⟨by trivial, hy⟩
      · refine ⟨fun c => ?_, fun _ => ⟨_, if_pos ?_, rfl, rfl⟩⟩
        · simp [hx] at c; omega
        · rw [Bool.and_eq_true, hwid' 8]; refine ⟨hx, ?_⟩; simp only [Bool.and_eq_true, decide_eq_true_eq]; omega
    · refine ⟨fun _ => if_neg fun hh => ?_, fun c => absurd ?_ c⟩
      · rw [Bool.and_eq_true, hwid' 8] at hh; exact hx hh.1
      · right; right; left; exact ⟨by omega, by omega, hx⟩
  · subst h
    simp only [checkKindOf]
    by_cases hx : W 16
    · by_cases hy : 65536 ≤ c1.toNat ∨ 65536 ≤ c2.toNat ∨ 65536 ≤ c3.toNat
      · refine ⟨fun _ => if_neg fun hh => ?_, fun c => absurd ?_ c⟩
        · simp only [Bool.and_eq_true, decide_eq_true_eq] at hh; omega
        · right; right; right; right; exact ⟨by trivial, hy⟩
      · refine ⟨fun c => ?_, fun _ => ⟨_, if_pos ?_, rfl, rfl⟩⟩
        · simp [hx] at c; omega
        · rw [Bool.and_eq_true, hwid' 16]; refine ⟨hx, ?_⟩; simp only [Bool.and_eq_true, decide_eq_true_eq]; omega
    · refine ⟨fun _ => if_neg fun hh => ?_, fun c => absurd ?_ c⟩
      · rw [Bool.and_eq_true, hwid' 16] at hh; exact hx hh.1
      · right; right; left; exact ⟨by omega, by omega, hx⟩
  · have : checkKindOf a = none := by unfold checkKindOf; split <;> first | omega | rfl
    rw [this]
    exact ⟨fun _ => rfl, fun c => absurd (Or.inl h) c⟩

end Sys2Proof.Machine.TableImage
end

