-- ==== Sys2Proof/Laws/View.lean ====
section
/-! SUPPORT. What the view engine's operations do: a view request (R168, R169), the counts and levels of trace cells (R159), and
the record a measurement begins with (R176). -/

namespace Sys2Proof.Machine

/-- A pending request waits behind a pass or a measurement (R168). -/
theorem startPass_waits (n : Snapshot) (s : State) (hp : s.view.pending = some n)
    (hb : (s.view.pass.isSome || s.view.measuring) = true) : startPass s = s := by
  unfold startPass
  rw [hp]
  exact if_pos hb

/-- Otherwise it starts its pass (R169). -/
theorem startPass_begins (n : Snapshot) (s : State) (hp : s.view.pending = some n)
    (hb : ¬ (s.view.pass.isSome || s.view.measuring) = true) : startPass s = beginPass n s := by
  unfold startPass
  rw [hp]
  exact if_neg hb

/-- What a view request does once the viewport or a cursor has changed (R168, R169): `viewRequested`. -/
theorem viewRequest_requested (seg t0 q : Nat) (roll : Bool) (a b : Option Nat) (s : State) :
    viewRequested ⟨seg, t0, q, roll, a, b⟩ s
      (viewRequest (setView { s.view with seg := seg, t0 := t0, q := q, roll := roll, cursorA := a, cursorB := b } s)) := by
  unfold viewRequest
  split
  · rename_i he
    exact ⟨rfl, fun _ => ⟨rfl, rfl, rfl, rfl⟩, fun x => absurd he x, rfl, rfl, rfl, rfl, rfl, rfl, rfl, rfl, rfl, rfl, rfl,
      rfl, rfl, rfl, rfl⟩
  · rename_i he
    show viewRequested ⟨seg, t0, q, roll, a, b⟩ s (startPass (setView { s.view with
      seg := seg, t0 := t0, q := q, roll := roll, cursorA := a, cursorB := b
      pending := some ⟨seg, t0, q, roll, a, b⟩ } s))
    by_cases hb : (s.view.pass.isSome || s.view.measuring) = true
    · rw [startPass_waits ⟨seg, t0, q, roll, a, b⟩ _ ?_ ?_]
      rotate_left
      · rfl
      · exact hb
      refine ⟨rfl, fun x => absurd x he, fun _ => ⟨fun _ => ⟨rfl, rfl, rfl, rfl⟩, fun x y => ?_⟩, rfl, rfl, rfl, rfl, rfl, rfl, rfl,
        rfl, rfl, rfl, rfl, rfl, rfl, rfl, rfl⟩
      simp [x, y] at hb
    · rw [startPass_begins ⟨seg, t0, q, roll, a, b⟩ _ ?_ ?_]
      rotate_left
      · rfl
      · exact hb
      refine ⟨rfl, fun x => absurd x he, fun _ => ⟨fun x => absurd (by simpa using x) hb, fun _ _ => ⟨rfl, rfl, rfl, ?_⟩⟩, rfl,
        rfl, rfl, rfl, rfl, rfl, rfl, rfl, rfl, rfl, rfl, rfl, rfl, rfl, rfl⟩
      simp only [beginPass, beginColumn, setView, Snapshot.start, columnStart, Nat.zero_mul, Nat.zero_div, Nat.add_zero]
      rfl

/-- The changes counted after a record: those of the following records in [a, b) that differ from the one before (R159). -/
theorem changesAfter_counts (a b k : Nat) (p : Record) (rs : List Record) (d : Record) :
    changesAfter a b k p rs = ((List.range rs.length).filter fun j => decide (a ≤ ((p :: rs).getD (j + 1) d).time ∧
      ((p :: rs).getD (j + 1) d).time < b ∧
      ((p :: rs).getD (j + 1) d).levels.getLsbD k ≠ ((p :: rs).getD j d).levels.getLsbD k)).length := by
  induction rs generalizing p with
  | nil => rfl
  | cons r rs ih =>
    rw [changesAfter, ih r, List.length_cons, List.range_succ_eq_map, List.filter_cons, List.filter_map]
    by_cases h : a ≤ r.time ∧ r.time < b ∧ r.levels.getLsbD k ≠ p.levels.getLsbD k
    · rw [if_pos h, if_pos (by simpa using h)]
      simp [Function.comp_def, Nat.add_comm]
    · rw [if_neg h, if_neg (by simpa using h)]
      simp [Function.comp_def]

/-- The records of a list below a time, where the first `n` lie below it and the next one does not. -/
theorem takeWhile_time (rs : List Record) (a n : Nat) (hb : ∀ j (h : j < rs.length), j < n → (rs[j]).time < a)
    (ha : ∀ h : n < rs.length, a ≤ (rs[n]).time) : rs.takeWhile (fun r => decide (r.time < a)) = rs.take n := by
  induction rs generalizing n with
  | nil => simp
  | cons r rs ih =>
    cases n with
    | zero =>
      have := ha (Nat.zero_lt_succ _)
      rw [List.takeWhile_cons_of_neg (by simpa using this), List.take_zero]
    | succ n =>
      have := hb 0 (Nat.zero_lt_succ _) (Nat.zero_lt_succ _)
      rw [List.takeWhile_cons_of_pos (by simpa using this), List.take_succ_cons]
      congr 1
      exact ih n (fun j h hj => by simpa using hb (j + 1) (Nat.succ_lt_succ h) (Nat.succ_lt_succ hj))
        (fun h => by simpa using ha (Nat.succ_lt_succ h))

/-- L0 where record `n` is the last below `a`: its level (R159). -/
theorem levelBefore_last (rs : List Record) (a k n : Nat) (hn : n < rs.length)
    (hb : ∀ j (h : j < rs.length), j ≤ n → (rs[j]).time < a) (ha : ∀ h : n + 1 < rs.length, a ≤ (rs[n + 1]).time) :
    levelBefore rs a k = (rs[n]).levels.getLsbD k := by
  unfold levelBefore
  rw [takeWhile_time rs a (n + 1) (fun j h hj => hb j h (Nat.le_of_lt_succ hj)) ha, List.getLast?_eq_getElem?,
    List.length_take_of_le hn, Nat.succ_sub_one, List.getElem?_take_of_lt (Nat.lt_succ_self n),
    List.getElem?_eq_getElem hn]

/-- L0 where no record lies below `a`: the level of the oldest (R159). -/
theorem levelBefore_oldest (r : Record) (rs : List Record) (a k : Nat) (h : a ≤ r.time) :
    levelBefore (r :: rs) a k = r.levels.getLsbD k := by
  unfold levelBefore
  rw [List.takeWhile_cons_of_neg (by simpa using h)]
  rfl

/-- A measurement begins with the latest record below its from time, or with the oldest (R176). -/
theorem measureFirst_spec (s : State) (i f : Nat) : ∃ j, measureFirst s i f = (segAt s i).written - (segAt s i).retained + j ∧
    ((∀ x, x < (segAt s i).retained → f ≤ (recordAt s i x).time) → j = 0) ∧
    ((∀ x y, x < y → y < (segAt s i).retained → (recordAt s i x).time ≤ (recordAt s i y).time) →
      (∃ x, x < (segAt s i).retained ∧ (recordAt s i x).time < f) →
      j < (segAt s i).retained ∧ (recordAt s i j).time < f ∧
        ∀ x, j < x → x < (segAt s i).retained → f ≤ (recordAt s i x).time) := by
  obtain ⟨h1, h2, h3⟩ := indexAtOrAfter_spec s i f
  refine ⟨indexAtOrAfter s i f - 1, rfl, fun h => ?_, ?_⟩
  · by_contra hc
    have := h2 0 (by omega)
    have := h 0 (by omega)
    omega
  · rintro hs ⟨x, hx, hxt⟩
    have hpos : 0 < indexAtOrAfter s i f := by
      by_contra hc
      have h0 : indexAtOrAfter s i f = 0 := by omega
      rw [h0] at h3
      have := h3 (by omega)
      rcases Nat.eq_zero_or_pos x with h | h
      · subst h
        omega
      · have := hs 0 x h hx
        omega
    refine ⟨by omega, h2 _ (by omega), fun y hy hyr => ?_⟩
    have := h3 (by omega)
    rcases Nat.lt_or_eq_of_le (show indexAtOrAfter s i f ≤ y by omega) with h | h
    · have := hs _ y h hyr
      omega
    · rw [← h]
      exact this

end Sys2Proof.Machine
end

