-- ==== Sys2Proof/Tests/Slice0.lean ====
section
/-! SUPPORT. The model's own tests: ill-formed commands that `Instr.wf` refuses, the worked examples of the spec, and for each
statement with hypotheses a concrete state and operands that meet them (`witness_<statement>`). -/

namespace Sys2Proof.Tests

-- Each test is checked before the next begins: a hundred kernel evaluations at once would take more memory than they need.
set_option Elab.async false

open Sys2Proof Sys2Proof.Machine

/-! ## Ill-formed commands -/

theorem test_wf_setDeskew : (Instr.setDeskew 0 0 (List.replicate 1021 0)).wf = false := by decide +kernel
theorem test_wf_loadTrigger_empty : (Instr.loadTrigger 0 []).wf = false := by decide +kernel
theorem test_wf_loadTrigger_long : (Instr.loadTrigger 0 (List.replicate 1023 0)).wf = false := by decide +kernel
theorem test_wf_loadFrameTable_short : (Instr.loadFrameTable 0 0 (List.replicate 10 0)).wf = false := by decide +kernel
theorem test_wf_loadFrameTable_long : (Instr.loadFrameTable 0 0 (List.replicate 1022 0)).wf = false := by decide +kernel
theorem test_wf_setRowMap : (Instr.setRowMap 0 (List.replicate 1022 0)).wf = false := by decide +kernel
theorem test_wf_setPalette : (Instr.setPalette 0 0 (List.replicate 1021 0)).wf = false := by decide +kernel
theorem test_wf_overlay : (Instr.overlay 0 0 0 1 1 (List.replicate 1020 0)).wf = false := by decide +kernel
theorem test_wf_packetArrival : (Instr.packetArrival 2 [0, 0, 0]).wf = false := by decide +kernel
theorem test_wf_ok : (Instr.packetArrival 2 [0, 0]).wf = true ∧ (Instr.setDeskew 0 0 [1]).wf = true := by decide +kernel

/-! ## Worked examples of the spec -/

/-- A state run through steps that answer a next state. -/
def go (s : State) (is : List Instr) : State :=
  match is with
  | [] => s
  | i :: rest =>
    match exec i s with
    | .next t => go t rest
    | .fault _ => s
    | .refused _ => s

/-- Section 1.6.1: channel 5 with glitch width 3, deskewed levels from tick 200. -/
def glitchLevels : List Bool := [false, true, true, false, true, true, true, false, true, false, false, false]

/-- Output levels and flags of one channel over the ticks of a list of levels. -/
def qualifyRun (levels : List Bool) (out : Bool) (skip : Nat) : List (Bool × Bool) :=
  match levels with
  | [] => []
  | v :: rest =>
    let q := qualify (fun j => (v :: rest).getD j false) 3 out skip
    (q.level, q.glitch) :: qualifyRun rest q.level q.skip

theorem test_glitch_1_6_1 :
    (qualifyRun glitchLevels false 0).map (·.1) =
      [false, false, false, false, true, true, true, true, true, false, false, false] ∧
    (qualifyRun glitchLevels false 0).map (·.2) =
      [false, true, false, false, false, false, false, true, false, false, false, false] := by decide

/-- Section 1.4.1, frame F6: the third bad frame in a row. -/
theorem test_third_bad_frame_1_4_1 :
    let s := go (modLink 2 (fun k => { k with state := .up, badRun := 2, held := 0x53 }) State.reset) [.badSampleFrame 2]
    (s.pods.links[2]).state = .fault ∧ (s.pods.links[2]).due = List.replicate 16 ⟨0x53, false⟩ ∧
    s.events[blkPod].events = evFrameError 2 ||| evPodFault 2 ||| evPodDown 2 := by decide +kernel

/-- Section 2.7.1: the wall clock before the first count shown. -/
def clockExample (d : Direction) : State :=
  { State.reset with time := { Timebase.reset with
      seconds := 5000, subsecond := 32766, intervalCount := 327678, corrDir := d, corrAmount := 3, rollPeriod := 0 } }

/-- Seconds, subsecond, interval count and withheld counts after `n` reference counts. -/
def clockAfter (d : Direction) (n : Nat) : Word × Nat × Nat × Nat :=
  let t := (go (clockExample d) (List.replicate n .wallClockReferenceCount)).time
  (t.seconds, t.subsecond, t.intervalCount, t.withheld)

theorem test_clock_plus_2_7_1 :
    (List.range 4).map (clockAfter .plus) =
      [(5000, 32766, 327678, 0), (5000, 32767, 327679, 0), (5001, 3, 0, 0), (5001, 4, 1, 0)] := by decide +kernel

theorem test_clock_minus_2_7_1 :
    (List.range 6).map (clockAfter .minus) =
      [(5000, 32766, 327678, 0), (5000, 32767, 327679, 0), (5001, 0, 0, 3), (5001, 0, 1, 2), (5001, 0, 2, 1),
       (5001, 0, 3, 0)] := by decide +kernel

/-- Section 6.4.1: the sample offsets and the character time at P = 222,222. -/
theorem test_character_6_4_1 :
    let p : StartStop := ⟨0, true, 222222, 8, .none, .one, false⟩
    [0, 1, 2, 8, 9].map p.offset = [434, 1302, 2170, 7378, 8246] ∧ p.charTime = 8681 := by decide

theorem test_check_values_6_7_1 :
    let c := fun (k : CheckKind) => (⟨k, 7, 0, 0, false, false⟩ : Check)
    let after := fun (k : CheckKind) (bs : List Nat) => (c k).value (bs.foldl (c k).feed (c k).start)
    after .xor8 [0x3C, 0xA5, 0x10, 0x7E] = 0xF7 ∧ after .sum8 [0x3C, 0xA5, 0x10, 0x7E] = 0x91 ∧
    after .crc8 [0x3C] = 0xB4 := by decide +kernel

theorem test_columns_8_1_1 :
    (List.range 5).map (columnStart 1000 640) = [1000, 1002, 1005, 1007, 1010] ∧
    (List.range 4).map (columnStart 0 128) = [0, 0, 1, 1] := by decide

/-- Section 8.2.1: the records that carry channel 4. -/
def cellRecords : List Record :=
  [(200, 0, 0), (995, 0, 0), (1003, 1, 0), (1004, 0, 0), (1006, 0, 1), (1008, 1, 0), (50000, 1, 0)].map
    fun (t, v, g) => ⟨.change, 15, t, BitVec.ofNat 32 (16 * v), BitVec.ofNat 32 (16 * g)⟩

theorem test_trace_cells_8_2_1 :
    [traceCell cellRecords 1000 1002 4, traceCell cellRecords 1002 1005 4, traceCell cellRecords 1005 1007 4,
      traceCell cellRecords 1007 1010 4] =
    [.trace .low false 0 false, .trace .busy false 2 false, .trace .low false 0 true, .trace .rise true 1 false] := by
  decide +kernel

/-- Section 8.2.1: lane 2's log. -/
def cellLog : List FrameRecord :=
  [(FrameCode.good, 990, 1003), (.check, 1004, 1004), (.good, 1008, 1012)].map
    fun (c, a, b) => ⟨2, false, 0, c, a, b, 1, [], [], false, 0⟩

theorem test_decode_cells_8_2_1 :
    [decodeCell cellLog 1000 1002 2, decodeCell cellLog 1002 1005 2, decodeCell cellLog 1005 1007 2,
      decodeCell cellLog 1007 1010 2] =
    [.decode .good false false, .decode .multi true true, .decode .none false false, .decode .good false true] := by
  decide +kernel

/-- Section 8.4.1: the ZOOM about column 360 from T0 = 100,000. -/
theorem test_zoom_8_4_1 :
    let s := { State.reset with view := { View.reset with t0 := 100000, q := 640 } }
    (go s [.zoom 0 360 2560]).view.t0 = 97300 ∧ (go s [.zoom 0 360 2560]).view.q = 2560 := by decide +kernel

/-- Section 8.6.1: the measurement of channel 4 from 110 to 200. -/
theorem test_measure_8_6_1 :
    let rec_ := fun (t v : Nat) => (⟨.change, 15, t, BitVec.ofNat 32 (16 * v), 0⟩ : Record)
    let m : MeasureRun := ⟨0, 0, 4, 200, 0, none, 110, none, none, MeasureResult.zero⟩
    ((([rec_ 100 0, rec_ 120 1, rec_ 150 0, rec_ 155 1].foldl MeasureRun.take m).countTo 200).result) =
      ⟨2, 1, 75, 15, some (30, 30), some (5, 5), false⟩ := by decide +kernel

/-- Section 9.2.1: the row map with a cut-off. -/
theorem test_rows_9_2_1 :
    let rows := (List.range 14).map (fun k => RowEntry.mk (.channel k) 32) ++
      [⟨.lane 1, 20⟩, ⟨.channel 14, 32⟩, ⟨.blank, 8⟩, ⟨.channel 15, 24⟩]
    rowsAbove rows = 16 ∧ [15, 16, 17].map (rowTop rows) = [468, 500, 508] := by decide +kernel


/-- Section 2.4.1 at ticks 501 and 505: channel 12 rises, with channel 13 at 1 and at 0. -/
theorem test_state_sample_2_4_1 :
    let t : Timebase := { Timebase.reset with
      mode := .state, modeInForce := .state, clockChan := 12, clockEdge := .both, qMask := 0x2000, qValue := 0x2000 }
    evaluatedSample { t with last := ⟨0, 0, 0, false, 0x2000⟩ } ⟨0, 0, 0, false, 0x3000⟩ = true ∧
    evaluatedSample { t with last := ⟨0, 0, 0, false, 0⟩ } ⟨0, 0, 0, false, 0x1000⟩ = false := by decide +kernel

/-- The image of the table of section 5.8.1, its words laid out from section 11.3. -/
def registerWrites : List Word :=
  [0x00151402, 0, 0, 33, 100000, 0, 0, 0, 0, 0, 3,
   0x00000700, 0, 0, 0,
   0x02850101, 0x01000000, 1, 1,
   0x00330802, 0, 0, 0]

theorem test_frame_table_5_8_1 :
    parseTable registerWrites = .ok ⟨.twoWire ⟨20, 21, false⟩, 33, 100000, false, ⟨.none, 0, 0, 0, false, false⟩,
      [⟨0, 7, false, .address, .once, false, none⟩, ⟨1, 1, false, .other, .once, false, some ⟨1, 1, 1, 2⟩⟩,
       ⟨2, 8, false, .data, .toEnd, false, none⟩]⟩ ∧
    (go State.reset [.loadFrameTable 0 5 registerWrites]).uplink.slot.map (·.words) = some [3, 1, 0, 93, 11, 4] := by
  decide +kernel

/-- The watchdog program of section 4.5.1 as an image, its words laid out from section 11.3. -/
def watchdog : List Word :=
  [2] ++ List.replicate 24 0 ++ [1, 8] ++ List.replicate 14 0 ++ [0, 0] ++ [3, 3] ++ List.replicate 6 0 ++ [4, 1]
    ++ List.replicate 32 0 ++ [26, 0, 0x11, 2] ++ [18, 8, 0x2381, 0x101]

theorem test_program_4_5_1 :
    let t := (go State.reset [.loadTrigger 0 watchdog]).trigger
    t.stages = [⟨⟨[⟨.always, false⟩], false⟩, .stage 1, none, #v[.run, .keep, .keep, .keep], false, false, false⟩,
      ⟨⟨[⟨.counter 0, false⟩], false⟩, .trigger, some (⟨[⟨.edge 0, false⟩], false⟩, .stage 1),
        #v[.clear, .keep, .keep, .keep], true, false, false⟩] ∧
    t.counters[0].hold = true ∧ t.counters[0].source = .divX ∧ t.counters[0].active = 3 ∧ t.divX = ⟨4, 0⟩ ∧
    t.edges[0] = some ⟨8, .rising⟩ := by decide +kernel

/-- Section 11.1: the words of a RUN packet with tag 5, and of a STOP packet cut short. -/
theorem test_packet_words :
    judgePacket ⟨0x01050001, [12], false⟩ = .command (.run 5) ∧
    judgePacket ⟨0x01070001, [14], true⟩ = .discard .badLength ∧
    judgePacket ⟨0x01090001, [52], false⟩ = .discard .unknownCommand := by
  decide +kernel



/-! ## States that meet the hypotheses of the statements

Each witness names a statement and gives, clause by clause, states and operands that meet its hypotheses; `st` is the state
after reset. -/

/-- The state after power-on reset. -/
abbrev st : State := State.reset

/-- Pod A's link changed. -/
def pod (f : PodLink → PodLink) : State := modLink 0 f st

/-- The timebase changed. -/
def timed (f : Timebase → Timebase) : State := { st with time := f st.time }

/-- The capture store changed. -/
def stored (f : Capture → Capture) : State := { st with capture := f st.capture }

/-- The sequencer changed. -/
def sequenced (f : Trigger → Trigger) : State := { st with trigger := f st.trigger }

/-- Sampling in MONITOR at a tick. -/
def monitoring (fresh : Bool) (tick : Option Nat) : State :=
  { st with
    time := { st.time with sampling := true, fresh := fresh, tick := tick }
    capture := { st.capture with ctl := .monitor } }

/-- A segment in a state, its descriptor changed. -/
def segment (c : SegState) (f : Segment → Segment) : Segment := f { Segment.empty 1 with state := c }

/-- Segment 0 current at a tick, the sequencer RUNNING in a stage with no terms. -/
def capturing (d : Segment) (tick : Nat) : State :=
  { st with
    time := { st.time with sampling := true, tick := some tick }
    capture := { st.capture with ctl := .capturing 0, segs := [d] }
    trigger := { st.trigger with state := .running } }

/-- One closed segment with records from 10 to 20 and all channels enabled. -/
def closed : State :=
  stored fun c => { c with segs := [segment .stopped fun d => { d with
    retained := 3, written := 3, mask := 0xFFFFFFFF, oldest := some 10, newest := some 20, endTime := some 20 }] }

/-- A frame table over channels 0 and 1. -/
def table : FrameTable :=
  ⟨.twoWire ⟨0, 1, false⟩, 16, 100, false, ⟨.none, 0, 0, 0, false, false⟩, [⟨0, 8, false, .data, .once, false, none⟩]⟩

/-- Lane 2 with a table and in a state. -/
def laned (ln : Lane) : State :=
  { st with tables := ⟨Vector.set st.tables.slots 2 ⟨some table, table.charge⟩, ⟨95, 12, 4⟩⟩, lanes := st.lanes.set 2 ln }

/-- An open frame; its last complete unit, if any, ended at `e`. -/
def openedFrame (e : Option Nat) : PartialFrame := ⟨5, 0, 0, [], [], false, e, false, false, false, false, none, []⟩

/-- A lane with an open frame. -/
def framed (c : LaneState) (e : Option Nat) : Lane :=
  { Lane.reset with state := c, frame := some (openedFrame e), lastTick := 50 }

/-- A frame record of lane 2. -/
def frame (start : Nat) : FrameRecord := ⟨2, false, 0, .good, start, start + 3, 1, [], [], false, 0⟩

/-- A CHANGE record at a tick. -/
def change (t : Nat) : Record := ⟨.change, 15, t, 1, 0⟩

/-- Every lane is OFF where the lanes are those of reset. -/
theorem lanesOff_of (s : State) (h : s.lanes = st.lanes) : allLanesOff s := by
  have off : ∀ l : LaneId, (st.lanes[l]).state = .off := by decide +kernel
  intro l
  rw [h]
  exact off l

theorem witness_dispatch : canDispatch st = true ∧ canDispatch closed = true ∧ canDispatch (laned Lane.reset) = true := by
  decide +kernel

theorem witness_PodPresenceFollowed :
    (st.pods.links[(0 : Pod)]).state = .absent ∧
    ((pod fun k => { k with state := .up }).pods.links[(0 : Pod)]).state = .up ∧
    ((pod fun k => { k with state := .fault }).pods.links[(0 : Pod)]).state = .fault := by decide +kernel

/-- Runs 15, 14, 0 and one of another kind, at the word counts 1,022 and 1,023. -/
theorem witness_TrainingCountsAndLocks :
    (∀ run ∈ [15, 14, 0], ∀ words ∈ [1022, 1023],
      let k := ((pod fun k => { k with state := .training, lockRun := run, runKind := .standard, words := words }).pods.links[
        (0 : Pod)])
      k.state = .training ∧ k.lockRun = run ∧ k.words = words ∧ k.runKind = podKindOf .standard ∧
      k.runKind ≠ podKindOf .wide) := by decide +kernel

theorem witness_SampleFramesInUp :
    ∀ run ∈ [1, 2], let k := ((pod fun k => { k with state := .up, badRun := run }).pods.links[(0 : Pod)])
      k.state = .up ∧ k.wait = none ∧ k.badRun = run := by decide +kernel

theorem witness_AbsentAndFaultDiscardWords :
    (st.pods.links[(0 : Pod)]).state = .absent ∧
    ((pod fun k => { k with state := .fault }).pods.links[(0 : Pod)]).state = .fault := by decide +kernel

/-- A wait at 62 and at 63, with words that do and do not equal the shadow, and no wait. -/
theorem witness_AcknowledgeWaitOfTheShadow :
    ∀ w ∈ [some 62, some 63, none], let k := ((pod fun k => { k with state := .up, wait := w }).pods.links[(0 : Pod)])
      k.state = .up ∧ k.wait = w ∧ k.code = 156 ∧ k.hyst = 1 ∧ k.code ≠ 155 ∧ k.hyst ≠ 2 := by decide +kernel

/-- Pod 3 with step 3 is taken; pod 4, and step 4, are not. -/
theorem witness_SetPodStoresTheShadow :
    canDispatch st = true ∧ (3 : Word).toNat = (3 : Pod).val ∧ (3 : Word).toNat ≤ 3 ∧ 3 < (4 : Word).toNat ∧
    (st.pods.links[(3 : Pod)]).state ≠ .up ∧
    ((modLink 3 (fun k => { k with state := .up }) st).pods.links[(3 : Pod)]).state = .up := by decide +kernel

theorem witness_RetrainFromUpOrFault :
    3 < (4 : Word).toNat ∧ (0 : Word).toNat = (0 : Pod).val ∧ (st.pods.links[(0 : Pod)]).state = .absent ∧
    (∀ c ∈ [LinkState.training, .up, .fault], canDispatch (pod fun k => { k with state := c }) = true ∧
      ((pod fun k => { k with state := c }).pods.links[(0 : Pod)]).state = c) := by decide +kernel

/-- Two values from channel 30 fill the list; from channel 31 they pass it. -/
theorem witness_DeskewAndGlitchSettings :
    st.pods.deskew.length = 32 ∧ st.time.sampling = false ∧ canDispatch (monitoring true none) = true ∧
    (monitoring true none).time.sampling = true ∧ (30 : Word).toNat + [1, (2 : Word)].length ≤ 32 ∧
    32 < (31 : Word).toNat + [1, (2 : Word)].length ∧ 31 < (32 : Word).toNat ∧ 3 < (4 : Word).toNat ∧
    (3 : Word).toNat = (3 : Pod).val := by decide +kernel

/-- The levels of section 1.6.1 at tick 201 (returns after 2), at tick 204 (after 3) and at tick 200 (no difference). -/
theorem witness_GlitchQualificationOfAChannel :
    let look := fun (n j : Nat) => glitchLevels.getD (n + j) false
    (look 1 0 ≠ false ∧ 2 < 3 ∧ look 1 2 = false ∧ ∀ i, i < 2 → look 1 i ≠ false) ∧
    (look 4 0 ≠ false ∧ ∀ j, j < 3 → look 4 j ≠ false) ∧ look 0 0 = false := by decide

theorem witness_PodStatusReportsAndClears :
    canDispatch st = true ∧ 3 < (4 : Word).toNat ∧ (3 : Word).toNat = (3 : Pod).val := by decide +kernel

/-- A pod with no tick due, one with a tick due, and state mode. -/
theorem witness_EveryTickDeliversOneEntryPerPod :
    (st.pods.links[(0 : Pod)]).due = [] ∧
    ((pod fun k => { k with due := [⟨1, true⟩] }).pods.links[(0 : Pod)]).due = ⟨1, true⟩ :: [] ∧
    (timed fun t => { t with modeInForce := .state }).time.modeInForce = .state := by decide +kernel

theorem witness_SamplesAreNotStampedWhileStopped :
    st.time.sampling = false ∧ st.capture.ctl = .idle ∧ allLanesOff st := by
  refine ⟨rfl, rfl, ?_⟩
  unfold allLanesOff
  decide +kernel

/-- The first sample, and the one that takes the counter to 2^48 - 1. -/
theorem witness_MonitorStampsEveryTick :
    ∀ f ∈ [true, false], ∀ n ∈ [0, 281474976710654],
      let s := monitoring f (some n)
      s.capture.ctl = .monitor ∧ s.time.sampling = true ∧ allLanesOff s ∧ s.trigger.state = .idle ∧ s.time.fresh = f ∧
      s.time.tick = some n ∧ n < 281474976710655 ∧ s.time.modeInForce = .timing := by
  unfold allLanesOff
  decide +kernel

theorem witness_StateSampleOnAQualifiedClockEdge :
    st.time.modeInForce = .timing ∧ (timed fun t => { t with modeInForce := .state }).time.modeInForce = .state := by
  decide +kernel

theorem witness_TimeLimitStopsSampling :
    (let s := monitoring false (some 281474976710655)
     allLanesOff s ∧ s.time.sampling = true ∧ s.time.fresh = false ∧ s.time.tick = some 281474976710655 ∧
     s.capture.ctl = .monitor) ∧
    (let s := capturing (segment .filling id) 281474976710655
     allLanesOff s ∧ s.time.sampling = true ∧ s.time.fresh = false ∧ s.time.tick = some 281474976710655 ∧
     s.capture.ctl = .capturing 0 ∧ 0 < s.capture.segs.length ∧ (segAt s 0).overrun = none) ∧
    (monitoring false (some 281474976710654)).time.tick ≠ some 281474976710655 := by
  unfold allLanesOff
  decide +kernel

/-- Inside an interval with counts withheld and at both sides of the carry; at its end in each direction, and PLUS at both
sides of the carry. -/
theorem witness_ReferenceCountAdvancesTheWallClock :
    (∀ sub ∈ [32766, 32767], ∀ w ∈ [0, 1],
      let s := timed fun t => { t with subsecond := sub, withheld := w, intervalCount := 327678, corrAmount := 63 }
      s.time.subsecond = sub ∧ sub < 32768 ∧ s.time.corrAmount ≤ 63 ∧ s.trigger.state ≠ .waitArm ∧ s.view.roll = false ∧
      s.time.withheld = w ∧ s.time.intervalCount + 1 < (if s.time.corrLong then 1966080 else 327680)) ∧
    (∀ d ∈ [Direction.plus, .minus, .none], ∀ sub ∈ [32703, 32704],
      let s := timed fun t => { t with subsecond := sub, intervalCount := 327679, corrAmount := 63, corrDir := d }
      s.time.corrDir = d ∧ s.time.subsecond < 32767 ∧ s.time.withheld = 0 ∧
      s.time.intervalCount + 1 = (if s.time.corrLong then 1966080 else 327680) ∧
      (32768 ≤ s.time.subsecond + 1 + s.time.corrAmount ↔ sub = 32704)) := by decide +kernel

/-- The end of an interval; the carry; a count that does and one that does not reach a multiple of 8,192. -/
theorem witness_ClockRowsAreTheirReferenceCount :
    (timed fun t => { t with intervalCount := 327679 }).time.intervalCount + 1 = 327680 ∧
    (∀ sub ∈ [32767, 8191, 8190],
      let t := (timed fun t => { t with intervalCount := 327678, subsecond := sub }).time
      t.intervalCount + 1 < (if t.corrLong then 1966080 else 327680) ∧ t.withheld = 0 ∧ t.subsecond = sub ∧
      ((t.subsecond + 1) % (2048 * 2 ^ t.rollPeriod) = 0 ↔ sub ≠ 8190)) := by decide +kernel

theorem witness_WallClockCommands :
    canDispatch st = true ∧ st.trigger.state ≠ .waitArm ∧ (1 : Word) = Direction.minus.code ∧ (1 : Word).toNat ≤ 1 ∧
    2 < (3 : Word).toNat ∧ 1 < (2 : Word).toNat ∧ 4 < (5 : Word).toNat ∧ (4 : Word).toNat ≤ 4 := by decide +kernel

/-- Refused for each cause, and taken in STATE with every lane OFF. -/
theorem witness_SetTimebaseJudgedInOrder :
    canDispatch st = true ∧ st.time.sampling = false ∧ canDispatch (monitoring true none) = true ∧
    (monitoring true none).time.sampling = true ∧ 1 < (2 : Word).toNat ∧ 2 < (3 : Word).toNat ∧ 31 < (32 : Word).toNat ∧
    (1 : Word) = Mode.state.code ∧ (2 : Word) = Edge.both.code ∧ (31 : Word).toNat ≤ 31 ∧
    (∀ l : LaneId, (st.lanes[l]).state = .off ∨ (st.lanes[l]).isReplay = true) ∧
    (let s := laned { Lane.reset with state := .hunt }
     canDispatch s = true ∧ s.time.sampling = false ∧ ∃ l : LaneId, (s.lanes[l]).state ≠ .off ∧ (s.lanes[l]).isReplay = false) :=
  by decide +kernel



/-- 256 segments of 65,536 slots with a sum at the size and one above it, and 3 segments. -/
theorem witness_SetCaptureJudgedInOrder :
    canDispatch st = true ∧ st.capture.ctl = .idle ∧ (monitoring true none).capture.ctl ≠ .idle ∧
    (256 : Word).toNat ∈ [1, 2, 4, 8, 16, 32, 64, 128, 256] ∧ (3 : Word).toNat ∉ [1, 2, 4, 8, 16, 32, 64, 128, 256] ∧
    (0 : Word).toNat + (65535 : Word).toNat + 1 ≤ 16777216 / (256 : Word).toNat ∧
    16777216 / (256 : Word).toNat < (1 : Word).toNat + (65535 : Word).toNat + 1 ∧ 1 < (2 : Word).toNat := by
  decide +kernel

/-- Refused for each cause; taken with the arm time above, at and without the seconds. -/
theorem witness_RunStartsACapture :
    (monitoring true none).capture.ctl ≠ .idle ∧
    (let s := laned { Lane.reset with state := .hunt, isReplay := true }
     canDispatch s = true ∧ s.capture.ctl = .idle ∧ ∃ l : LaneId, (s.lanes[l]).state ≠ .off ∧ (s.lanes[l]).isReplay = true) ∧
    (stored fun c => { c with readout := some ⟨0, 0, 0, 1, 0, [], false⟩ }).capture.readout.isSome ∧
    allLanesOff st ∧ st.capture.readout = none ∧ st.rpath.readout = none ∧ 0 < st.capture.stored.count ∧
    (sequenced fun t => { t with armTime := some 1 }).trigger.armTime = some 1 ∧ st.time.seconds < 1 ∧
    st.trigger.armTime = none ∧ (sequenced fun t => { t with armTime := some 0 }).trigger.armTime = some 0 ∧
    0 ≤ st.time.seconds := by
  unfold allLanesOff
  decide +kernel

theorem witness_MonitorAndStop :
    allLanesOff st ∧ st.capture.ctl = .idle ∧ st.time.sampling = false ∧
    (let s := monitoring false (some 281474976710654)
     canDispatch s = true ∧ allLanesOff s ∧ s.capture.ctl = .monitor ∧ s.time.tick ≠ some 281474976710655) ∧
    (let s := capturing (segment .filling id) 281474976710654
     canDispatch s = true ∧ allLanesOff s ∧ s.capture.ctl = .capturing 0 ∧ 0 < s.capture.segs.length ∧
     (segAt s 0).overrun = none ∧ s.time.fresh = false ∧ s.time.tick = some 281474976710654) := by
  unfold allLanesOff
  decide +kernel

/-- The sample of a tick on which every pod delivers held levels of 0. -/
theorem quiet_sample : streamSample .timing (deliverTick false st.pods) = Sample.zero := by
  decide +kernel

/-- A segment with a reference, filling. -/
def referenced (ref lv : Nat) : Segment :=
  segment .filling fun d =>
    { d with mask := 0xFFFFFFFF, refPods := BitVec.ofNat 4 ref, refLevels := BitVec.ofNat 32 lv }

/-- A capture of `referenced`, with or without its START record still to be produced. -/
def recording (need : Bool) (ref lv : Nat) : State :=
  { capturing (referenced ref lv) 7 with capture := { (capturing (referenced ref lv) 7).capture with needStart := need } }

theorem recording_quiet (need : Bool) (ref lv : Nat) :
    streamSample .timing (deliverTick false (recording need ref lv).pods) = Sample.zero ∧
    allLanesOff (recording need ref lv) :=
  ⟨quiet_sample, lanesOff_of _ rfl⟩

/-- A segment whose reference has no pod valid and levels 0, and others; sample and lanes are those of `recording_quiet`. -/
theorem witness_RecordsOfASample :
    ∀ need ∈ [true, false], ∀ ref ∈ [0, 1], ∀ lv ∈ [0, 1],
      (recording need ref lv).time.sampling = true ∧ (recording need ref lv).time.fresh = false ∧
      (recording need ref lv).time.tick = some 7 ∧ (recording need ref lv).time.modeInForce = .timing ∧
      (recording need ref lv).capture.ctl = .capturing 0 ∧ 0 < (recording need ref lv).capture.segs.length ∧
      segAt (recording need ref lv) 0 = referenced ref lv ∧ (referenced ref lv).state = .filling ∧
      (referenced ref lv).mode = .timing ∧ (referenced ref lv).overrun = none ∧
      (recording need ref lv).capture.queue.length < 4096 ∧ (recording need ref lv).trigger.state = .running ∧
      (recording need ref lv).trigger.force = false ∧
      ((recording need ref lv).trigger.stages.getD (recording need ref lv).trigger.stage Stage.cleared) = Stage.cleared ∧
      Stage.cleared.advance.terms = [] ∧ Stage.cleared.alternate = none ∧
      (recording need ref lv).capture.needStart = need ∧ (Sample.zero.valid = (referenced ref lv).refPods ↔ ref = 0) ∧
      (Sample.zero.levels &&& (referenced ref lv).mask = (referenced ref lv).refLevels ↔ lv = 0) ∧
      Sample.zero.glitch &&& (referenced ref lv).mask = 0 := by
  decide +kernel

/-- A full queue, one with one free slot and one with two, with and without an overrun pending. -/
theorem witness_LossAndOverrunOfRecords :
    (∀ o ∈ [none, some ⟨3, 1⟩], ∀ n ∈ [4096, 4095, 4094],
      let s := stored fun c => { c with
        segs := [segment .filling fun d => { d with overrun := o }], queue := List.replicate n ⟨0, change 1, false⟩ }
      0 < s.capture.segs.length ∧ (segAt s 0).overrun = o ∧ s.capture.queue.length = n) ∧
    4096 ≤ 4096 ∧ 4096 < 4095 + 2 ∧ 4094 + 2 ≤ 4096 := by decide +kernel

/-- The last segment of one, the first of two with auto-continue, and a count below the postfill. -/
theorem witness_PostFillCompletionClosesAndContinues :
    (∀ segs ∈ [[segment .postFill id], [segment .postFill id, Segment.empty 2]],
      let s0 := capturing (segment .postFill id) 9
      let s := { s0 with capture := { s0.capture with
        segs := segs, layout := segs.length, inForce := { s0.capture.inForce with postfill := 0, auto := true } } }
      allLanesOff s ∧ s.capture.ctl = .capturing 0 ∧ 0 < s.capture.segs.length ∧ (segAt s 0).overrun = none ∧
      s.time.fresh = false ∧ s.time.tick = some 9 ∧ (segAt s 0).state = .postFill ∧
      s.capture.inForce.postfill ≤ (segAt s 0).postCount ∧ s.capture.inForce.auto = true ∧
      (0 + 1 < s.capture.layout ↔ segs.length = 2) ∧ (s.capture.layout ≤ 0 + 1 ↔ segs.length = 1)) ∧
    (let s := capturing (segment .postFill id) 9
     (segAt s 0).state = .postFill ∧ (segAt s 0).postCount < s.capture.inForce.postfill) := by
  unfold allLanesOff
  decide +kernel

/-- A ring of two slots with one record, and full with two. -/
theorem witness_RingWriteKeepsTheOtherSlots :
    ∀ n ∈ [1, 2],
      let s := stored fun c => { c with
        segs := [segment .filling fun d => { d with size := 2, retained := n, written := n, oldest := some 1 }]
        queue := [⟨0, change 5, false⟩] }
      s.capture.queue = ⟨0, change 5, false⟩ :: [] ∧ (change 5).kind ≠ .close ∧
      Mem.wf Record.blank s.capture.dram = true ∧ 0 < s.capture.segs.length ∧ postFillDue s = false ∧
      s.capture.rotation = .lane 5 ∧ 0 * (segAt s 0).size + (segAt s 0).written % (segAt s 0).size < 16777216 ∧
      ((segAt s 0).retained < (segAt s 0).size ↔ n = 1) ∧ ((segAt s 0).retained = (segAt s 0).size ↔ n = 2) ∧
      1 < (segAt s 0).size ∧ (n = 2 → (segAt s 0).size ≤ (segAt s 0).written) := by decide +kernel

/-- The last record of a capture with and without a trigger, and an END record with another segment filling. -/
theorem witness_SegmentClosesAtItsEndRecord :
    ∀ trig ∈ [none, some ⟨1, .force, 0, Vector.replicate 4 0⟩], ∀ c ∈ [CaptureState.closing, .capturing 0],
      let s := stored fun k => { k with
        ctl := c, segs := [segment .closing fun d => { d with trigger := trig }]
        queue := [⟨0, ⟨.close, 0, 9, 0, 0⟩, false⟩] }
      s.capture.queue = ⟨0, ⟨.close, 0, 9, 0, 0⟩, false⟩ :: [] ∧ 0 < s.capture.segs.length ∧ postFillDue s = false ∧
      s.capture.rotation = .lane 5 ∧ ringSlot 0 (segAt s 0) (segAt s 0).written < 16777216 ∧ s.capture.ctl = c ∧
      (segAt s 0).trigger = trig := by decide +kernel

/-- No requester; a record readout alone; 1,023 and 1,024 records waiting. -/
theorem witness_ArbiterRotatesAmongTheWaiting :
    (postFillDue st = false ∧ ∀ r : Requester, requesterWaits st r = false) ∧
    (let s := { closed with capture := { closed.capture with readout := some ⟨0, 0, 0, 1, 0, [], false⟩ } }
     postFillDue s = false ∧ s.capture.queue.length < 1024 ∧ requesterWaits s .readout = true ∧
     ∀ r : Requester, requesterWaits s r = true → (Requester.readout.code + 8 - s.capture.rotation.code) % 9 ≤
       (r.code + 8 - s.capture.rotation.code) % 9) ∧
    (∀ n ∈ [1023, 1024], (stored fun c => { c with queue := List.replicate n ⟨0, change 1, false⟩ }).capture.queue.length = n) := by
  have lanesOff : ∀ l : LaneId, (Vector.replicate 6 Lane.reset)[l].replays = false := by decide +kernel
  refine ⟨⟨by decide +kernel, ?_⟩, ⟨by decide +kernel, by decide +kernel, by decide +kernel, ?_⟩, by decide +kernel⟩
  · intro r
    cases r with
    | lane l => exact lanesOff l
    | writer => decide +kernel
    | readout => decide +kernel
    | view => decide +kernel
  · intro r h
    cases r with
    | lane l => exact absurd ((lanesOff l).symm.trans h) (by decide)
    | writer => revert h; decide +kernel
    | readout => decide +kernel
    | view => revert h; decide +kernel

theorem witness_RecordReadoutLifecycle :
    st.capture.layout ≤ (1 : Word).toNat ∧ (0 : Word).toNat < closed.capture.layout ∧ closed.capture.readout = none ∧
    (segAt closed (0 : Word).toNat).state = .stopped ∧ (segAt st (0 : Word).toNat).state ≠ .done ∧
    (segAt st (0 : Word).toNat).state ≠ .stopped ∧
    (∀ n ∈ [1, 254], let s := { closed with capture := { closed.capture with
        rotation := .writer, readout := some ⟨0, 0, 0, n, 0, List.replicate n (change 1), false⟩ } }
      s.capture.readout = some ⟨0, 0, 0, n, 0, List.replicate n (change 1), false⟩ ∧ s.rpath.readout = none ∧ 0 < n ∧
      (List.replicate n (change 1)).length < 255 ∧ s.capture.queue = [] ∧ s.rpath.logQueue = [] ∧
      s.capture.rotation = .writer ∧ postFillDue s = false) := by decide +kernel

/-- A length that disagrees, stage counts 0 and 9 of the right length, and an image of one and of eight stages. -/
theorem witness_LoadTriggerJudgedInOrder :
    canDispatch st = true ∧ st.trigger.state = .idle ∧ (capturing (segment .filling id) 0).trigger.state ≠ .idle ∧
    [(1 : Word)].length ≠ 85 + 4 * ([(1 : Word)].headD 0).toNat ∧
    (List.replicate 85 (0 : Word)).length = 85 + 4 * ((List.replicate 85 (0 : Word)).headD 0).toNat ∧
    ((9 : Word) :: List.replicate 120 0).length = 85 + 4 * (((9 : Word) :: List.replicate 120 0).headD 0).toNat ∧
    8 < (9 : Word).toNat ∧ 1 ≤ 1 ∧ 8 ≤ 8 := by decide +kernel

theorem witness_SequencerCommands :
    (∀ c ∈ [SeqState.idle, .waitArm, .running, .triggered],
      let s := sequenced fun t => { t with state := c, armTime := some 7 }
      canDispatch s = true ∧ s.trigger.state = c ∧ s.trigger.armTime = some 7) ∧
    3 < (4 : Word).toNat ∧ (3 : Word).toNat = (3 : CounterId).val ∧ (6 : Word).toNat < (7 : Word).toNat ∧
    (7 : Word).toNat ≤ (7 : Word).toNat := by decide +kernel

theorem witness_SetCounterWritesAndSuppresses :
    canDispatch st = true ∧ 3 < (4 : Word).toNat ∧ (3 : Word).toNat = (3 : CounterId).val := by decide +kernel

theorem witness_CountersAndDividersRepeat :
    (let k : Counter := ⟨0, true, false, .divX, 1, 1, false, false, false⟩
     k.value = 0 ∧ k.suppress = false ∧ k.hold = false ∧ 0 < k.active.toNat ∧
     let s := sequenced fun t => { t with state := .running, counters := t.counters.set 2 k }
     s.trigger.state = .running ∧ (s.trigger.counters[(2 : CounterId)]).matchDue = true ∧
     (s.trigger.counters[(1 : CounterId)]).matchDue = false ∧ s.trigger.divX.ratio ≤ s.trigger.divX.phase + 1 ∧
     s.trigger.divY.ratio ≤ s.trigger.divY.phase + 1) ∧
    st.trigger.divX.phase = 0 ∧ 0 < st.trigger.divX.ratio ∧ st.trigger.state ≠ .running := by decide +kernel

/-- Force pending in RUNNING and WAIT_ARM; ALWAYS to TRIGGER with prefill hold off, met exactly and one short, with and without
an alternate. -/
theorem witness_SequencerTakesTheTrigger :
    (∀ c ∈ [SeqState.running, .waitArm],
      let s0 := capturing (segment .filling id) 3
      let s := { s0 with trigger := { s0.trigger with state := c, force := true } }
      s.capture.ctl = .capturing 0 ∧ 0 < s.capture.segs.length ∧ s.trigger.force = true ∧ s.trigger.state = c) ∧
    (∀ alt ∈ [none, some (⟨[⟨.always, false⟩], false⟩, Target.stage 1)], ∀ hold ∈ [false, true], ∀ n ∈ [4, 5],
      let s0 := capturing (segment .filling fun d => { d with written := n }) 3
      let s := { s0 with
        trigger := { s0.trigger with
          stages := [⟨⟨[⟨.always, false⟩], false⟩, .trigger, alt, Vector.replicate 4 .keep, false, false, false⟩,
            Stage.cleared] }
        capture := { s0.capture with inForce := { s0.capture.inForce with hold := hold, prefill := 5 } } }
      let e := s.trigger.stages.getD s.trigger.stage Stage.cleared
      s.trigger.state = .running ∧ s.trigger.force = false ∧ e.advance.terms = [⟨.always, false⟩] ∧
      e.advanceTo = .trigger ∧ e.alternate = alt ∧ s.capture.inForce.hold = hold ∧
      ((segAt s 0).written < s.capture.inForce.prefill ↔ n = 4)) := by decide +kernel

/-- A comparator on lane 2, at first with an empty latch and then with one held, one on lane 3, and one undefined. -/
theorem witness_FieldComparatorsLatchTheEarliest :
    (let t := { st.trigger with
        state := .running
        comps := #v[some ⟨2, none, none, none, none, none⟩, some ⟨3, none, none, none, none, none⟩, none,
          some ⟨2, some 1, none, none, none, none⟩]
        latches := #v[some 4, none, none, none] }
     t.state = .running ∧ (frame 9).isReplay = false ∧
     t.comps[(0 : Fin 4)] = some ⟨2, none, none, none, none, none⟩ ∧ (2 : LaneId) = (frame 9).lane ∧
     Comparator.accepts ⟨2, none, none, none, none, none⟩ (frame 9) none = true ∧
     t.comps[(1 : Fin 4)] = some ⟨3, none, none, none, none, none⟩ ∧ (3 : LaneId) ≠ (frame 9).lane ∧
     t.comps[(2 : Fin 4)] = none ∧ t.comps[(3 : Fin 4)] = some ⟨2, some 1, none, none, none, none⟩ ∧
     Comparator.accepts ⟨2, some 1, none, none, none, none⟩ (frame 9) none = false ∧
     (t.counters[(0 : Fin 4)]).running = false ∧
     ∀ f : Fin 4, (t.counters[(0 : Fin 4)]).source ≠ .term (.field f)) ∧
    st.trigger.state ≠ .running := by decide +kernel



/-- A slot that is EMPTY, one that is LOADED, a lane not OFF, an image whose length disagrees, a table that breaks a rule, and
one that does and does not fit in the pool. -/
theorem witness_FrameTableCommandsJudgedInOrder :
    canDispatch st = true ∧ 5 < (6 : Word).toNat ∧ (2 : Word).toNat = (2 : LaneId).val ∧
    (st.tables.slots[(2 : LaneId)]).table = none ∧
    (let s := laned { Lane.reset with state := .hunt }
     canDispatch s = true ∧ (s.lanes[(2 : LaneId)]).state ≠ .off) ∧
    (let s := laned Lane.reset
     (s.lanes[(2 : LaneId)]).state = .off ∧ (s.tables.slots[(2 : LaneId)]).table.isSome) ∧
    [(0 : Word)].length ≠ 11 + 4 * ([(0 : Word)].getD 10 0).toNat ∧
    registerWrites.length = 11 + 4 * (registerWrites.getD 10 0).toNat ∧
    (∀ n ∈ [2, 3], let av := (⟨n, 1, 0⟩ : Charge)
      let s := { st with tables := { st.tables with free := av } }
      av = s.tables.free.add (s.tables.slots[(2 : LaneId)]).charge ∧ (av.entries < 3 ↔ n = 2) ∧ 1 ≤ av.branches ∧
      0 ≤ av.checks) := by decide +kernel

/-- A table that breaks a rule (a units limit of 0), and a charge of 3, 1, 0. -/
theorem witness_tables_judged :
    (match parseTable (registerWrites.set 3 0) with
      | .ok _ => false
      | .error _ => true) = true ∧
    (match parseTable registerWrites with
      | .ok t => decide (t.charge = ⟨3, 1, 0⟩)
      | .error _ => false) = true := by decide +kernel

theorem witness_CheckValuesClose :
    (∀ b ∈ [0, 255], b < 256) ∧
    (∀ k ∈ [CheckKind.sum8, .xor8, .crc8, .crc16], let c : Check := ⟨k, 255, 255, 0, false, false⟩
      c.kind = k ∧ c.poly < 256 ∧ c.init < 256 ∧ c.xorOut = 0 ∧ c.reflectIn = false ∧ c.reflectOut = false) := by
  decide +kernel

theorem witness_LaneStartJudgedInOrder :
    5 < (6 : Word).toNat ∧ (2 : Word).toNat = (2 : LaneId).val ∧
    (st.tables.slots[(2 : LaneId)]).table = none ∧
    (let s := laned Lane.reset
     canDispatch s = true ∧ (s.lanes[(2 : LaneId)]).state = .off ∧ (s.tables.slots[(2 : LaneId)]).table.isSome ∧
     s.time.mode = .timing) := by decide +kernel

/-- Lane 2 in each state with no gap run out; an open frame with no complete unit and with one, replaying and streamed. -/
theorem witness_LaneStopByState :
    (∀ c ∈ [LaneState.off, .hunt], let s := laned { Lane.reset with state := c }
      canDispatch s = true ∧ (s.lanes[(2 : LaneId)]).state = c ∧ gapDue table s.lanes[(2 : LaneId)] = false) ∧
    (∀ c ∈ [LaneState.inFrame, .draining], let s := laned (framed c none)
      canDispatch s = true ∧ (s.lanes[(2 : LaneId)]).state = c ∧ gapDue table s.lanes[(2 : LaneId)] = false ∧
      (s.tables.slots[(2 : LaneId)]).table = some table ∧ (s.lanes[(2 : LaneId)]).frame = some (openedFrame none) ∧
      (openedFrame none).lastEnd = none ∧ (s.lanes[(2 : LaneId)]).errors < 3) ∧
    (∀ n ∈ [0, 511],
      let ln := { framed .inFrame (some 9) with isReplay := true, replay := some ⟨0, 5, 60, false, 0, 0, none⟩ }
      let s0 := laned ln
      let s := { s0 with rpath := { s0.rpath with mask := 4, stream := List.replicate n (frame 0) } }
      canDispatch s = true ∧ s.lanes[(2 : LaneId)] = ln ∧ (s.tables.slots[(2 : LaneId)]).table = some table ∧
      gapDue table ln = false ∧ ln.frame = some (openedFrame (some 9)) ∧ ln.errors < 2 ∧
      s.rpath.mask.getLsbD (2 : LaneId) = true ∧ s.rpath.stream.length < 512) := by decide +kernel

/-- A frame with each mark, the error counts 0 and 2, DRAINING, and a gap run out over a START-STOP table. -/
theorem witness_FrameEndJudgesAndHandsOver :
    (∀ c ∈ [LaneState.inFrame, .draining], ∀ n ∈ [0, 2],
      let ln := { framed c (some 9) with errors := n }
      ln.frame = some (openedFrame (some 9)) ∧ ln.errors < 3 ∧ ln.state = c ∧ ln.front.unitBits = [] ∧ ln.gatherer = []) ∧
    (let f := openedFrame none
     f.framing = false ∧ f.timeout = false ∧ f.checkFailed = false ∧ f.long = false ∧ { f with framing := true }.framing = true ∧
     { f with timeout := true }.timeout = true ∧ { f with checkFailed := true }.checkFailed = true) ∧
    (let t := { table with front := .startStop ⟨0, true, 1024, 8, .none, .one, false⟩, gap := 41 }
     let ln := framed .inFrame (some 9)
     gapDue t ln = true ∧ gapDue { t with gap := 42 } ln = false ∧ ln.isReplay = false ∧ ln.replay = none ∧ ln.lastTick = 50 ∧
     gapTimesOut t ln = false ∧ ln.state ≠ .off ∧ ln.state ≠ .draining) ∧
    (monitoring false none).trigger.state ≠ .running ∧ (monitoring false none).rpath.mask.getLsbD (2 : LaneId) = false ∧
    (monitoring false none).capture.ctl = .monitor := by decide +kernel

/-- Segment 0 closed from 10 to 20 and lane 2 OFF with a table; a range of one tick, and an empty one. -/
theorem witness_LaneReplayJudgedInOrder :
    5 < (6 : Word).toNat ∧ closed.capture.layout ≤ (1 : Word).toNat ∧ (0 : Word).toNat < closed.capture.layout ∧
    (let s := { closed with tables := (laned Lane.reset).tables }
     let d := segAt s 0
     canDispatch s = true ∧ (s.lanes[(2 : LaneId)]).state = .off ∧ (s.tables.slots[(2 : LaneId)]).table = some table ∧
     d.state = .stopped ∧ d.oldest = some 10 ∧ d.endTime = some 20 ∧ table.channelMask &&& ~~~d.mask = 0 ∧
     table.channelMask &&& ~~~(2 : Word) ≠ 0 ∧ table.front.code ≠ 0 ∧ d.mode = .timing ∧
     max (20 : DWord).toNat 10 ≤ min (30 : DWord).toNat 20 ∧ min (30 : DWord).toNat 20 < max (21 : DWord).toNat 10 ∧
     0 < s.rpath.logs.length) ∧
    (st.tables.slots[(2 : LaneId)]).table = none ∧ (segAt st 0).state ≠ .done ∧ (segAt st 0).state ≠ .stopped := by
  decide +kernel

theorem witness_StreamAndFrameReadoutCommands :
    63 < (64 : Word).toNat ∧ (63 : Word).toNat ≤ 63 ∧ closed.capture.layout ≤ (1 : Word).toNat ∧ canDispatch closed = true ∧
    (0 : Word).toNat < closed.capture.layout ∧ closed.rpath.readout = none ∧ (segAt closed 0).state = .stopped ∧
    (segAt st 0).state ≠ .done ∧ (segAt st 0).state ≠ .stopped ∧
    ({ st.rpath with readout := some ⟨0, 0, 4, 0, none, 0, 0, [], false, false⟩ } : RecordPath).readout.isSome := by
  decide +kernel

/-- A start tick one below and at the oldest time; the log write queue and the stream one below full and full; and a head
entry for a log. -/
theorem witness_CompletedFramesReachLogAndStream :
    (∀ n ∈ [63, 64], ∀ k ∈ [511, 512], ∀ m ∈ [0, 4],
      let s := { closed with rpath := { closed.rpath with
        logQueue := List.replicate n (0, frame 1), stream := List.replicate k (frame 1), mask := BitVec.ofNat 6 m } }
      s.trigger.state ≠ .running ∧ 0 < s.capture.segs.length ∧ s.rpath.logQueue.length = n ∧
      s.rpath.stream.length = k ∧ (s.rpath.mask.getLsbD (frame 1).lane = true ↔ m = 4)) ∧
    (frame 9).start < (segAt closed 0).oldest.getD (segAt closed 0).startTime ∧
    (segAt closed 0).oldest.getD (segAt closed 0).startTime ≤ (frame 10).start ∧
    (let s := { closed with rpath := { closed.rpath with logQueue := [(0, frame 10)] } }
     s.capture.queue = [] ∧ s.rpath.logQueue = (0, frame 10) :: [] ∧ 0 < s.rpath.logs.length ∧
     s.capture.rotation = .lane 5 ∧ postFillDue s = false ∧ 0 < s.capture.layout ∧ s.capture.layout ≤ 65536 ∧
     (logAt s 0).length < 65536 / s.capture.layout) := by decide +kernel

theorem witness_ViewportCommandsMakeRequests :
    canDispatch closed = true ∧ 1 < (2 : Word).toNat ∧ closed.capture.layout ≤ (1 : Word).toNat ∧
    (1 : Word) = flagWord true ∧ (0 : Word).toNat < closed.capture.layout ∧ (segAt st 0).state = .empty ∧
    (segAt closed 0).state ≠ .empty ∧ 719 < (720 : Word).toNat ∧ (719 : Word).toNat ≤ 719 ∧
    (segAt st st.view.seg).oldest = none ∧ (segAt closed closed.view.seg).oldest = some 10 ∧
    (segAt closed closed.view.seg).newest = some 20 := by decide +kernel

theorem witness_ColumnsPartitionTime :
    0 < 256 ∧ 256 ≤ 256 ∧ 719 < 720 ∧ columnStart 1000 640 720 ≤ 2800 ∧ 999 < 1000 ∧
    360 * 2560 / 256 ≤ columnStart 100000 640 360 ∧ columnStart 100000 640 360 - 360 * 2560 / 256 ≤ 281474976710655 ∧
    1000 ≤ 50000 ∧ 0 ≤ (1000 : Int) + panShift (-400) 640 ∧ (1000 : Int) + panShift (-400) 640 ≤ 281474976710655 := by
  decide +kernel

/-- Segment 0 closed from 10 to 20: a stretch, and an empty one past its end; the causes of a refusal. -/
theorem witness_MeasureAndColumnReadoutJudged :
    canDispatch closed = true ∧ closed.capture.layout ≤ (1 : Word).toNat ∧ 31 < (32 : Word).toNat ∧
    (2 : DWord).toNat < (3 : DWord).toNat ∧ (0 : Word).toNat < closed.capture.layout ∧ closed.view.pass = none ∧
    closed.view.meas = .none ∧ (segAt closed 0).state ≠ .empty ∧ (segAt closed 0).oldest = some 10 ∧
    (segAt closed 0).newest = some 20 ∧ (segAt closed 0).mask.getLsbD 31 = true ∧ (0 : Word).getLsbD 31 = false ∧
    max (19 : DWord).toNat 10 < min (30 : DWord).toNat ((segAt closed 0).endTime.getD 20) ∧
    min (30 : DWord).toNat ((segAt closed 0).endTime.getD 20) ≤ max (20 : DWord).toNat 10 ∧ closed.view.pending = none ∧
    (segAt st 0).oldest = none ∧ 23 < (24 : Word).toNat ∧ (23 : Word).toNat ≤ 23 ∧ 24 < (25 : Word).toNat ∧
    (24 : Word).toNat ≤ 24 ∧ (24 : Word) ≠ 0 ∧ st.view.columns = none := by decide +kernel

/-- A pass over a blank row at column 718 and 719, with and without a request pending, and one that needs an access. -/
theorem witness_PassColumnsAndCells :
    st.view.pass = none ∧
    (∀ c ∈ [718, 719], ∀ pend ∈ [none, some st.view.snapshot],
      let p : Pass := ⟨st.view.snapshot, [⟨.blank, 8⟩], none, c, true, .idle, 0⟩
      let s := { st with view := { st.view with pass := some p, pending := pend } }
      s.view.pass = some p ∧ p.needsAccess s = false ∧ s.view.pending = pend ∧ p.col = c) ∧
    (let p : Pass := ⟨closed.view.snapshot, [⟨.channel 0, 8⟩], none, 0, false, .idle, 0⟩
     p.needsAccess { closed with view := { closed.view with pass := some p } } = true) ∧
    (change 1 :: [change 1, change 4]).Pairwise (fun x y => x.time ≤ y.time) ∧ (change 1).time ≤ 1 ∧ 1 ≤ 5 := by
  decide +kernel

theorem witness_PanelCommandsAndSteps :
    canDispatch st = true ∧ 1 < (2 : Word).toNat ∧ st.panel.running = false ∧
    (let s := go st [.setPanel 0 1]
     s.panel.running = true ∧ s.panel.scan.isSome) ∧
    24 < (List.replicate 25 (0 : Word)).length ∧ (List.replicate 24 (0 : Word)).length ≤ 24 ∧
    (field 0x00202000 0 2 = 0 ∧ 31 < field 0x00202000 8 8) ∧
    (field 0x00201F00 0 2 = 0 ∧ field 0x00201F00 8 8 ≤ 31) ∧
    15 < (16 : Word).toNat ∧ (15 : Word).toNat ≤ 15 ∧ [(1 : Word)] ≠ [] ∧ (15 : Word).toNat + [(1 : Word)].length ≤ 16 ∧
    16 < (15 : Word).toNat + [(1 : Word), 2].length ∧ 255 < (256 : Word).toNat ∧ (255 : Word).toNat ≤ 255 ∧
    ({ st.panel with step := 255 } : Panel).step = 255 ∧ st.panel.step ≠ 255 := by decide +kernel

/-- A rectangle of 3 by 3 at the lower right corner of the panel: four of its nine pixels lie on it. -/
theorem witness_OverlayWritesItsRectangle :
    canDispatch st = true ∧ Mem.wf 0 st.panel.overlay = true ∧ field 798 0 16 = 798 ∧ field 478 0 16 = 478 ∧
    min 3 (800 - 798) * min 3 (480 - 478) = 4 ∧ [(0 : Word), 0].length = (3 * 3 + 7) / 8 ∧
    [(0 : Word)].length ≠ (3 * 3 + 7) / 8 ∧ 15 < (16 : Word).toNat ∧ (15 : Word).toNat ≤ 15 := by decide +kernel

/-- An idle receiver with 7 and 8 packets queued, and one in reception with 6. -/
theorem witness_PacketsAreReceivedIntoTheQueue :
    st.resetN = true ∧ (go st [.resetNAsserted]).resetN = false ∧
    (∀ n ∈ [7, 8], let u := { st.uplink with queue := List.replicate n ⟨1, [1], false⟩ }
      u.rx = .idle ∧ (u.queue.length < 8 ↔ n = 7) ∧ (8 ≤ u.queue.length ↔ n = 8)) ∧
    [(1 : Word), 2].length = headerLength 2 ∧ [(1 : Word)].length < headerLength 2 ∧
    (let u := { st.uplink with queue := List.replicate 6 ⟨1, [1], false⟩, rx := .receiving 2 [] false }
     u.rx = .receiving 2 [] false ∧ u.queue.length < 7) ∧
    ([] : List Word).length + 1 < headerLength 2 ∧ [(1 : Word)].length + 1 = headerLength 2 := by decide +kernel

theorem witness_EventsAreClearedAndEnabled :
    canDispatch st = true ∧ 6 < (7 : Word).toNat ∧
    (∀ b : Fin 7, (BitVec.ofNat 32 b.val).toNat = b.val ∧
      2 ^ ([20, 5, 3, 24, 1, 2, 1].getD b.val 0) ≤ (BitVec.ofNat 32 (2 ^ ([20, 5, 3, 24, 1, 2, 1].getD b.val 0))).toNat ∧
      (BitVec.ofNat 32 (2 ^ ([20, 5, 3, 24, 1, 2, 1].getD b.val 0) - 1)).toNat < 2 ^ ([20, 5, 3, 24, 1, 2, 1].getD b.val 0)) :=
  by decide +kernel

/-- A RESPONSE; notices due of POD and LINK with the pointer at LINK; a stream packet; a MEASURE result; each kind of packet on
the link; and nothing to send. -/
theorem witness_TransmitterGrantsInOrder :
    (answered 0 1 .ok [] st).uplink.slot = some ⟨0, typeCommand, 1, .ok, []⟩ ∧ st.resetN = true ∧ st.uplink.tx = none ∧
    st.uplink.slot = none ∧ (∀ b : Fin 7, (st.events[b]).due = false) ∧ st.rpath.readout = none ∧ st.rpath.stream = [] ∧
    st.capture.readout = none ∧ st.view.columns = none ∧ st.view.meas = .none ∧
    (let s := { st with events := (st.events.set 0 ⟨1, 1, true⟩).set 6 ⟨1, 1, true⟩ }
     (s.events[(0 : Fin 7)]).due = true ∧ ∀ c : Fin 7, (s.events[c]).due = true →
       ((0 : Fin 7).val + 6 - s.uplink.noticePtr.val) % 7 ≤ (c.val + 6 - s.uplink.noticePtr.val) % 7) ∧
    ({ st.rpath with stream := [frame 1] } : RecordPath).stream ≠ [] ∧
    ({ st.view with meas := .waiting 3 MeasureResult.zero } : View).meas = .waiting 3 MeasureResult.zero ∧
    (∀ x ∈ [TxSource.response, .notice, .stream, .measure, .frames true, .records true, .columns true],
      let u := { st.uplink with tx := some ⟨[], x⟩ }
      u.tx = some ⟨[], x⟩ ∧ u.resetPending = false ∧ u.tx.isSome) := by decide +kernel

theorem witness_ResetsLeaveTheirValues :
    canDispatch st = true ∧
    (let s := go st [.softReset 4]
     s.uplink.resetPending = true ∧ s.uplink.slot.isSome ∧
     (go s [.transmitGrant]).uplink.tx = some ⟨[0x08040001, 0x00001033], .response⟩ ∧
     (go s [.transmitGrant]).uplink.resetPending = true) ∧
    (go st [.resetNAsserted]).resetN = false := by decide +kernel

theorem witness_StatusCommandsReport :
    canDispatch st = true ∧ st.capture.layout ≤ (1 : Word).toNat ∧ (0 : Word).toNat < st.capture.layout ∧
    5 < (6 : Word).toNat ∧ (5 : Word).toNat = (5 : LaneId).val := by decide +kernel

/-- RUN at the head of the queue; a truncated packet, one of type 4, and codes 0 and 52. -/
theorem witness_PacketsDispatchTheirCommands :
    (Instr.run 5).wf = true ∧ encodePacket (.run 5) = some ⟨0x01050001, [12], false⟩ ∧
    (let s := { st with uplink := { st.uplink with queue := [⟨0x01050001, [12], false⟩] } }
     canDispatch s = true ∧ s.uplink.queue = ⟨0x01050001, [12], false⟩ :: []) ∧
    (headerType 0x04050001 ≠ 1 ∧ headerType 0x04050001 ≠ 2 ∧ headerType 0x04050001 ≠ 3) ∧
    headerType 0x01050001 = 1 ∧ field 0 0 8 = 0 ∧ 51 < field 52 0 8 := by decide +kernel

/-! ## Further clauses: roll, state mode, FIELD terms, check values, front ends, grants, cells and packets -/

/-- The view engine is the only requester of a state, given its parts. -/
theorem viewOnly (s : State) (hw : requesterWaits s .writer = false) (hr : requesterWaits s .readout = false)
    (hl : ∀ l : LaneId, requesterWaits s (.lane l) = false) : ∀ q, requesterWaits s q = true → q = .view := by
  intro q h
  cases q with
  | view => rfl
  | writer => exact absurd (hw.symm.trans h) (by decide)
  | readout => exact absurd (hr.symm.trans h) (by decide)
  | lane l => exact absurd ((hl l).symm.trans h) (by decide)

/-- A wait at 62 and at 63 with one and with two bad frames before. -/
theorem witness_AcknowledgeWaitOfTheShadow_bad :
    ∀ n ∈ [62, 63], ∀ b ∈ [1, 2], let k := ((pod fun k => { k with state := .up, wait := some n, badRun := b }).pods.links[
        (0 : Pod)])
      k.state = .up ∧ k.wait = some n ∧ k.badRun = b ∧ (n < 63 ↔ n = 62) ∧ (b < 2 ↔ b = 1) := by decide +kernel

theorem witness_EveryTickDeliversOneEntryPerPod_timing :
    st.time.modeInForce = .timing ∧ 7 < 8 ∧ 31 = 8 * (3 : Pod).val + 7 := by decide +kernel

/-- Subsecond 32,767 at an interval's end in MINUS and NONE; roll on over a segment with no record written. -/
theorem witness_ReferenceCountAdvancesTheWallClock_carry :
    (∀ d ∈ [Direction.minus, .none],
      let s := timed fun t => { t with subsecond := 32767, intervalCount := 327679, corrAmount := 63, corrDir := d }
      s.time.subsecond < 32768 ∧ s.time.corrAmount ≤ 63 ∧ s.time.corrDir = d ∧ s.time.subsecond = 32767 ∧
      s.time.withheld = 0 ∧ s.time.intervalCount + 1 = (if s.time.corrLong then 1966080 else 327680)) ∧
    (let s := { st with view := { st.view with roll := true } }
     (segAt s s.view.seg).viewLimit = none ∧ s.view.roll = true ∧ s.trigger.state ≠ .waitArm) := by decide +kernel

/-- A count to 8,192 and to the next second with roll off, and with roll on over a segment written up to 20. -/
theorem witness_ClockRowsAreTheirReferenceCount_roll :
    ∀ sub ∈ [8191, 32767], ∀ r ∈ [true, false],
      let s := { closed with
        time := { closed.time with subsecond := sub, intervalCount := 327678, rollPeriod := 2 }
        view := { closed.view with roll := r } }
      s.time.intervalCount + 1 < (if s.time.corrLong then 1966080 else 327680) ∧ s.time.withheld = 0 ∧
      s.time.subsecond < 32768 ∧ s.trigger.state ≠ .waitArm ∧
      (s.time.subsecond + 1) % (2048 * 2 ^ s.time.rollPeriod) = 0 ∧ s.view.roll = r ∧
      (segAt s s.view.seg).viewLimit = some 20 := by decide +kernel

/-- RUN over a running measurement and a viewport on segment 0 and on segment 1. -/
theorem witness_RunStartsACapture_view :
    let m : MeasureRun := ⟨0, 0, 4, 200, 0, none, 110, none, none, MeasureResult.zero⟩
    ∀ k ∈ [0, 1], let s := { st with
        capture := { st.capture with stored := { st.capture.stored with count := 2 } }
        view := { st.view with meas := .running m, seg := k } }
      canDispatch s = true ∧ s.capture.ctl = .idle ∧ s.capture.readout = none ∧ s.rpath.readout = none ∧
      0 < s.capture.stored.count ∧ s.view.meas = .running m ∧ s.view.seg = k ∧ st.view.measuring = false := by
  decide +kernel

/-- State mode: the latest sample's channel 0 is high, the next one's low, and the clock edge falls, or rises. -/
def clocked (e : Edge) (s : State) : State :=
  { s with time := { s.time with
      modeInForce := .state, clockEdge := e, qMask := 0, last := ⟨0, 0, 0, false, 1⟩ } }

theorem quiet_state_sample : streamSample .state (deliverTick false st.pods) = Sample.zero := by decide +kernel

/-- FILLING and POST_FILL in state mode, with and without a state sample; POST_FILL in timing mode. The sample is that of
`quiet_sample` and `quiet_state_sample`. -/
theorem witness_RecordsOfASample_state :
    (∀ e ∈ [Edge.rising, .falling], ∀ need ∈ [true, false], ∀ ref ∈ [0, 1],
      let s0 := clocked e (recording need ref 0)
      let s := { s0 with capture := { s0.capture with
        segs := [{ referenced ref 0 with mode := .state }], needStart := need } }
      s.time.modeInForce = .state ∧ (segAt s 0).mode = .state ∧ (segAt s 0).state = .filling ∧
      (evaluatedSample s.time Sample.zero = true ↔ e = .falling) ∧ s.capture.needStart = need ∧
      (Sample.zero.valid = (segAt s 0).refPods ↔ ref = 0) ∧ s.capture.queue.length + 2 ≤ 4096) ∧
    (∀ m ∈ [Mode.timing, .state],
      let s0 := clocked .falling (recording false 0 1)
      let s := { s0 with
        time := { s0.time with modeInForce := m }
        trigger := { s0.trigger with state := .triggered }
        capture := { s0.capture with
          segs := [{ referenced 0 1 with mode := m, state := .postFill }]
          inForce := { s0.capture.inForce with postfill := 1 } } }
      s.time.modeInForce = m ∧ (segAt s 0).mode = m ∧ (segAt s 0).state = .postFill ∧ s.trigger.state = .triggered ∧
      (segAt s 0).postCount < s.capture.inForce.postfill ∧ s.time.sampling = true ∧ s.time.fresh = false ∧
      s.time.tick = some 7 ∧ s.capture.ctl = .capturing 0 ∧ 0 < s.capture.segs.length ∧ (segAt s 0).overrun = none ∧
      Sample.zero.valid = (segAt s 0).refPods ∧ Sample.zero.levels &&& (segAt s 0).mask ≠ (segAt s 0).refLevels) := by
  decide +kernel

/-- A post-trigger record and another, in POST_FILL and in CLOSING as DONE; a log with entries before and after the oldest
record of a full ring of two. -/
theorem witness_RingWriteKeepsTheOtherSlots_post :
    (∀ p ∈ [true, false], ∀ c ∈ [SegState.postFill, .closing],
      let s := stored fun k => { k with
        segs := [segment c fun d => { d with size := 2, retained := 1, written := 1, oldest := some 1 }]
        queue := [⟨0, change 5, p⟩] }
      s.capture.queue = ⟨0, change 5, p⟩ :: [] ∧ (segAt s 0).state = c ∧ (segAt s 0).closeStopped = false ∧
      postFillDue s = false ∧ s.capture.rotation = .lane 5) ∧
    (let s0 := stored fun k => { k with
        segs := [segment .filling fun d => { d with size := 2, retained := 2, written := 2, oldest := some 1 }]
        dram := [(0, change 1), (1, change 3)], queue := [⟨0, change 5, false⟩] }
     let s := { s0 with rpath := { s0.rpath with logs := [[frame 2, frame 3]], logQueue := [(0, frame 2), (1, frame 2)] } }
     Mem.wf Record.blank s.capture.dram = true ∧ (segAt s 0).retained = (segAt s 0).size ∧
     (segAt (go s [.arbiterGrant]) 0).oldest = some 3 ∧ logAt (go s [.arbiterGrant]) 0 = [frame 3] ∧
     (go s [.arbiterGrant]).rpath.logQueue = [(1, frame 2)]) := by decide +kernel

/-- A trigger one below and at the oldest time, and one past the last record but the END record. -/
theorem witness_SegmentClosesAtItsEndRecord_trigger :
    ∀ n ∈ [3, 4, 9],
      let f : TriggerFacts := ⟨n, .force, 0, Vector.replicate 4 0⟩
      let s := stored fun k => { k with
        ctl := .closing, dram := [(0, change 4)], queue := [⟨0, ⟨.close, 0, 9, 0, 0⟩, false⟩]
        segs := [segment .closing fun d => { d with
          trigger := some f, retained := 1, written := 1, oldest := some 4, newest := some 4 }] }
      (segAt s 0).trigger = some f ∧ (segAt (go s [.arbiterGrant]) 0).oldest = some 4 ∧ (f.time < 4 ↔ n = 3) ∧
      (segAt (go s [.arbiterGrant]) 0).trigIndex = some (if n = 9 then 1 else 0) := by decide +kernel

/-- A lone FIELD term, two of them, FIELD or ALWAYS, and a negated one; latches 5 and 6, 6 alone, and none. -/
theorem witness_SequencerTakesTheTrigger_field :
    ∀ any ∈ [false, true], ∀ terms ∈ [[⟨.field 0, false⟩], [⟨.field 0, false⟩, ⟨.field 1, false⟩],
        [⟨.field 0, false⟩, ⟨.always, false⟩], [⟨.field 0, true⟩]], ∀ l0 ∈ [some 5, none],
      let s0 := capturing (segment .filling id) 7
      let s := { s0 with trigger := { s0.trigger with
        latches := #v[l0, some 6, none, none]
        stages := [⟨⟨terms, any⟩, .trigger, none, Vector.replicate 4 .keep, false, false, false⟩] } }
      let e := s.trigger.stages.getD s.trigger.stage Stage.cleared
      s.trigger.state = .running ∧ s.trigger.force = false ∧ e.advanceTo = .trigger ∧ e.alternate = none ∧
      s.capture.inForce.hold = false ∧ e.advance.any = any ∧ e.advance.terms = terms ∧ s.trigger.latches[(0 : Fin 4)] = l0 ∧
      s.trigger.latches[(1 : Fin 4)] = some 6 := by decide +kernel

/-- A running counter that counts FIELD 0, whose comparator accepts the frame, and FIELD 1, of another lane; a comparator with
every item, which `frame 9` with an address meets at the boundary of each. -/
theorem witness_FieldComparatorsLatchTheEarliest_counters :
    (∀ f ∈ [(0 : Fin 4), 1],
      let k : Counter := ⟨0, true, false, .term (.field f), 1, 1, false, false, false⟩
      let t := { st.trigger with
        state := .running, counters := st.trigger.counters.set 2 k
        comps := #v[some ⟨2, none, none, none, none, none⟩, some ⟨3, none, none, none, none, none⟩, none, none] }
      (t.counters[(2 : Fin 4)]).running = true ∧ (t.counters[(2 : Fin 4)]).source = .term (.field f) ∧
      ((t.comps[f]).map (·.lane) = some (frame 9).lane ↔ f = 0)) ∧
    (let r : FrameRecord := { frame 9 with data := [1, 2, 3] }
     Comparator.accepts ⟨2, some 0, some 1, some (0x1F, 0x0F), some ⟨1, 2, 0x302, 0xFFFF⟩, some (.ge, 1)⟩ r (some 0x2F) =
       true ∧
     Comparator.accepts ⟨2, none, none, none, some ⟨2, 2, 0x3, 0xFF⟩, none⟩ r none = false ∧
     Comparator.accepts ⟨2, none, none, some (0x1F, 0x0F), none, none⟩ r none = false) := by decide +kernel

/-- CRC8 and CRC16 parameters that fit, with each reflect setting and a final XOR of 0 and of all ones. -/
theorem witness_CheckValuesClose_crc :
    ∀ kw ∈ [(CheckKind.crc8, 8), (.crc16, 16)], ∀ ri ∈ [false, true], ∀ ro ∈ [false, true], ∀ x ∈ [0, 2 ^ kw.2 - 1],
      let c : Check := ⟨kw.1, 2 ^ kw.2 - 1, 2 ^ kw.2 - 1, x, ri, ro⟩
      ((c.kind = .crc8 ∧ kw.2 = 8) ∨ (c.kind = .crc16 ∧ kw.2 = 16)) ∧ c.poly < 2 ^ kw.2 ∧ c.init < 2 ^ kw.2 ∧
      c.xorOut < 2 ^ kw.2 ∧ c.reflectIn = ri ∧ c.reflectOut = ro ∧ kw.2 - 1 < kw.2 ∧ 255 < 256 ∧
      [0, 255].foldl c.feed c.start = c.feed (c.feed c.start 0) 255 := by decide +kernel

/-- A table of three entries: an 8-bit one that branches to the last on the value 1, and two that repeat. -/
def branching : FrameTable :=
  { table with entries :=
      [⟨0, 8, false, .length, .fixed 2, true, some ⟨0xFF, 1, 3, 2⟩⟩, ⟨1, 8, true, .data, .byLength 0 (-1), false, none⟩,
        ⟨2, 1, false, .data, .toEnd, false, none⟩] }

/-- Units at and below the limit, entries left and passed, a gatherer one bit short of and at the width, takings none, 1 and
2. -/
theorem witness_CheckValuesClose_units :
    (∀ e ∈ branching.entries, 1 ≤ e.width) ∧ branching.entries.length = 3 ∧
    (∀ n ∈ [15, 16], ∀ pos ∈ [0, 3], ∀ len ∈ [7, 8], ∀ left ∈ [none, some 1, some 2],
      let f := { openedFrame none with units := n }
      let ln := { framed .inFrame none with
        frame := some f, gatherer := List.replicate len true, pos := ⟨pos, left⟩ }
      ln.frame = some f ∧ (branching.unitsLimit ≤ f.units ↔ n = 16) ∧ (branching.entries.length ≤ ln.pos.entry ↔ pos = 3) ∧
      ln.pos.left = left ∧ ((branching.entries[ln.pos.entry]?).isSome ↔ pos = 0) ∧ (8 ≤ ln.gatherer.length ↔ len = 8)) := by
  decide +kernel

/-- A branch met by the value 1 and not by 2; entries reached: once, fixed, to the end, by length to 0 and above, and past the
last. -/
theorem witness_CheckValuesClose_entries :
    branching.entries.map (fun e => (e.width, e.branch)) = [(8, some ⟨0xFF, 1, 3, 2⟩), (8, none), (1, none)] ∧
    BitVec.ofNat 32 1 &&& (0xFF : Word) = 1 &&& 0xFF ∧ BitVec.ofNat 32 2 &&& (0xFF : Word) ≠ 1 &&& 0xFF ∧
    branching.entries.map (·.rep) = [.fixed 2, .byLength 0 (-1), .toEnd] ∧ table.entries.map (·.rep) = [.once] ∧
    ((([(0, 1)] : List (Nat × Nat)).lookup 0).getD 0 : Nat) + (-1 : Int) ≤ 0 ∧
    0 < ((([(0, 2)] : List (Nat × Nat)).lookup 0).getD 0 : Nat) + (-1 : Int) ∧ branching.entries.length ≤ 3 := by
  decide +kernel

/-- Lane 2 live in HUNT, and the tick stamped is the first below 2^48 - 1 and the last; the other lanes are OFF. -/
theorem witness_LaneStartJudgedInOrder_live :
    ∀ n ∈ [0, 281474976710654], ∀ mask ∈ [(0 : BitVec 6), 4],
      let s0 := laned { Lane.reset with state := .hunt }
      let s := { s0 with
        time := { s0.time with sampling := true, fresh := false, tick := some n }
        capture := { s0.capture with ctl := .monitor }, rpath := { s0.rpath with mask := mask } }
      let ln := s.lanes[(2 : LaneId)]
      s.capture.ctl = .monitor ∧ s.time.sampling = true ∧ s.trigger.state = .idle ∧
      (∀ m : LaneId, m ≠ 2 → (s.lanes[m]).state = .off) ∧ ln.state ≠ .off ∧ ln.isReplay = false ∧ ln.replay = none ∧
      (s.tables.slots[(2 : LaneId)]).table = some table ∧ gapDue table ln = false ∧ s.time.fresh = false ∧
      s.time.tick = some n ∧ n < 281474976710655 ∧ (s.rpath.mask.getLsbD (2 : LaneId) = true ↔ mask = 4) ∧
      s.rpath.stream.length < 512 := by decide +kernel

/-- START-STOP on channel 3 at two ticks a bit: the line idle, a start edge with the flag off, and on with the idle time one
below and at the character time; the start bit idle and not; a data bit, the first of two stop bits, the last. -/
theorem witness_LaneStartJudgedInOrder_startStop :
    let p : StartStop := ⟨3, true, 512, 8, .even, .two, false⟩
    let t := { table with front := .startStop p }
    let stop1 := 1 + p.dataBits + (if p.parity = .none then 0 else 1)
    (∀ k ∈ t.front.channels, k < 32) ∧ t.front = .startStop p ∧ stop1 = 10 ∧
    (∀ run ∈ [23, 24], ∀ r ∈ [false, true],
      let ln := { Lane.reset with
        state := .hunt, resync := r, prev := some 8, front := { FrontState.empty with idleRun := run } }
      ln.prev = some 8 ∧ ln.front.char = none ∧ ln.resync = r ∧ ((8 : BitVec 32).getLsbD p.chan = p.idle) ∧
      ((0 : BitVec 32).getLsbD p.chan ≠ p.idle) ∧
      (2 * (1 + p.dataBits + (if p.parity = .none then 0 else 1)) + 4) * p.period = 512 * 24 ∧
      (24 * p.period ≤ 512 * ln.front.idleRun ↔ run = 24)) ∧
    (∀ k ∈ [0, 1, 9, 10, 11],
      let ln := { framed .inFrame none with prev := some 8, front := { FrontState.empty with
        char := some ⟨40, k, List.replicate (min (k - 1) 9) false⟩ } }
      ln.front.char = some ⟨40, k, List.replicate (min (k - 1) 9) false⟩ ∧ ln.frame = some (openedFrame none) ∧
      40 + (2 * k + 1) * p.period / 512 = 41 + 2 * k ∧ (0 < k ∧ k < stop1 ↔ k = 1 ∨ k = 9) ∧
      (stop1 ≤ k ∧ k < stop1 + 1 ↔ k = 10) ∧ (stop1 + 1 ≤ k ↔ k = 11)) := by decide +kernel

/-- STROBED with select, channel 2 low, and without; the flag on with the quiet time one below and at the gap of 100; a unit
one bit short of, and at, the width of 2. -/
theorem witness_LaneStartJudgedInOrder_strobed :
    ∀ sel ∈ [none, some 2], ∀ n ∈ [0, 1], ∀ r ∈ [false, true],
      let p : Strobed := ⟨0, .rising, sel, false, [1], 2⟩
      let t := { table with front := .strobed p }
      let ln := { framed .inFrame none with
        prev := some 0, resync := r, front := { FrontState.empty with
          unitBits := List.replicate n true, quietFrom := some 5 } }
      (∀ k ∈ t.front.channels, k < 32) ∧ t.front = .strobed p ∧ p.select = sel ∧ t.gap = 100 ∧ 104 < 5 + 100 ∧
      ln.prev = some 0 ∧ ln.resync = r ∧ ln.front.unitBits = List.replicate n true ∧ ln.frame.isSome ∧
      ln.front.quietFrom = some 5 ∧
      ((ln.front.unitBits ++ p.data.map (fun k => (3 : BitVec 32).getLsbD k)).length < p.width ↔ n = 0) := by
  decide +kernel

/-- The levels of that: select on channel 2 active and inactive, the clock on channel 0 rising. -/
theorem witness_LaneStartJudgedInOrder_select :
    (1 : BitVec 32).getLsbD 2 = false ∧ (5 : BitVec 32).getLsbD 2 = true ∧ (0 : BitVec 32).getLsbD 0 = false ∧
    (1 : BitVec 32).getLsbD 0 = true ∧ (5 : BitVec 32).getLsbD 0 = true ∧ Lane.reset.frame.isNone := by decide +kernel

/-- TWO-WIRE: clock 0, data 1; a start condition from 3 to 1, a stop condition from 1 to 3, a rising edge from 2 to 3 after 7
and after 8 bits, and no change. -/
theorem witness_LaneStartJudgedInOrder_twoWire :
    table.front = .twoWire ⟨0, 1, false⟩ ∧ (∀ k ∈ table.front.channels, k < 32) ∧
    ([1, 2, 3].map fun w => ((BitVec.ofNat 32 w).getLsbD 0, (BitVec.ofNat 32 w).getLsbD 1)) =
      [(true, false), (false, true), (true, true)] ∧
    (∀ r ∈ [false, true], let ln := { Lane.reset with state := .hunt, prev := some 3, resync := r }
      ln.prev = some 3 ∧ ln.frame = none ∧ ln.resync = r) ∧
    (∀ n ∈ [7, 8], let ln := { framed .inFrame none with prev := some 2, front := { FrontState.empty with
        unitBits := List.replicate n true } }
      ln.prev = some 2 ∧ ln.frame = some (openedFrame none) ∧ ((ln.front.unitBits ++ [true]).length < 9 ↔ n = 7)) := by
  decide +kernel

/-- The line ends: a stop bit that reads non-idle, select inactive, a stop condition and a start condition in a frame; and a
gap run out with the timeout mark (TWO-WIRE; STROBED with select and a unit in progress) and without. -/
theorem witness_FrameEndJudgesAndHandsOver_ends :
    (let p : StartStop := ⟨3, true, 512, 8, .even, .two, false⟩
     let ln := { framed .inFrame none with prev := some 0, front := { FrontState.empty with char := some ⟨40, 10, []⟩ } }
     ln.front.char = some ⟨40, 10, []⟩ ∧ 61 = 40 + (2 * 10 + 1) * p.period / 512 ∧
     1 + p.dataBits + (if p.parity = .none then 0 else 1) ≤ 10 ∧ (0 : BitVec 32).getLsbD p.chan ≠ p.idle ∧
     ln.frame = some (openedFrame none) ∧ ln.errors < 3 ∧ ln.prev = some 0) ∧
    (let p : Strobed := ⟨0, .rising, some 2, false, [1], 2⟩
     p.select = some 2 ∧ (4 : BitVec 32).getLsbD 2 ≠ p.active) ∧
    (∀ t ∈ [table, { table with front := .strobed ⟨0, .rising, some 2, false, [1], 2⟩ },
        { table with front := .strobed ⟨0, .rising, none, false, [1], 2⟩ }], ∀ e ∈ [0, 1],
      let ln := { framed .inFrame none with
        lastTick := 100 + e, pos := ⟨1, none⟩, front := { FrontState.empty with lastEdge := 1 } }
      let s0 := laned ln
      let s := { s0 with
        tables := { s0.tables with slots := s0.tables.slots.set 2 ⟨some t, t.charge⟩ }
        capture := { s0.capture with ctl := .monitor } }
      s.lanes[(2 : LaneId)] = ln ∧ (s.tables.slots[(2 : LaneId)]).table = some t ∧ (gapDue t ln = true ↔ e = 1) ∧
      ln.state ≠ .off ∧ ln.isReplay = false ∧ ln.replay = none ∧ s.trigger.state ≠ .running ∧
      s.rpath.mask.getLsbD (2 : LaneId) = false ∧ s.capture.ctl = .monitor ∧
      gapTimesOut t ln = decide (t = table)) := by decide +kernel

/-- Segment 0 closed with records at 10, 12 and 20, lane 2 replaying it from a record; the records rise. -/
def replaying (f : Replay → Replay) (g : Lane → Lane) : State :=
  let ln := g { Lane.reset with state := .hunt, isReplay := true, replay := some (f ⟨0, 10, 19, false, 1, 1, none⟩) }
  { closed with
    tables := (laned ln).tables, lanes := (laned ln).lanes
    capture := { closed.capture with dram := [(0, change 10), (1, change 12), (2, change 20)] } }

/-- A start tick that a record has and one that none has; a readout of the same and of another segment. -/
theorem witness_LaneReplayJudgedInOrder_start :
    let s := replaying id fun _ => Lane.reset
    canDispatch s = true ∧ (s.lanes[(2 : LaneId)]).state = .off ∧ (s.tables.slots[(2 : LaneId)]).table = some table ∧
    0 < (segAt s 0).retained ∧ (recordAt s 0 0).time ≤ 12 ∧
    (List.range 3).map (fun j => (recordAt s 0 j).time) = [10, 12, 20] ∧ 13 ∉ [10, 12, 20] ∧
    (1 : Word).getLsbD 0 = true ∧ (0 : Word).getLsbD 0 = false ∧ 0 < s.rpath.logs.length ∧
    (∀ k ∈ [0, 1], let r : FrameReadout := ⟨0, k, 4, 0, none, 0, 0, [], false, false⟩
      ({ s.rpath with readout := some r } : RecordPath).readout = some r ∧ (r.seg = 0 ↔ k = 0)) := by decide +kernel

/-- A replaying lane with no overrun, with one at its tick with no frame and with an open frame, and DRAINING: what one tick
needs. -/
theorem witness_LaneReplayJudgedInOrder_tick :
    (∀ o ∈ [none, some 10], ∀ fr ∈ [none, some (openedFrame none)], ∀ c ∈ [LaneState.hunt, .inFrame, .draining],
      let s := replaying (fun r => { r with overrunAt := o }) fun ln => { ln with state := c, frame := fr }
      let ln := s.lanes[(2 : LaneId)]
      (s.tables.slots[(2 : LaneId)]).table = some table ∧ ln.state ≠ .off ∧ ln.isReplay = true ∧
      ln.replay = some ⟨0, 10, 19, false, 1, 1, o⟩ ∧ ln.frame = fr ∧ ln.errors < 3 ∧ (openedFrame none).lastEnd = none) ∧
    (let s := replaying id id
     let out := laneTick table 2 10 1 s.lanes[(2 : LaneId)]
     out.frame.isNone ∧ out.sync = false ∧ out.off = false ∧ gapDue table out.lane = false) := by decide +kernel

/-- Section 11.6, written out by hand: lane 2, tag 5, CHECK (3), TRUNCATED, one pair and two data bytes, 3 dropped before;
start 258, end 2^40, 7 units, pair 9 with value 0x11223344, data AA BB; 27 bytes, so the last byte of word 6 is 0. -/
theorem test_frame_record_words_11_6 :
    frameWords ⟨2, false, 5, .check, 258, 1099511627776, 7, [(9, 0x11223344)], [0xAA, 0xBB], true, 3⟩ =
      [0x03041B52, 0x00000102, 0x00000000, 0x01000000, 0x00000007, 0x22334409, 0x00BBAA11] := by decide +kernel

/-- Section 11.6: HIGH ending high with a glitch and density 200, BUSY ending low, and a decode cell MULTI with ERROR and
START; three cells take two words. -/
theorem test_cell_words_11_6 :
    packCells [.trace .high true 200 true, .trace .busy false 1 false, .decode .multi true true] =
      [0x0105C81A, 0x00000064] := by decide +kernel

/-- R106: three entries, one with a branch, and a check, or none. -/
theorem test_charge_of_table :
    let e : Entry := ⟨0, 8, false, .data, .once, false, none⟩
    let t := { table with entries := [{ e with branch := some ⟨1, 1, 0, 2⟩ }, e, e] }
    { t with check := ⟨.xor8, 0, 0, 0, false, false⟩ }.charge = ⟨3, 1, 1⟩ ∧
    { t with check := ⟨.none, 0, 0, 0, false, false⟩ }.charge = ⟨3, 1, 0⟩ := by decide

/-- R142: a replay of segment 0 with the store flag takes lane 2's entries out of the log write queue, those waiting for
segment 1 too. -/
theorem test_stored_replay_empties_the_log_write_queue :
    let s0 := replaying id fun _ => Lane.reset
    let s := { s0 with rpath := { s0.rpath with
      logQueue := [(0, frame 10), (0, { frame 11 with lane := 3 }), (1, frame 12), (1, { frame 13 with lane := 3 })] } }
    (go s [.laneReplay 1 2 0 10 19 1]).rpath.logQueue =
      [(0, { frame 11 with lane := 3 }), (1, { frame 13 with lane := 3 })] := by decide +kernel

/-- Only the replaying lane waits: a record before the to tick, the last one, and one after the to tick. -/
theorem witness_LaneReplayJudgedInOrder_grant :
    ∀ k ∈ [1, 2], ∀ e ∈ [19, 20],
      let s := replaying (fun r => { r with nextIndex := k, toTick := e }) id
      let record := recordAt s 0 k
      let s2 := replayTicks table 2 (if record.time ≤ e then record.time - 10 else e + 1 - 10)
        { s with capture := { s.capture with rotation := .lane 2 } }
      let s3 := replayTicks table 2 (e + 1 - max 10 record.time) { s2 with lanes := s2.lanes.set 2 (s2.lanes[(2 : LaneId)]) }
      postFillDue s = false ∧ requesterWaits s .writer = false ∧ requesterWaits s .readout = false ∧
      requesterWaits s .view = false ∧ (∀ l : LaneId, requesterWaits s (.lane l) = decide (l = 2)) ∧
      (record.time ≤ e ↔ k = 1 ∨ e = 20) ∧ (k + 1 < (segAt s 0).retained ↔ k = 1) ∧
      (s2.lanes[(2 : LaneId)]).state ≠ .off ∧ (s2.lanes[(2 : LaneId)]).isReplay = true ∧
      (s2.lanes[(2 : LaneId)]).frame.isNone ∧ (s3.lanes[(2 : LaneId)]).state ≠ .off ∧
      (s3.lanes[(2 : LaneId)]).isReplay = true ∧ (s3.lanes[(2 : LaneId)]).frame.isNone := by decide +kernel

/-- Lane 2 live with an open frame, segment 0 current: the gap run out, and not, with STOP to come; a log full of 65,536
entries for a layout of 1 is one of 256 for a layout of 256. -/
theorem witness_CompletedFramesReachLogAndStream_segment :
    (∀ n ∈ [(100 : Nat), 101], let ln := { framed .inFrame (some 9) with
        lastTick := n, front := { FrontState.empty with lastEdge := 1 } }
      let s0 := capturing (segment .filling id) 7
      let s := { s0 with tables := (laned ln).tables, lanes := (laned ln).lanes }
      canDispatch s = true ∧ (s.tables.slots[(2 : LaneId)]).table = some table ∧ s.lanes[(2 : LaneId)] = ln ∧
      (gapDue table ln = true ↔ n = 101) ∧ ln.state ≠ .off ∧ ln.isReplay = false ∧ ln.replay = none ∧
      s.capture.ctl = .capturing 0 ∧ 0 < s.capture.segs.length ∧ s.time.tick ≠ some 281474976710655 ∧
      (∀ m : LaneId, m ≠ 2 → (s.lanes[m]).state = .off) ∧ ln.frame = some (openedFrame (some 9)) ∧ ln.errors < 2 ∧
      (segAt s 0).oldest.getD (segAt s 0).startTime ≤ (openedFrame (some 9)).start ∧ s.rpath.logQueue.length < 64 ∧
      (n = 101 → (endByGap table 2 ln).frame.isSome ∧ (endByGap table 2 ln).sync = false ∧
        (endByGap table 2 ln).off = false)) ∧
    (let s0 := stored fun c => { c with layout := 256, segs := List.replicate 256 (segment .stopped id) }
     let s := { s0 with rpath := { s0.rpath with
       logs := List.replicate 256 (List.replicate 256 (frame 10)), logQueue := [(0, frame 10)] } }
     0 < s.capture.segs.length ∧ s.capture.queue = [] ∧ s.rpath.logQueue = (0, frame 10) :: [] ∧
     0 < s.rpath.logs.length ∧ s.capture.rotation = .lane 5 ∧ postFillDue s = false ∧ s.capture.layout ≤ 65536 ∧
     (logAt s 0).length = 65536 / s.capture.layout) ∧
    (∀ b ∈ [false, true], (laned { Lane.reset with replay := some ⟨0, 5, 60, b, 0, 0, none⟩ }).lanes[(2 : LaneId)].replay =
      some ⟨0, 5, 60, b, 0, 0, none⟩) := by decide +kernel

/-- Segment 0 closed with records at 10, 12 and 20, nothing in flight. -/
def recorded : State := replaying id fun _ => Lane.reset

theorem recorded_lanes : ∀ l : LaneId, requesterWaits recorded (.lane l) = false := by decide +kernel

/-- A measurement over `recorded`: the level after the last record, and the tick up to which it counts. -/
def measured (next : Nat) (level : Option Bool) (toTime : Nat) : MeasureRun :=
  ⟨0, 0, 0, toTime, next, level, 10, none, none, MeasureResult.zero⟩

/-- No level yet, a level equal and one different; a first and a later edge. -/
theorem witness_MeasureAndColumnReadoutJudged_records :
    (∀ l ∈ [none, some true, some false], (measured 0 l 20).level = l) ∧ (change 5).levels.getLsbD 0 = true ∧
    ({ change 5 with levels := 0 } : Record).levels.getLsbD 0 = false ∧ MeasureResult.zero.highPulse.isNone := by decide +kernel

/-- Only a running measurement waits: the next record below the end time, at it, and none left; the oldest record overwritten. -/
theorem witness_MeasureAndColumnReadoutJudged_grant :
    (∀ e ∈ [11, 12, 13], ∀ k ∈ [0, 2],
      let m := measured k (some true) e
      let s := { recorded with view := { recorded.view with meas := .running m } }
      let m' := m.take (recordNumber s m.seg m.next)
      s.view.pass.isNone ∧ s.view.pending.isNone ∧ s.view.meas = .running m ∧ m.next < (segAt s m.seg).written ∧
      postFillDue s = false ∧ requesterWaits s .writer = false ∧ requesterWaits s .readout = false ∧
      requesterWaits s .view = true ∧ m'.level = some true ∧
      ((segAt s m.seg).written ≤ m'.next ↔ k = 2) ∧
      (k = 0 → ((recordNumber s m.seg m'.next).time < m.toTime ↔ e = 13))) ∧
    (let d := segment .filling fun d => { d with retained := 2, written := 3 }
     (measured 0 none 20).next < d.base) := by decide +kernel

theorem witness_MeasureAndColumnReadoutJudged_alone :
    ∀ q, requesterWaits { recorded with view := { recorded.view with meas := .running (measured 0 none 20) } } q = true →
      q = .view :=
  viewOnly _ (by decide +kernel) (by decide +kernel) recorded_lanes

/-- A pass over `recorded` in one channel row and one lane row, at a column that begins at 10, its reader as given. -/
def passing (r : PassReader) : State :=
  let p : Pass := ⟨⟨0, 10, 640, false, none, none⟩, [⟨.channel 0, 8⟩, ⟨.lane 2, 8⟩], none, 0, false, r, 0⟩
  { recorded with view := { recorded.view with pass := some p, pending := none } }

/-- Readers that need an access: idle, bisecting, and reading forward; and one that does not; only the view engine waits. -/
theorem witness_PassColumnsAndCells_grant :
    (∀ r ∈ [PassReader.idle, .bisect 0 3, .reading 1 (some 10), .reading 1 none],
      ((passing r).view.pass.map fun p => (p.needsAccess (passing r), p.reader, p.needsRecord (segAt (passing r) 0))) =
        some (true, r, true)) ∧
    ((passing (.reading 1 (some 12))).view.pass.map fun p => p.needsAccess (passing (.reading 1 (some 12)))) = some false ∧
    postFillDue (passing .idle) = false ∧ requesterWaits (passing .idle) .writer = false ∧
    requesterWaits (passing .idle) .readout = false ∧ (segAt (passing .idle) 0).base = 0 ∧
    (segAt (passing .idle) 0).base + 1 < (segAt (passing .idle) 0).written ∧ 0 + 1 < 3 ∧
    (segment .stopped fun d => { d with retained := 1, written := 5 }).written ≤
      (segment .stopped fun d => { d with retained := 1, written := 5 }).base + 1 := by decide +kernel

theorem witness_PassColumnsAndCells_alone : ∀ q, requesterWaits (passing .idle) q = true → q = .view :=
  viewOnly _ (by decide +kernel) (by decide +kernel) recorded_lanes

/-- A column of a NODATA pass and of one at, and one below, the oldest time; a channel enabled and not; changes of 0, 1 and 2
and records in time order; entries of none, one and two of a column, good and not. -/
theorem witness_PassColumnsAndCells_cells :
    (∀ b ∈ [false, true], ∀ t0 ∈ [9, 10],
      let p : Pass := ⟨⟨0, t0, 640, false, none, none⟩, [⟨.channel 0, 8⟩, ⟨.lane 2, 8⟩, ⟨.blank, 8⟩], none, 0, b, .idle, 0⟩
      p.rows.map (·.kind) = [.channel 0, .lane 2, .blank] ∧ p.noData = b ∧ (segAt recorded 0).oldest = some 10 ∧
      (10 ≤ columnStart p.snap.t0 p.snap.q p.col ↔ t0 = 10) ∧ (columnCells p recorded).length = 3) ∧
    (segAt recorded 0).mask.getLsbD 0 = true ∧
    (segment .stopped fun d => { d with mask := 2 }).mask.getLsbD 0 = false ∧
    (cellRecords.Pairwise fun x y => x.time ≤ y.time) ∧
    [changeCount cellRecords 1000 1002 4, changeCount cellRecords 1007 1010 4, changeCount cellRecords 1002 1005 4] =
      [0, 1, 2] ∧
    ([((1000 : Nat), (1002 : Nat)), (1004, 1005), (1000, 1005), (1009, 1010)].map fun ab =>
      (cellLog.filter fun e => e.lane.val = 2 ∧ e.start < ab.2 ∧ ab.1 ≤ e.endTick).map (·.code)) =
      [[.good], [.check], [.good, .check], [.good]] ∧
    (cellLog.filter fun e => e.lane.val = 2 ∧ e.start < 2001 ∧ 2000 ≤ e.endTick).isEmpty := by decide +kernel

/-- Row entries of LANE 5 and 6, BLANK and code 3; the levels 0, 1, 254 and 255; no frame scanned. -/
theorem witness_PanelCommandsAndSteps_rows :
    (field 0x00200501 0 2 = 1 ∧ field 0x00200501 8 8 ≤ 5) ∧ (field 0x00200601 0 2 = 1 ∧ 5 < field 0x00200601 8 8) ∧
    field 0x0020FF02 0 2 = 2 ∧ field 0x00200003 0 2 = 3 ∧ field 0x00200501 16 8 = 32 ∧
    (∀ n ∈ [(0 : BitVec 8), 1, 254, 255], let s := { st with panel := { st.panel with level := n } }
      s.panel.level = n ∧ (s.panel.level ≠ 0 ∧ s.panel.level ≠ 255 ↔ n = 1 ∨ n = 254)) ∧ st.panel.scan.isNone := by
  decide +kernel

/-- A frame scanned over a channel row and a lane row of height 8, with markers in columns 1, 2 and 3, column 0 of each class,
and the overlay empty but for one pixel. -/
def scanned (cell : Cell) : State :=
  let f : FrameBuffer := ⟨1, some st.view.snapshot, [⟨.channel 0, 8⟩, ⟨.lane 2, 9⟩], [[cell, cell]], some 1, some 2, some 3⟩
  { st with panel := { st.panel with running := true, scan := some ⟨f, f.rows⟩, overlay := [(800 * 8 + 799, 3)] } }

theorem witness_OverlayWritesItsRectangle_drawing (cell : Cell) :
    ∃ n : Scan, (scanned cell).panel.scan = some n ∧ n.rows = [⟨.channel 0, 8⟩, ⟨.lane 2, 9⟩] ∧
      n.front.cols = [[cell, cell]] ∧ n.front.colA = some 1 ∧ n.front.colB = some 2 ∧ n.front.colTrig = some 3 ∧
      Mem.read 0 (scanned cell).panel.overlay (800 * 8 + 799) = 3 ∧
      Mem.read 0 (scanned cell).panel.overlay (800 * 8 + 80) = 0 ∧ 79 < 80 ∧ (n.rows.map (·.height)).sum ≤ 17 ∧
      16 = ((n.rows.take 1).map (·.height)).sum + 8 ∧ 8 < 9 ∧ 8 ≤ 8 :=
  ⟨_, rfl, rfl, rfl, rfl, rfl, rfl, rfl, rfl, by decide, Nat.le_refl 17, rfl, by decide, by decide⟩

/-- An idle receiver and a payload one short, exact and one over; 7 queued in reception; a receiver that discards, and one
that drops 1 and 2 words. -/
theorem witness_PacketsAreReceivedIntoTheQueue_receivers :
    (headerLength 2 = 2 ∧ [(1 : Word)].length < 2 ∧ 2 < [(1 : Word), 2, 3].length) ∧
    (∀ n ∈ [6, 7], let u := { st.uplink with
        queue := List.replicate n ⟨1, [1], false⟩, rx := .receiving 2 [1] false }
      u.rx = .receiving 2 [1] false ∧ (u.queue.length < 7 ↔ n = 6) ∧ (7 ≤ u.queue.length ↔ n = 7) ∧ st.resetN = true) ∧
    (∀ rx ∈ [Receiver.receiving 2 [1] true, .dropping 1, .dropping 2],
      let u := { st.uplink with queue := List.replicate 7 ⟨1, [1], false⟩, rx := rx }
      u.rx = rx ∧ u.queue.length < 8) := by decide +kernel

/-- A stream and a frame readout ready at once by each turn; a readout filled by the next entry; the record readout with none
left, and with 255 held; the columns left 0, 1 and 2 over rows held and not. -/
theorem witness_TransmitterGrantsInOrder_sources :
    (∀ turn ∈ [false, true], ∀ stream ∈ [[], [frame 1]],
      let r : FrameReadout := ⟨0, 0, 4, 0, none, 0, 0, [frame 1], true, false⟩
      let s := { st with rpath := { st.rpath with stream := stream, readout := some r, turnReadout := turn } }
      s.resetN = true ∧ s.uplink.tx.isNone ∧ s.uplink.slot.isNone ∧ (∀ b : Fin 7, (s.events[b]).due = false) ∧
      r.packetReady (logAt s r.seg) = true ∧ s.rpath.turnReadout = turn ∧ s.rpath.stream = stream) ∧
    (let long : FrameRecord := { frame 1 with data := List.replicate 64 0 }
     let r : FrameReadout := ⟨0, 0, 4, 0, none, 0, 0, List.replicate 50 long, false, false⟩
     r.packetReady [long] = true ∧ r.mask.getLsbD long.lane = true) ∧
    (∀ k ∈ [(0, 1), (5, 255), (5, 254)],
      let r : RecordReadout := ⟨0, 0, 0, k.1, 0, List.replicate k.2 (change 1), false⟩
      r.finalSent = false ∧ ((r.remaining = 0 ∨ 255 ≤ r.held.length) ↔ k ≠ (5, 254))) ∧
    (∀ left ∈ [0, 1, 2], ∀ next ∈ [0, 1],
      let c : ColumnReadout := ⟨0, next, left, false⟩
      let s := { st with view := { st.view with
        columns := some c, front := ⟨1, none, [⟨.channel 0, 8⟩], [[.blank]], none, none, none⟩ } }
      s.view.columns = some c ∧ c.finalSent = false ∧ (c.left ≤ 1 ↔ left ≠ 2) ∧
      ((s.view.front.rows[c.next]?).isNone ↔ next = 1)) ∧
    (∀ x ∈ [TxSource.frames false, .records false, .columns false],
      ({ st.uplink with tx := some ⟨[], x⟩ } : Uplink).tx = some ⟨[], x⟩) := by decide +kernel

theorem witness_ResetsLeaveTheirValues_packets :
    (encodePacket (.setPod 0 1 2 3)).isSome ∧ (encodePacket (.loadFrameTable 0 0 registerWrites)).isSome ∧
    (encodePacket (.overlay 0 0 0 1 1 [0])).isSome ∧ (go st [.softReset 4]).uplink.resetPending = true ∧
    (go st [.run 4]).uplink.slot.isSome ∧ (go st [.resetNAsserted]).resetN = false := by decide +kernel

/-- Packets cut short; of type 4; of no payload and of too few words, each type; of the codes 0, 52, 1 with two arguments, 42,
3 and 43 with lists that disagree with their counts; of table kind 2. -/
theorem witness_PacketsDispatchTheirCommands_discards :
    (judgePacket ⟨0x01000000, [], false⟩ = .discard .badLength ∧ headerType 0x01000000 = 1) ∧
    (judgePacket ⟨0x02000000, [], false⟩ = .discard .badLength ∧ headerType 0x02000000 = 2) ∧
    judgePacket ⟨0x02000001, [0], false⟩ = .discard .badLength ∧
    judgePacket ⟨0x0200000C, 1 :: List.replicate 11 0, false⟩ = .discard .badLength ∧
    judgePacket ⟨0x02000001, [2], false⟩ = .discard .unknownCommand ∧
    (judgePacket ⟨0x03000003, [0, 0, 0], false⟩ = .discard .badLength ∧ headerType 0x03000003 = 3) ∧
    judgePacket ⟨0x01000003, [1, 0, 0], false⟩ = .discard .badLength ∧
    judgePacket ⟨0x01000001, [42], false⟩ = .discard .badLength ∧
    judgePacket ⟨0x01000003, [42, 2, 0], false⟩ = .discard .badLength ∧
    judgePacket ⟨0x01000002, [43, 0], false⟩ = .discard .badLength ∧
    judgePacket ⟨0x01000004, [3, 0, 2, 0], false⟩ = .discard .badLength ∧
    judgePacket ⟨0x01000001, [0], false⟩ = .discard .unknownCommand ∧
    judgePacket ⟨0x04000001, [0], false⟩ = .discard .unknownCommand := by decide +kernel

/-- LANE_STOP with kind 2, at the head of the queue. -/
theorem witness_PacketsDispatchTheirCommands_laneStop :
    let p : Packet := ⟨0x01050003, [27, 0, 2], false⟩
    let s := { st with uplink := { st.uplink with queue := [p] } }
    canDispatch s = true ∧ s.uplink.queue = p :: [] ∧ headerType p.header = 1 ∧ field 27 0 8 = 27 ∧ 2 ≤ (2 : Word).toNat ∧
    st.uplink.queue = [] := by decide +kernel

/-! ## Clauses over whole programs, tables, samples, segments and columns -/

/-- A counter at 5 with a compare value of 9 staged over 3, every mark set. -/
def marked : Counter := ⟨5, true, false, .sample, 3, 9, true, true, true⟩

/-- WAIT_ARM with arm time 7, four marked counters and a stage 0 with each action. -/
def armed (watch : Bool) : State :=
  sequenced fun t => { t with
    state := .waitArm, armTime := some 7, counters := Vector.replicate 4 marked
    stages := [{ Stage.cleared with actions := #v[.keep, .clear, .run, .halt], restartX := true, watch := watch }] }

/-- The counters after `armed` enters stage 0, worked out by R76. -/
def enteredCounters : Vector Counter 4 :=
  #v[⟨5, true, false, .sample, 9, 9, true, true, true⟩, ⟨0, true, false, .sample, 9, 9, false, false, false⟩,
    ⟨5, true, false, .sample, 9, 9, true, true, true⟩, ⟨5, false, false, .sample, 9, 9, true, true, true⟩]

/-- The wall clock set to the arm time and past it, STAGE_WATCH on and off; the same stage entered from RUNNING. -/
theorem witness_SequencerCommands_armed :
    ∀ watch ∈ [false, true],
      canDispatch (armed watch) = true ∧ (armed watch).trigger.state = .waitArm ∧
      (armed watch).trigger.armTime = some 7 ∧ (7 : Word).toNat ≤ (7 : Word).toNat ∧ (7 : Word).toNat ≤ (8 : Word).toNat ∧
      ((armed watch).trigger.stages.getD 0 Stage.cleared).watch = watch ∧
      (∀ c : CounterId, enteredCounters[c] =
        match ((armed watch).trigger.stages.getD 0 Stage.cleared).actions[c] with
        | .keep => { (armed watch).trigger.counters[c] with active := ((armed watch).trigger.counters[c]).staged }
        | .clear => { (armed watch).trigger.counters[c] with
            active := ((armed watch).trigger.counters[c]).staged, value := 0, matched := false, latch := false
            suppress := false }
        | .run => { (armed watch).trigger.counters[c] with
            active := ((armed watch).trigger.counters[c]).staged, running := true }
        | .halt => { (armed watch).trigger.counters[c] with
            active := ((armed watch).trigger.counters[c]).staged, running := false }) ∧
      (enterStage 0 (armed watch)).trigger.counters = enteredCounters := by decide +kernel

/-- A step that is suppressed, one below the compare value, one that meets it in HOLD and in WRAP. -/
theorem witness_CountersAndDividersRepeat_steps :
    marked.suppress = true ∧
    (∀ hold ∈ [false, true], (⟨2, true, hold, .sample, 3, 3, false, false, false⟩ : Counter).hold = hold) ∧
    (1 : Word) + 1 ≠ 3 ∧ (2 : Word) + 1 = 3 := by decide +kernel

/-- A tick's steps: each counter source, with dividers one below their ratio and two below, term values now and at the
previous evaluated sample. -/
theorem witness_CountersAndDividersRepeat_ticks :
    (∀ phase ∈ [2, 3], let d : DividerUnit := ⟨4, phase⟩
      (d.ratio ≤ d.phase + 1 ↔ phase = 3) ∧ (d.phase + 1 < d.ratio ↔ phase = 2)) ∧
    (∀ src ∈ [CounterSource.sample, .divX, .divY, .term (.pattern 7), .term (.edge 0), .term .glitch, .term .external,
        .term (.field 3), .term (.counter 1), .term .always], ∀ run ∈ [false, true],
      let t := { st.trigger with
        counters := st.trigger.counters.set 2 ⟨0, run, false, src, 3, 3, false, false, false⟩, divX := ⟨4, 3⟩ }
      (t.counters[(2 : CounterId)]).source = src ∧ (t.counters[(2 : CounterId)]).running = run) ∧
    (let v : TermValues := ⟨0x80, 1, true, true⟩
     v.pattern.getLsbD (7 : Fin 8) = true ∧ v.edge.getLsbD (0 : Fin 8) = true ∧ v.glitch = true ∧ v.external = true ∧
     st.trigger.prevTerms.pattern.getLsbD (7 : Fin 8) = false ∧ st.trigger.prevTerms.edge.getLsbD (0 : Fin 8) = false ∧
     st.trigger.prevTerms.glitch = false ∧ st.trigger.prevTerms.external = false) := by decide +kernel

/-- Units of each kind: a pattern on channels 0 and 31, LEVEL and ENTERED; edges of each direction; glitch. The previous sample
has channel 31 high and channel 0 low. -/
def sensing : Trigger :=
  { st.trigger with
    patterns := (Vector.replicate 8 none).set 0 (some ⟨0x80000001, 1, false⟩) |>.set 7 (some ⟨0x80000001, 1, true⟩)
    edges := (Vector.replicate 8 none).set 0 (some ⟨1, .rising⟩) |>.set 1 (some ⟨1, .falling⟩)
      |>.set 7 (some ⟨0x80000000, .both⟩)
    glitchUnit := some 0x10
    counters := (st.trigger.counters.set 1 { st.trigger.counters[1] with matched := true }).set 2
      { st.trigger.counters[2] with latch := true }
    latches := #v[some 5, none, none, none], prev := ⟨0x80000000, 0, 15, false, 0⟩ }

/-- The values of the terms at a sample with channel 0 high, channel 31 low, a glitch on channel 4 and TRIG_IN high, by R68 to
R70, and of conditions over them, by R71. -/
theorem witness_SequencerTakesTheTrigger_terms :
    let v := sensing.termValues ⟨1, 0x10, 15, true, 1⟩
    let quiet := { sensing with prev := ⟨1, 0, 15, false, 0⟩ }.termValues ⟨1, 0, 15, false, 1⟩
    let all := [TermSource.pattern 0, .pattern 7, .pattern 1, .edge 0, .edge 1, .edge 7, .edge 2, .glitch, .external, .always,
      .counter 0, .counter 1, .counter 2, .field 0, .field 1]
    all.map (sensing.sourceTrue v) = [true, true, false, true, false, true, false, true, true, true, false, true, true,
      true, false] ∧
    (all.take 9).map (sensing.sourceTrue quiet) = [true, false, false, false, false, false, false, false, false] ∧
    sensing.patterns[(7 : Fin 8)] = some ⟨0x80000001, 1, true⟩ ∧ sensing.patterns[(1 : Fin 8)] = none ∧
    sensing.edges[(2 : Fin 8)] = none ∧ sensing.glitchUnit = some 0x10 ∧ st.trigger.glitchUnit = none ∧
    [⟨[], true⟩, ⟨[], false⟩, ⟨[⟨.edge 1, false⟩, ⟨.edge 0, false⟩], true⟩, ⟨[⟨.edge 1, false⟩, ⟨.edge 0, false⟩], false⟩,
      ⟨[⟨.edge 1, true⟩, ⟨.edge 0, false⟩], false⟩, (⟨[⟨.edge 0, true⟩], true⟩ : Condition)].map (sensing.conditionTrue v) =
      [false, false, true, false, true, false] := by decide +kernel

/-- RUNNING in a stage whose conditions are as given, segment 0 current, latches at 5, 6 and none. -/
def staged (advance : Condition) (to_ : Target) (alternate : Option (Condition × Target)) (c : SeqState) : State :=
  let s := capturing (segment .filling id) 7
  { s with trigger := { s.trigger with
      state := c, latches := #v[some 6, some 5, none, none]
      stages := [⟨advance, to_, alternate, Vector.replicate 4 .keep, false, false, false⟩, Stage.cleared] } }

/-- A condition that is true with three FIELD terms, with FIELD terms whose latches are empty beside ALWAYS, and a false one,
as an advance to TRIGGER and as an alternate. -/
theorem witness_SequencerTakesTheTrigger_any :
    let fields : Condition := ⟨[⟨.field 0, false⟩, ⟨.field 1, false⟩, ⟨.field 2, false⟩, ⟨.always, false⟩], true⟩
    let empty : Condition := ⟨[⟨.field 2, false⟩, ⟨.always, false⟩], true⟩
    let no : Condition := ⟨[], false⟩
    (∀ c ∈ [fields, empty], ∀ s ∈ [staged c .trigger none .running, staged no .trigger (some (c, .trigger)) .running],
      let v := s.trigger.termValues Sample.zero
      let u := s.trigger.tickSteps true v
      s.capture.ctl = .capturing 0 ∧ 0 < s.capture.segs.length ∧ s.trigger.state = .running ∧ s.trigger.force = false ∧
      u.conditionTrue v c = true ∧ u.conditionTrue v no = false ∧ s.capture.inForce.hold = false ∧
      s.trigger.stages.length = 2) ∧
    ((staged fields .trigger none .running).trigger.latches[(1 : Fin 4)]).isSome ∧
    (∀ f : Fin 4, ⟨.field f, false⟩ ∈ empty.terms →
      (staged fields .trigger none .running).trigger.latches[f] = none) := by decide +kernel

/-- An advance to stage 1, an alternate to stage 1, no condition true; and the states in which a sample is only kept. -/
theorem witness_SequencerTakesTheTrigger_stages :
    let yes : Condition := ⟨[⟨.always, false⟩], false⟩
    let no : Condition := ⟨[], false⟩
    (∀ s ∈ [staged yes (.stage 1) none .running, staged no .trigger (some (yes, .stage 1)) .running,
        staged no (.stage 1) (some (no, .trigger)) .running, staged no (.stage 1) none .running],
      let v := s.trigger.termValues Sample.zero
      let u := s.trigger.tickSteps true v
      s.trigger.state = .running ∧ s.trigger.force = false ∧ u.conditionTrue v yes = true ∧
      u.conditionTrue v no = false) ∧
    (∀ c ∈ [SeqState.idle, .triggered, .waitArm], (staged yes .trigger none c).trigger.state = c ∧
      (staged yes .trigger none c).trigger.force = false) := by decide +kernel

/-- The first sample after RUN: stamped 0, in timing and in state mode; the sample is that of `recording_quiet`. -/
theorem witness_RecordsOfASample_first :
    ∀ m ∈ [Mode.timing, .state],
      let s0 := clocked .falling (recording true 0 0)
      let s := { s0 with
        time := { s0.time with fresh := true, tick := none, modeInForce := m }
        capture := { s0.capture with segs := [{ referenced 0 0 with mode := m }] } }
      s.time.sampling = true ∧ s.time.fresh = true ∧ s.time.modeInForce = m ∧ s.capture.ctl = .capturing 0 ∧
      0 < s.capture.segs.length ∧ (segAt s 0).mode = m ∧ (segAt s 0).overrun = none ∧ (segAt s 0).state = .filling ∧
      s.capture.queue.length + 2 ≤ 4096 ∧ s.trigger.state = .running ∧ s.trigger.force = false ∧
      (s.trigger.stages.getD s.trigger.stage Stage.cleared).advance.terms = [] ∧
      (s.trigger.stages.getD s.trigger.stage Stage.cleared).alternate = none ∧ s.capture.needStart = true ∧
      evaluatedSample s.time Sample.zero = true := by decide +kernel

/-- An END record for a ring of two with one record, full, and full and wrapped: its slot, and what the write leaves. -/
theorem witness_SegmentClosesAtItsEndRecord_slot :
    ∀ n ∈ [1, 2, 3],
      let q : Queued := ⟨0, ⟨.close, 15, 9, 1, 0⟩, false⟩
      let s := stored fun k => { k with
        ctl := .closing, dram := [(0, change 4), (1, change 6)], queue := [q]
        segs := [segment .closing fun d => { d with
          size := 2, retained := min n 2, written := n, oldest := some 4, newest := some 6 }] }
      let d := segAt s 0
      let t := go s [.arbiterGrant]
      s.capture.queue = q :: [] ∧ q.record.kind = .close ∧ Mem.wf Record.blank s.capture.dram = true ∧
      postFillDue s = false ∧ s.capture.rotation = .lane 5 ∧ 0 * d.size + d.written % d.size = n % 2 ∧
      (d.retained < d.size ↔ n = 1) ∧ (d.retained = d.size ↔ n ≠ 1) ∧ 1 < d.size ∧ (n ≠ 1 → d.size ≤ d.written) ∧
      Mem.read Record.blank t.capture.dram (n % 2) = q.record ∧ (segAt t 0).retained = 2 ∧
      (segAt t 0).flags.wrapped = decide (n ≠ 1) ∧
      (segAt t 0).oldest = some (match n with | 3 => 4 | 2 => 6 | _ => 4) ∧ (segAt t 0).newest = some 9 := by
  decide +kernel

/-- The ids that an image names, as the statement writes them. -/
def namedIn (w : Nat → Word) (c : Nat) : Bool :=
  decide ((c < 8 ∧ (w (1 + 3 * c)).getLsbD 0 = true) ∨ (8 ≤ c ∧ c < 16 ∧ (w (25 + 2 * (c - 8))).getLsbD 0 = true) ∨
    (c = 16 ∧ (w 41).getLsbD 0 = true) ∨ c = 17 ∨ (18 ≤ c ∧ c < 22) ∨
    (22 ≤ c ∧ c < 26 ∧ (w (53 + 8 * (c - 22))).getLsbD 0 = true) ∨ c = 26)

/-- The rules of the units, as the statement writes them. -/
def unitRules (w : Nat → Word) : Bool :=
  decide (∀ i ∈ List.range 8, field (w (25 + 2 * i)) 1 2 ≠ 3) &&
  decide (∀ i ∈ List.range 4, field (w (53 + 8 * i)) 16 2 ≠ 3 ∧ ((w (53 + 8 * i)).getLsbD 0 = true →
    field (w (53 + 8 * i)) 1 3 ≤ 5 ∧
    ((w (53 + 8 * i)).getLsbD 7 = true → 1 ≤ field (w (57 + 8 * i)) 8 3 ∧ field (w (57 + 8 * i)) 8 3 ≤ 4 ∧
      field (w (57 + 8 * i)) 0 6 + field (w (57 + 8 * i)) 8 3 ≤ 64) ∧
    ((w (53 + 8 * i)).getLsbD 8 = true → (w (60 + 8 * i)).toNat ≤ 65535))) &&
  decide (∀ i ∈ List.range 4, field (w (43 + 2 * i)) 1 2 = 3 → namedIn w (field (w (43 + 2 * i)) 8 5) = true ∧
    ¬(18 ≤ field (w (43 + 2 * i)) 8 5 ∧ field (w (43 + 2 * i)) 8 5 < 22) ∧ field (w (43 + 2 * i)) 8 5 ≠ 26)

/-- The rules of the stages of a program of two, as the statement writes them. -/
def stageRules (w : Nat → Word) : Bool :=
  decide (∀ j ∈ List.range 2, field (w (87 + 4 * j)) 0 3 ≤ 4 ∧
    ((List.range (field (w (87 + 4 * j)) 0 3)).all fun k => namedIn w (field (w (85 + 4 * j)) (8 * k) 5)) = true ∧
    (field (w (87 + 4 * j)) 4 4 < 2 ∨ field (w (87 + 4 * j)) 4 4 = 8)) &&
  decide (∀ j ∈ List.range 2, (w (87 + 4 * j)).getLsbD 8 = true → field (w (87 + 4 * j)) 9 3 ≤ 4 ∧
    ((List.range (field (w (87 + 4 * j)) 9 3)).all fun k => namedIn w (field (w (86 + 4 * j)) (8 * k) 5)) = true ∧
    (field (w (87 + 4 * j)) 13 4 < 2 ∨ field (w (87 + 4 * j)) 13 4 = 8))

/-- The watchdog with words changed. -/
def changed (cs : List (Nat × Word)) (i : Nat) : Word :=
  (cs.foldl (fun ws c => ws.set c.1 c.2) watchdog).getD i 0

/-- The watchdog keeps every rule; with one word changed it breaks one: an edge code of 3, a comparator's lane 6, its data
length 5, its unit count 65,536, a counter source that is a counter or an undefined unit, five terms, an undefined term, a
target of stage 2, and an alternate with one. A data comparison of bytes 60 to 63, and lane 5, keep them. -/
theorem witness_LoadTriggerJudgedInOrder_rules :
    watchdog.length = 85 + 4 * 2 ∧ (changed [] 0).toNat = 2 ∧
    (∀ cs ∈ [[], [(53, 0x8B), (57, 0x43C)]], (unitRules (changed cs) && stageRules (changed cs)) = true) ∧
    (∀ cs ∈ [[(27, 6)], [(53, 0x0D)], [(53, 0x8B), (57, 0x500)], [(53, 0x8B), (57, 0x43D)],
        [(53, 0x10B), (60, 0x10000)], [(43, 0x1207)], [(43, 0x0007)], [(87, 0x15)], [(85, 0)], [(87, 0x21)],
        [(91, 0x4381)]], (unitRules (changed cs) && stageRules (changed cs)) = false) := by
  decide +kernel

/-- The sources by their ids, as the statement numbers them. -/
def sourceOf (c : Nat) : TermSource :=
  if h : c < 8 then .pattern ⟨c, h⟩ else if h : c < 16 then .edge ⟨c - 8, by omega⟩ else if c = 16 then .glitch
  else if c = 17 then .external else if h : c < 22 then .counter ⟨c - 18, by omega⟩
  else if h : c < 26 then .field ⟨c - 22, by omega⟩ else .always

/-- Tables of the codes, and the watchdog's stages, units and counters, that meet the equations of an accepted program. -/
theorem witness_LoadTriggerJudgedInOrder_program :
    let w := changed []
    let cond := fun (terms : Word) (count : Nat) (any : Bool) =>
      (⟨(List.range count).map fun k => ⟨sourceOf (field terms (8 * k) 5), terms.getLsbD (8 * k + 7)⟩, any⟩ : Condition)
    (∀ k : Fin 8, sourceOf k.val = .pattern k ∧ sourceOf (8 + k.val) = .edge k) ∧ sourceOf 16 = .glitch ∧
    sourceOf 17 = .external ∧ sourceOf 26 = .always ∧
    (∀ k : Fin 4, sourceOf (18 + k.val) = .counter k ∧ sourceOf (22 + k.val) = .field k) ∧
    cond (w 85) (field (w 87) 0 3) ((w 87).getLsbD 3) = ⟨[⟨.always, false⟩], false⟩ ∧
    cond (w 89) (field (w 91) 0 3) ((w 91).getLsbD 3) = ⟨[⟨.counter 0, false⟩], false⟩ ∧
    cond (w 90) (field (w 91) 9 3) ((w 91).getLsbD 12) = ⟨[⟨.edge 0, false⟩], false⟩ ∧
    [field (w 87) 4 4, field (w 91) 4 4, field (w 91) 13 4] = [1, 8, 1] ∧
    ((w 87).getLsbD 8, (w 91).getLsbD 8) = (false, true) ∧
    [field (w 88) 0 2, field (w 92) 0 2, field (w 92) 2 2] = [2, 1, 0] ∧
    ([8, 9, 10].map fun k => ((w 88).getLsbD k, (w 92).getLsbD k)) = [(false, true), (false, false), (false, false)] ∧
    (field (w 43) 1 2, (w 43).getLsbD 0, (w 44), field (w 45) 1 2) = (1, true, 3, 0) := by
  decide +kernel

/-- Entry `j` of an image of `n` entries breaks a rule of R103, as the statement writes it; `e j k` is word `k` of entry `j`. -/
def faultyEntry (n : Nat) (endOnLast : Bool) (e : Nat → Nat → Word) (j : Nat) : Bool :=
  decide (5 < field (e j 0) 16 3 ∨ field (e j 0) 8 6 = 0 ∨ 32 < field (e j 0) 8 6 ∨
    (field (e j 0) 20 2 ≠ 0 ∧ field (e j 0) 16 3 ≠ 3)) ||
  decide (field (e j 0) 20 2 = 1 ∧ (field (e j 1) 0 9 = 0 ∨ 256 < field (e j 1) 0 9)) ||
  decide (field (e j 0) 20 2 = 2 ∧ (j ≤ field (e j 1) 0 5 ∨ field (e (field (e j 1) 0 5) 0) 16 3 ≠ 2 ∨
    (8 < field (e j 1) 16 5 ∧ field (e j 1) 16 5 < 24))) ||
  decide (field (e j 0) 20 2 = 3 ∧ (j + 1 ≠ n ∨ endOnLast = true)) ||
  decide (field (e j 0) 16 3 = 4 ∧ (e j 0).getLsbD 22 = true) ||
  decide ((e j 0).getLsbD 23 = true ∧ (field (e j 0) 20 2 ≠ 0 ∨ field (e j 0) 16 3 = 4 ∨ field (e j 0) 24 5 ≤ j ∨
    n ≤ field (e j 0) 24 5)) ||
  decide (16 < ((List.range (j + 1)).filter fun i => field (e i 0) 16 3 ≠ 3).length) ||
  decide (4 < ((List.range (j + 1)).filter fun i => (e i 0).getLsbD 23).length)

/-- The first entry of an image that breaks a rule. -/
def firstFaulty (image : List Word) : Option Nat :=
  let n := (image.getD 10 0).toNat
  (List.range n).find? (faultyEntry n ((image.getD 5 0).getLsbD 0) fun j k => image.getD (11 + 4 * j + k) 0)

/-- An image over a TWO-WIRE front end with the given entries. -/
def tableOf (entries : List (List Word)) : List Word :=
  [0x00010002, 0, 0, 16, 100, 0, 0, 0, 0, 0, BitVec.ofNat 32 entries.length] ++ entries.flatten

/-- An entry of role and width only; `x` adds the other fields. -/
def entryOf (role width x : Nat) (w1 : Nat) : List Word :=
  [BitVec.ofNat 32 (width * 256 + role * 65536 + x), BitVec.ofNat 32 w1, 0, 0]

/-- What entry is answered for: none in the table of section 5.8.1; then role 6, width 0 and 33, a repetition out of DATA, FIXED 0 and
257, BY_LENGTH of itself, of a role other than LENGTH and with offset 9, TO_END before the end and with END ON LAST, a CHECK
entry that the check covers, a branch of a repeating entry, to itself and past the end, the seventeenth entry that is no
DATA entry, and the fifth branch. The model answers the same index. -/
def entryFaults : List (List Word × Option Nat) :=
  let data := entryOf 3 8
  [(registerWrites, none), (tableOf [entryOf 6 8 0 0], some 0), (tableOf [data 0 0, entryOf 3 0 0 0], some 1),
    (tableOf [entryOf 3 33 0 0], some 0), (tableOf [entryOf 5 8 0x100000 1], some 0), (tableOf [data 0x100000 0], some 0),
    (tableOf [data 0x100000 257], some 0), (tableOf [data 0x100000 256], none), (tableOf [data 0x200000 0], some 0),
    (tableOf [data 0 0, data 0x200000 0], some 1), (tableOf [entryOf 2 8 0 0, data 0x200000 0x90000], some 1),
    (tableOf [entryOf 2 8 0 0, data 0x200000 0x180000], none), (tableOf [data 0x300000 0, data 0 0], some 0),
    ((tableOf [data 0x300000 0]).set 5 1, some 0), (tableOf [data 0x300000 0], none),
    (tableOf [data 0 0, entryOf 4 8 0x400000 0], some 1), (tableOf [data 0x01900000 1, data 0 0], some 0),
    (tableOf [data 0 0, data 0x01800000 0], some 1), (tableOf [data 0x01800000 0], some 0),
    (tableOf (List.replicate 17 (entryOf 5 8 0 0)), some 16), (tableOf (List.replicate 16 (entryOf 5 8 0 0)), none),
    (tableOf (List.replicate 5 (data 0x06800000 0) ++ [data 0 0, data 0 0]), some 4),
    (tableOf (List.replicate 4 (data 0x06800000 0) ++ List.replicate 3 (data 0 0)), none)]

theorem witness_FrameTableCommandsJudgedInOrder_entries :
    ∀ x ∈ entryFaults, firstFaulty x.1 = x.2 ∧ x.1.length = 11 + 4 * (x.1.getD 10 0).toNat ∧
      (x.1.getD 10 0).toNat ≤ 32 ∧
      (match parseTable x.1 with
        | .ok _ => none
        | .error i => some i.toNat) = x.2 := by decide +kernel

/-- What an image without a faulty entry is answered: 32, 33 or 34, or its charge. -/
def judged (image : List Word) : Nat :=
  match parseTable image with
  | .ok _ => 0
  | .error i => i.toNat

/-- START-STOP with a period of 512, and of 511 and 16,777,217, data bits of 4 and 10, parity 5 and stop bits 3; STROBED with four
data channels of width 4, and with edge code 3, no data channel, width 3, a data channel twice and channel 32; TWO-WIRE on one
channel; front end 3. Then a units limit of 0 and of 257 and a gap of 0. Then a check of kind 5; a CHECK entry with no check
and a check with no CHECK entry, or with one of another width; a CRC8 parameter of 256 and a CRC16 parameter of 65,536. -/
theorem witness_FrameTableCommandsJudgedInOrder_parameters :
    let one := fun (a b c : Word) => (tableOf [entryOf 3 8 0 0]).set 0 a |>.set 1 b |>.set 2 c
    let chk := fun (w6 w7 : Word) (width : Nat) => (tableOf [entryOf 4 width 0 0]).set 6 w6 |>.set 7 w7
    (∀ image ∈ [one 0x00050000 512 0, one 0x00490000 16777216 0, one 0x04020101 0x05040302 4, one 2 0 0 |>.set 0 0x0102,
        tableOf [entryOf 3 8 0 0] |>.set 3 256, chk 4 65535 16, chk 3 255 8], judged image = 0 ∧ firstFaulty image = none) ∧
    (∀ image ∈ [one 0x00050000 511 0, one 0x00050000 16777217 0, one 0x00040000 512 0, one 0x000A0000 512 0,
        one 0x00550000 512 0, one 0x03050000 512 0, one 0x04026101 0x05040302 4, one 0x00020101 0x05040302 4,
        one 0x04020101 0x05040302 3, one 0x04020101 0x05040202 4, one 0x04020101 0x20040302 4, one 0x00010102 0 0,
        one 3 0 0], judged image = 32 ∧ firstFaulty image = none) ∧
    (∀ image ∈ [tableOf [entryOf 3 8 0 0] |>.set 3 0, tableOf [entryOf 3 8 0 0] |>.set 3 257,
        tableOf [entryOf 3 8 0 0] |>.set 4 0], judged image = 33 ∧ firstFaulty image = none) ∧
    (∀ image ∈ [chk 5 0 8, chk 0 0 8, tableOf [entryOf 3 8 0 0] |>.set 6 1, chk 1 0 16, chk 4 0 8, chk 3 256 8,
        chk 4 65536 16], judged image = 34 ∧ firstFaulty image = none) := by decide +kernel

/-- A reset due once its RESPONSE is sent, with a receiver at rest, receiving and dropping; links with their glitch widths
cleared. -/
theorem witness_ResetsLeaveTheirValues_sent :
    ∀ rx ∈ [Receiver.idle, .receiving 2 [1] false, .receiving 2 [1] true, .dropping 2],
      let s0 := modLink 3 (fun k => { k with state := .up, wait := some 5, glitchWidth := 7 }) (go st [.softReset 4, .transmitGrant])
      let s := { s0 with uplink := { s0.uplink with rx := rx }, panel := { s0.panel with running := true } }
      let t := go s [.upstreamPacketSent]
      s.uplink.tx = some ⟨[0x08040001, 0x00001033], .response⟩ ∧ s.uplink.resetPending = true ∧ s.uplink.rx = rx ∧
      (∀ p : Pod, (t.pods.links[p]).glitchWidth = 0) ∧ (t.pods.links[(3 : Pod)]).wait = some 5 ∧
      t.uplink.rx = (match rx with
        | .receiving h ws _ => .receiving h ws true
        | r => r) ∧ t.panel.running = true := by decide +kernel

/-- A LIVE lane with a complete unit, in CAPTURING and in MONITOR, and a replay that stores and one that does not; the error
counts 0 and 2. -/
theorem witness_LaneStopByState_complete :
    (∀ c ∈ [LaneState.inFrame, .draining], ∀ n ∈ [0, 2], ∀ r ∈ [none, some true, some false],
      let ln := { framed c (some 9) with
        errors := n, isReplay := r.isSome, replay := r.map fun b => ⟨0, 5, 60, b, 0, 0, none⟩ }
      let s0 := capturing (segment .filling id) 7
      let s := { s0 with tables := (laned ln).tables, lanes := (laned ln).lanes, trigger := st.trigger }
      canDispatch s = true ∧ s.lanes[(2 : LaneId)] = ln ∧ ln.state = c ∧ (s.tables.slots[(2 : LaneId)]).table = some table ∧
      gapDue table ln = false ∧ ln.frame = some (openedFrame (some 9)) ∧ (openedFrame (some 9)).lastEnd = some 9 ∧
      ln.errors < 3 ∧ (ln.errors < 2 ↔ n = 0) ∧ s.capture.ctl = .capturing 0 ∧ s.trigger.state ≠ .running ∧
      0 < s.capture.segs.length ∧ (segAt s 0).oldest.getD (segAt s 0).startTime ≤ (openedFrame (some 9)).start ∧
      s.rpath.logQueue.length < 64 ∧ s.rpath.mask.getLsbD (2 : LaneId) = false) ∧
    st.capture.ctl = .idle := by decide +kernel

/-- The third consecutive error of a DRAINING lane, and a GOOD frame after two errors. -/
theorem witness_FrameEndJudgesAndHandsOver_draining :
    let ln := { framed .draining (some 9) with errors := 2 }
    let short := endFrame table 2 50 false false false ln
    let good := endFrame table 2 50 false false false { ln with pos := ⟨1, none⟩ }
    ln.state = .draining ∧ ln.errors = 2 ∧ short.frame.map (·.record.code) = some .short ∧ short.sync = true ∧
    good.frame.map (·.record.code) = some .good ∧ good.sync = false := by decide +kernel

/-- Records at 10, 12 and 20: a from time of 10, to which none is below; of 12 and 13, the latest below being the first and the
second. -/
theorem witness_MeasureAndColumnReadoutJudged_first :
    canDispatch recorded = true ∧ recorded.view.pass = none ∧ recorded.view.meas = .none ∧
    (List.range (segAt recorded 0).retained).map (fun x => (recordAt recorded 0 x).time) = [10, 12, 20] ∧
    (segAt recorded 0).mask.getLsbD 0 = true ∧ (segAt recorded 0).written - (segAt recorded 0).retained = 0 ∧
    ([10, 12, 13].map fun f => match (go recorded [.measure 0 0 0 (BitVec.ofNat 64 f) 19]).view.meas with
      | .running m => some (m.next, m.upTo)
      | _ => none) = [some (0, 10), some (0, 12), some (1, 13)] := by decide +kernel

/-- Columns over the records of section 8.2.1: counts of 0, 1 and 2 and the levels before them; a column at the oldest record. -/
theorem witness_PassColumnsAndCells_count :
    cellRecords = (cellRecords.headD (change 0)) :: cellRecords.tail ∧
    (cellRecords.Pairwise fun x y => x.time ≤ y.time) ∧
    ([((1000 : Nat), (1002 : Nat)), (1007, 1010), (1002, 1005), (200, 995)].map fun ab =>
      ((List.range cellRecords.tail.length).filter fun j => decide (ab.1 ≤ (cellRecords.getD (j + 1) (change 0)).time ∧
        (cellRecords.getD (j + 1) (change 0)).time < ab.2 ∧
        (cellRecords.getD (j + 1) (change 0)).levels.getLsbD 4 ≠ (cellRecords.getD j (change 0)).levels.getLsbD 4)).length) =
      [0, 1, 2, 0] ∧
    (cellRecords.headD (change 0)).time = 200 ∧ (cellRecords.getD 1 (change 0)).time < 1000 ∧
    1000 ≤ (cellRecords.getD 2 (change 0)).time := by decide +kernel

/-- A view request over a segment with records: with no pass, it starts one over a back buffer cleared of its columns; with one,
it waits and the back buffer stays. -/
theorem witness_ViewportCommandsMakeRequests_requests :
    (∀ busy ∈ [false, true],
      let s0 := passing .idle
      let s := { s0 with view := { s0.view with
        pass := if busy then s0.view.pass else none, back := { s0.view.back with cols := [[.blank]] } } }
      let t := go s [.setView 0 0 12 256 0]
      canDispatch s = true ∧ (segAt s 0).state ≠ .empty ∧ s.view.measuring = false ∧ s.view.pass.isSome = busy ∧
      t.view.pending.isSome = busy ∧ t.view.back.cols = (if busy then [[.blank]] else []) ∧ t.view.pass.isSome ∧
      t.view.t0 = 12 ∧ t.view.q = 256) := by decide +kernel

/-- A lane in HUNT with its table charged. -/
def hunting : State := laned { Lane.reset with state := .hunt }

theorem witness_EveryStepKeepsTheDecodeSideInForm : decodeInForm hunting ∧ step hunting = .next hunting := by
  unfold decodeInForm poolBalanced lanesHaveTables lanesInForm
  refine ⟨⟨by decide +kernel, by decide +kernel, fun l => ?_⟩, rfl⟩
  have h : ∀ l : LaneId, (hunting.lanes[l]).frame = none ∧ (hunting.lanes[l]).errors = 0 ∧
      (hunting.lanes[l]).isReplay = false ∧ (hunting.lanes[l]).state ≠ .inFrame ∧
      (hunting.lanes[l]).state ≠ .draining := by decide +kernel
  obtain ⟨h1, h2, h3, h4, h5⟩ := h l
  rw [h1, h2, h3]
  refine ⟨?_, by decide, fun _ x => Bool.noConfusion x, fun f x => absurd x (by simp)⟩
  exact ⟨fun x => Bool.noConfusion x, fun x => (x.elim h4 h5).elim⟩

/-- MONITOR with sampling RUNNING. -/
theorem witness_EveryStepKeepsTheCaptureInFormAndRuns : captureInForm (monitoring false (some 7)) := by
  unfold captureInForm settingsValid layoutHolds samplingFitsController sequencerFitsController
  refine ⟨by decide +kernel, by decide +kernel,
    ⟨by decide +kernel, by decide +kernel, by decide +kernel, by decide +kernel, by decide +kernel, ?_, by decide +kernel⟩, rfl, ?_⟩
  · intro i h
    exact absurd (show CaptureState.monitor = .capturing i from h) (by simp)
  · exact ⟨fun _ i h => absurd (show CaptureState.monitor = .capturing i from h) (by simp), fun _ => rfl⟩

/-- A listed record, a listed pixel, an enabled event with its notice due, and settings and counts at the ends of their
ranges. -/
def edgeOfForm : State :=
  { stored (fun c => { c with dram := [(3, change 1)] }) with
    panel := { st.panel with
      overlay := [(5, 9)], rowMap := ⟨.blank, 8⟩ :: List.replicate 23 ⟨.channel 31, 32⟩ }
    events := st.events.set 1 ⟨1, 1, true⟩
    time := { st.time with subsecond := 32767, corrAmount := 63 }
    pods := { st.pods with
      links := #v[{ PodLink.reset with state := .training, lockRun := 15, words := 1023, badRun := 3 },
        { PodLink.reset with state := .up, lockRun := 16, words := 1024, badRun := 2, wait := some 63, code := 8 },
        { PodLink.reset with state := .fault, words := 1024, badRun := 3, code := 248 },
        { PodLink.reset with glitchWidth := 7 }]
      deskew := 15 :: List.replicate 31 0 }
    view := { st.view with q := 1099511627776, t0 := 281474976710655 }
    trigger := { st.trigger with divX := ⟨65536, 65535⟩, divY := ⟨1, 0⟩ } }

theorem witness_EveryStepKeepsTheStoresInForm : storesInForm edgeOfForm := by
  unfold storesInForm memoriesCanonical queuesBounded noticesHaveEvents wallClockInRange settingsInRange podsInRange
    viewportInRange rowMapInRange dividersInRange DividerUnit.inRange PodLink.inRange
  decide +kernel

end Sys2Proof.Tests
end

section
/-! The proof that SET_COUNTER writes the value and suppresses the next match (R79). -/

namespace Sys2Proof.Machine

/-! ## A command that may be dispatched -/

/-- A COMMAND packet that may be dispatched is taken, and its reply stands in the response slot (R198). -/
theorem runCommand_answered (tag : Tag) (code : BitVec 8) (f : Command) (s : State) (h : canDispatch s = true) :
    runCommand tag typeCommand code f s = .next (answered tag code (f s).1.rc (f s).1.words (f s).2) := by
  rw [runCommand, if_pos h]
  rfl

theorem exec_setCounter_answered (tag : Tag) (k value : Word) (s : State) (h : canDispatch s = true) :
    exec (.setCounter tag k value) s =
      .next (answered tag 20 (cmdSetCounter k value s).1.rc (cmdSetCounter k value s).1.words
        (cmdSetCounter k value s).2) :=
  runCommand_answered tag 20 (cmdSetCounter k value) s h

/-! ## The counter that an index names -/

theorem counterOf_eq_none {k : Word} (h : 3 < k.toNat) : counterOf k = none :=
  dif_neg (by omega)

theorem counterOf_eq_some {k : Word} {i : CounterId} (h : k.toNat = i.val) : counterOf k = some i := by
  have hk : k.toNat < 4 := h ▸ i.isLt
  rw [counterOf, dif_pos hk, Option.some_inj]
  exact Fin.ext h

theorem cmdSetCounter_refused {k : Word} (h : counterOf k = none) (value : Word) (s : State) :
    cmdSetCounter k value s = refuse .badArgument s := by
  rw [cmdSetCounter, h]

theorem cmdSetCounter_accepted {k : Word} {i : CounterId} (h : counterOf k = some i) (value : Word) (s : State) :
    cmdSetCounter k value s = accept [] (setTrigger
      { s.trigger with counters := s.trigger.counters.set i ((s.trigger.counters[i]).write value) } s) := by
  rw [cmdSetCounter, h]

/-! ## A written counter -/

/-- The step after a write clears the suppression and cannot match, whatever the compare value (R78, R79). -/
theorem Counter.write_step (c : Counter) (value : Word) :
    (c.write value).step = { c.write value with value := value + 1, suppress := false } :=
  (step_spec (c.write value)).1 rfl

theorem Counter.write_matchDue (c : Counter) (value : Word) : (c.write value).matchDue = false := by
  simp [Counter.matchDue, Counter.write]

/-! ## SET_COUNTER -/

theorem exec_setCounter_refused (tag : Tag) {k : Word} (value : Word) {s : State} (h : canDispatch s = true)
    (hk : 3 < k.toNat) :
    exec (.setCounter tag k value) s = .next (answered tag 20 .badArgument [] s) := by
  rw [exec_setCounter_answered tag k value s h, cmdSetCounter_refused (counterOf_eq_none hk)]
  rfl

theorem exec_setCounter_accepted (tag : Tag) {k : Word} {i : CounterId} (value : Word) {s : State}
    (h : canDispatch s = true) (hk : k.toNat = i.val) :
    exec (.setCounter tag k value) s = .next (answered tag 20 .ok [] { s with trigger := { s.trigger with
      counters := s.trigger.counters.set i ((s.trigger.counters[i]).write value) } }) := by
  rw [exec_setCounter_answered tag k value s h, cmdSetCounter_accepted (counterOf_eq_some hk)]
  rfl

/-- Whatever the counter came to be before the write, it is that counter which is written: nothing of the value it
replaced is left. -/
theorem exec_setCounter_after_change (tag : Tag) {k : Word} {i : CounterId} (value : Word) {s : State} (c : Counter)
    (h : canDispatch s = true) (hk : k.toNat = i.val) :
    exec (.setCounter tag k value)
        { s with trigger := { s.trigger with counters := s.trigger.counters.set i c } } =
      .next (answered tag 20 .ok [] { s with trigger := { s.trigger with
        counters := s.trigger.counters.set i (c.write value) } }) := by
  have hd : canDispatch { s with trigger := { s.trigger with counters := s.trigger.counters.set i c } } = true := h
  rw [exec_setCounter_accepted tag value hd hk]
  simp

/-- The written counter in the state that SET_COUNTER leaves. -/
theorem exec_setCounter_counter (tag : Tag) {k : Word} {i : CounterId} (value : Word) {s t : State}
    (h : canDispatch s = true) (hk : k.toNat = i.val) (ht : exec (.setCounter tag k value) s = .next t) :
    t.trigger.counters[i] = (s.trigger.counters[i]).write value := by
  rw [exec_setCounter_accepted tag value h hk] at ht
  cases ht
  simp [answered]

/-- Settles O33: an index above 3 names no counter; otherwise the addressed counter is written, and the write sets the
suppression that makes its next step no match. -/
theorem setCounterWritesAndSuppresses : Obligations.SetCounterWritesAndSuppresses := by
  intro tag k value s h
  refine ⟨exec_setCounter_refused tag value h, fun i hk => ⟨?_, ?_, ?_⟩⟩
  · exact exec_setCounter_accepted tag value h hk
  · intro t ht
    rw [exec_setCounter_counter tag value h hk ht]
    exact ⟨Counter.write_step _ value, Counter.write_matchDue _ value⟩
  · exact exec_setCounter_after_change tag value (s.trigger.counters[i]).step h hk

end Sys2Proof.Machine
end

section
/-! The proof that CLEAR_EVENTS and SET_ENABLES set a block's events, enables and notice-due flag (R204, R205), and that
ATTN shows a pending event (R206, R210). -/

namespace Sys2Proof.Machine

/-! ## A taken command's reply -/

theorem runCommand_refused (tag : Tag) (code : BitVec 8) {f : Command} {rc : RespCode} {s : State}
    (hs : canDispatch s = true) (hf : f s = refuse rc s) :
    runCommand tag typeCommand code f s = .next (answered tag code rc [] s) := by
  rw [runCommand_answered tag code f s hs, hf]
  rfl

theorem runCommand_accepted (tag : Tag) (code : BitVec 8) {f : Command} {words : List Word} {s t : State}
    (hs : canDispatch s = true) (hf : f s = accept words t) :
    runCommand tag typeCommand code f s = .next (answered tag code .ok words t) := by
  rw [runCommand_answered tag code f s hs, hf]
  rfl

/-! ## A word as a set of events -/

theorem word_ne_zero_iff (v : Word) : v ≠ 0 ↔ ∃ k : Nat, v.getLsbD k = true := by
  constructor
  · intro hv
    by_contra hnone
    exact hv (BitVec.eq_of_getLsbD_eq fun k _ => by simpa using not_exists.mp hnone k)
  · rintro ⟨k, hk⟩ rfl
    simp at hk

theorem getLsbD_and_not (v m : Word) (k : Nat) :
    (v &&& ~~~m).getLsbD k = (v.getLsbD k && !m.getLsbD k) := by
  by_cases hk : k < 32
  · simp [hk]
  · simp [BitVec.getLsbD_of_ge v k (not_lt.mp hk)]

/-! ## The operations on an event set -/

namespace EventSet

theorem pendingEvents_ne_zero_iff (e : EventSet) :
    e.pendingEvents ≠ 0 ↔ ∃ k : Nat, e.events.getLsbD k = true ∧ e.enables.getLsbD k = true := by
  simp only [pendingEvents, word_ne_zero_iff, BitVec.getLsbD_and, Bool.and_eq_true]

@[simp] theorem raise_set (e : EventSet) (m : Word) : (e.raise m).events = e.events ||| m := rfl

theorem raise_due_of_newly_pending (e : EventSet) {m : Word} (h : m &&& ~~~e.events &&& e.enables ≠ 0) :
    (e.raise m).due = true := by
  simp only [raise, bne_iff_ne.mpr h, Bool.or_true]

@[simp] theorem clear_enables (e : EventSet) (m : Word) : (e.clear m).enables = e.enables := rfl

theorem clear_events_getLsbD (e : EventSet) (m : Word) (k : Nat) :
    (e.clear m).events.getLsbD k = (e.events.getLsbD k && !m.getLsbD k) :=
  getLsbD_and_not e.events m k

/-- The flag stays only while the cleared set has a pending event (R204). -/
theorem clear_due (e : EventSet) (m : Word) :
    (e.clear m).due = (e.due && (e.clear m).pendingEvents != 0) := rfl

theorem clear_due_of_none_pending (e : EventSet) {m : Word} (h : (e.clear m).pendingEvents = 0) :
    (e.clear m).due = false := by
  rw [clear_due, h, bne_self_eq_false, Bool.and_false]

theorem clear_due_of_pending (e : EventSet) {m : Word} (h : (e.clear m).pendingEvents ≠ 0) :
    (e.clear m).due = e.due := by
  rw [clear_due, bne_iff_ne.mpr h, Bool.and_true]

@[simp] theorem enable_events (e : EventSet) (m : Word) : (e.enable m).events = e.events := rfl

@[simp] theorem enable_enables (e : EventSet) (m : Word) : (e.enable m).enables = m := rfl

/-- The flag is kept or newly set, and stays only while the mask enables a set event (R205). -/
theorem enable_due (e : EventSet) (m : Word) :
    (e.enable m).due = ((e.due || (e.events &&& m &&& ~~~e.enables) != 0) && (e.events &&& m) != 0) := rfl

theorem enable_due_of_none_pending (e : EventSet) {m : Word} (h : e.events &&& m = 0) : (e.enable m).due = false := by
  rw [enable_due, h, bne_self_eq_false, Bool.and_false]

theorem enable_due_of_none_new (e : EventSet) {m : Word} (h : e.events &&& m ≠ 0)
    (hnew : e.events &&& m &&& ~~~e.enables = 0) : (e.enable m).due = e.due := by
  rw [enable_due, hnew, bne_self_eq_false, Bool.or_false, bne_iff_ne.mpr h, Bool.and_true]

/-- A set event that the mask newly enables is itself pending, so the flag is set and no test takes it away (R205). -/
theorem enable_due_of_newly_enabled (e : EventSet) {m : Word} {k : Nat} (hset : e.events.getLsbD k = true)
    (hwas : e.enables.getLsbD k = false) (hm : m.getLsbD k = true) : (e.enable m).due = true := by
  have hpending : e.events &&& m ≠ 0 := (word_ne_zero_iff _).mpr ⟨k, by simp [hset, hm]⟩
  have hnew : e.events &&& m &&& ~~~e.enables ≠ 0 :=
    (word_ne_zero_iff _).mpr ⟨k, by rw [getLsbD_and_not]; simp [hset, hm, hwas]⟩
  rw [enable_due, bne_iff_ne.mpr hnew, Bool.or_true, bne_iff_ne.mpr hpending, Bool.and_true]

end EventSet

/-! ## The block and the mask that a command names -/

theorem blockOf_eq_none {block : Word} (h : 6 < block.toNat) : blockOf block = none :=
  dif_neg (by omega)

theorem blockOf_eq_some {block : Word} {b : Fin 7} (h : block.toNat = b.val) : blockOf block = some b := by
  have hlt : block.toNat < 7 := h ▸ b.isLt
  rw [blockOf, dif_pos hlt, Option.some_inj]
  exact Fin.ext h

/-- The numbers of events of section 10.5, in block order. -/
theorem eventCount_eq_getD : ∀ b : Fin 7, eventCount b = [20, 5, 3, 24, 1, 2, 1].getD b.val 0 := by decide

theorem maskFits_iff (b : Fin 7) (mask : Word) :
    maskFits b mask = true ↔ mask.toNat < 2 ^ [20, 5, 3, 24, 1, 2, 1].getD b.val 0 := by
  rw [maskFits, decide_eq_true_iff, eventCount_eq_getD]

/-- What R204 and R205 refuse: no block of that code, or an event that the block does not have. -/
def eventsRefused (block mask : Word) : Prop :=
  6 < block.toNat ∨ ∃ b : Fin 7, block.toNat = b.val ∧ 2 ^ [20, 5, 3, 24, 1, 2, 1].getD b.val 0 ≤ mask.toNat

/-- What R204 and R205 take: an event mask of block `b`. -/
def eventsNamed (block mask : Word) (b : Fin 7) : Prop :=
  block.toNat = b.val ∧ mask.toNat < 2 ^ [20, 5, 3, 24, 1, 2, 1].getD b.val 0

theorem eventsRefused_cases {block mask : Word} (h : eventsRefused block mask) :
    blockOf block = none ∨ ∃ b : Fin 7, blockOf block = some b ∧ maskFits b mask = false := by
  refine h.imp blockOf_eq_none ?_
  rintro ⟨b, hb, hmask⟩
  exact ⟨b, blockOf_eq_some hb, by rw [Bool.eq_false_iff, ne_eq, maskFits_iff]; omega⟩

theorem eventsNamed_block_mask {block mask : Word} {b : Fin 7} (h : eventsNamed block mask b) :
    blockOf block = some b ∧ maskFits b mask = true :=
  h.imp blockOf_eq_some (maskFits_iff b mask).mpr

/-! ## CLEAR_EVENTS -/

theorem cmdClearEvents_refused {block mask : Word} (h : eventsRefused block mask) (s : State) :
    cmdClearEvents block mask s = refuse .badArgument s := by
  obtain hnone | ⟨b, hb, hfit⟩ := eventsRefused_cases h
  · rw [cmdClearEvents, hnone]
  · simp [cmdClearEvents, hb, hfit]

theorem cmdClearEvents_accepted {block mask : Word} {b : Fin 7} (h : eventsNamed block mask b) (s : State) :
    cmdClearEvents block mask s = accept [((s.events[b]).clear mask).events]
      { s with events := s.events.set b ((s.events[b]).clear mask) } := by
  obtain ⟨hb, hfit⟩ := eventsNamed_block_mask h
  simp [cmdClearEvents, hb, hfit]

theorem exec_clearEvents_refused (tag : Tag) {block mask : Word} {s : State} (hs : canDispatch s = true)
    (h : eventsRefused block mask) :
    exec (.clearEvents tag block mask) s = .next (answered tag 47 .badArgument [] s) :=
  runCommand_refused tag 47 hs (cmdClearEvents_refused h s)

theorem exec_clearEvents_accepted (tag : Tag) {block mask : Word} {b : Fin 7} {s : State} (hs : canDispatch s = true)
    (h : eventsNamed block mask b) :
    exec (.clearEvents tag block mask) s = .next (answered tag 47 .ok [((s.events[b]).clear mask).events]
      { s with events := s.events.set b ((s.events[b]).clear mask) }) :=
  runCommand_accepted tag 47 hs (cmdClearEvents_accepted h s)

/-! ## SET_ENABLES -/

theorem cmdSetEnables_refused {block mask : Word} (h : eventsRefused block mask) (s : State) :
    cmdSetEnables block mask s = refuse .badArgument s := by
  obtain hnone | ⟨b, hb, hfit⟩ := eventsRefused_cases h
  · rw [cmdSetEnables, hnone]
  · simp [cmdSetEnables, hb, hfit]

theorem cmdSetEnables_accepted {block mask : Word} {b : Fin 7} (h : eventsNamed block mask b) (s : State) :
    cmdSetEnables block mask s = accept [(s.events[b]).enables]
      { s with events := s.events.set b ((s.events[b]).enable mask) } := by
  obtain ⟨hb, hfit⟩ := eventsNamed_block_mask h
  simp [cmdSetEnables, hb, hfit]

theorem exec_setEnables_refused (tag : Tag) {block mask : Word} {s : State} (hs : canDispatch s = true)
    (h : eventsRefused block mask) :
    exec (.setEnables tag block mask) s = .next (answered tag 48 .badArgument [] s) :=
  runCommand_refused tag 48 hs (cmdSetEnables_refused h s)

theorem exec_setEnables_accepted (tag : Tag) {block mask : Word} {b : Fin 7} {s : State} (hs : canDispatch s = true)
    (h : eventsNamed block mask b) :
    exec (.setEnables tag block mask) s = .next (answered tag 48 .ok [(s.events[b]).enables]
      { s with events := s.events.set b ((s.events[b]).enable mask) }) :=
  runCommand_accepted tag 48 hs (cmdSetEnables_accepted h s)

/-! ## ATTN -/

theorem attn_iff (s : State) :
    attn s = true ↔ s.resetN = true ∧ ∃ (b : Fin 7) (k : Nat),
      (s.events[b]).events.getLsbD k = true ∧ (s.events[b]).enables.getLsbD k = true := by
  simp only [attn, Bool.and_eq_true, Vector.any_toList, Vector.any_iff_exists, bne_iff_ne,
    EventSet.pendingEvents_ne_zero_iff, Fin.exists_iff, Fin.getElem_fin]

/-- Settles O52: a block code or a mask out of range is refused, and otherwise the block's event set is the model's
`clear` or `enable` of the one before; the flag follows from what is left pending. -/
theorem eventsAreClearedAndEnabled : Obligations.EventsAreClearedAndEnabled := by
  intro tag block mask s hs
  refine ⟨fun hblock => ?_, fun b e n hb he hn => ?_, attn_iff s⟩
  · exact ⟨exec_clearEvents_refused tag hs (.inl hblock), exec_setEnables_refused tag hs (.inl hblock)⟩
  · subst he hn
    refine ⟨fun hmask => ?_, fun hmask => ⟨?_, ?_⟩⟩
    · exact ⟨exec_clearEvents_refused tag hs (.inr ⟨b, hb, hmask⟩), exec_setEnables_refused tag hs (.inr ⟨b, hb, hmask⟩)⟩
    · exact ⟨_, exec_clearEvents_accepted tag hs ⟨hb, hmask⟩, EventSet.clear_enables _ _,
        EventSet.clear_events_getLsbD _ _, EventSet.clear_due_of_none_pending _, EventSet.clear_due_of_pending _,
        fun m => ⟨EventSet.raise_set _ m, EventSet.raise_due_of_newly_pending _⟩⟩
    · exact ⟨_, exec_setEnables_accepted tag hs ⟨hb, hmask⟩, EventSet.enable_enables _ _, EventSet.enable_events _ _,
        EventSet.enable_due_of_none_pending _, fun _ => EventSet.enable_due_of_newly_enabled _,
        EventSet.enable_due_of_none_new _⟩

end Sys2Proof.Machine
end

section
/-! What every step keeps: the three invariants of the part, carried together through every operation. -/

namespace Sys2Proof.Machine

/-! ## Keeping the three invariants -/

/-- `t` is in form wherever `s` is, for each of the three invariants. -/
structure Keeps (s t : State) : Prop where
  decode : decodeInForm s → decodeInForm t
  capture : captureInForm s → captureInForm t
  stores : storesInForm s → storesInForm t

theorem Keeps.refl (s : State) : Keeps s s := ⟨id, id, id⟩

theorem Keeps.trans {s t u : State} (h : Keeps s t) (g : Keeps t u) : Keeps s u :=
  ⟨g.decode ∘ h.decode, g.capture ∘ h.capture, g.stores ∘ h.stores⟩

/-- The last operation first, as the model writes it. -/
theorem Keeps.after {s t u : State} (g : Keeps t u) (h : Keeps s t) : Keeps s u := h.trans g

theorem Keeps.ite {s t u : State} {c : Prop} [Decidable c] (h : c → Keeps s t) (g : ¬ c → Keeps s u) :
    Keeps s (if c then t else u) := by
  split
  · exact h ‹_›
  · exact g ‹_›

/-- The operations over the six lanes in turn. -/
theorem Keeps.forLanes {f : LaneId → State → State} (h : ∀ l s, Keeps s (f l s)) (s : State) :
    Keeps s (forLanes f s) :=
  (((((h 0 s).trans (h 1 _)).trans (h 2 _)).trans (h 3 _)).trans (h 4 _)).trans (h 5 _)

/-! ## Events -/

theorem EventSet.raise_due_pending {e : EventSet} (m : Word) (h : e.due = true → e.pendingEvents ≠ 0) :
    (e.raise m).due = true → (e.raise m).pendingEvents ≠ 0 := by
  intro hd
  rw [EventSet.pendingEvents_ne_zero_iff] at h ⊢
  simp only [EventSet.raise, Bool.or_eq_true, some_bit, BitVec.getLsbD_and, Bool.and_eq_true] at hd
  obtain hd | ⟨k, ⟨hk, -⟩, he⟩ := hd
  · obtain ⟨k, hk, he⟩ := h hd
    exact ⟨k, by simp [EventSet.raise, hk], he⟩
  · exact ⟨k, by simp [EventSet.raise, hk], he⟩

theorem noticesHaveEvents_set {s t : State} {b : Fin 7} {e : EventSet} (h : noticesHaveEvents s)
    (ht : t.events = s.events.set b e) (he : e.due = true → e.pendingEvents ≠ 0) : noticesHaveEvents t := by
  intro c hc
  simp only [ht, Fin.getElem_fin, Vector.getElem_set] at hc ⊢
  split at hc <;> rename_i hbc
  · simpa [hbc] using he hc
  · simpa [hbc] using h c hc

theorem keeps_raise (b : Fin 7) (m : Word) (s : State) : Keeps s (raise b m s) where
  decode := id
  capture := id
  stores := fun ⟨hm, hq, hn, hw, hs⟩ =>
    ⟨hm, hq, noticesHaveEvents_set hn rfl (EventSet.raise_due_pending m (hn b)), hw, hs⟩

theorem keeps_raiseIf (c : Bool) (b : Fin 7) (m : Word) (s : State) : Keeps s (raiseIf c b m s) :=
  .ite (fun _ => keeps_raise b m s) fun _ => .refl s

/-! ## Updates of one field -/

theorem keeps_setTrigger {t : Trigger} {s : State}
    (hi : captureInForm s → (t.state = .idle ↔ s.trigger.state = .idle))
    (hd : dividersInRange s.trigger → dividersInRange t) : Keeps s (setTrigger t s) where
  decode := id
  capture := fun h => ⟨h.1, h.2.1, h.2.2.1, h.2.2.2.1, (hi h).trans h.2.2.2.2⟩
  stores := fun ⟨hm, hq, hn, hw, hp, hv, hr, ht⟩ => ⟨hm, hq, hn, hw, hp, hv, hr, hd ht⟩

/-- The sequencer's state is not touched. -/
theorem keeps_setTrigger_same {t : Trigger} {s : State} (hi : t.state = s.trigger.state)
    (hd : dividersInRange s.trigger → dividersInRange t) : Keeps s (setTrigger t s) :=
  keeps_setTrigger (fun _ => by rw [hi]) hd

theorem keeps_setView {v : View} {s : State} (hv : viewportInRange s.view → viewportInRange v) :
    Keeps s (setView v s) where
  decode := id
  capture := id
  stores := fun ⟨hm, hq, hn, hw, hp, hv', hr, ht⟩ => ⟨hm, hq, hn, hw, hp, hv hv', hr, ht⟩

/-- The viewport is not touched. -/
theorem keeps_setView_same {v : View} {s : State} (hq : v.q = s.view.q) (ht : v.t0 = s.view.t0) :
    Keeps s (setView v s) :=
  keeps_setView fun ⟨h1, h2, h3⟩ => ⟨hq ▸ h1, hq ▸ h2, ht ▸ h3⟩

theorem keeps_setTime {t : Timebase} {s : State} (hs : t.sampling = s.time.sampling)
    (hw : wallClockInRange s → t.subsecond < 32768 ∧ t.corrAmount ≤ 63) : Keeps s (setTime t s) where
  decode := id
  capture := fun ⟨h1, h2, h3, h4, h5⟩ => ⟨h1, h2, h3, by
    unfold samplingFitsController at h4 ⊢; simpa [hs] using h4, h5⟩
  stores := fun ⟨hm, hq, hn, hw', hs⟩ => ⟨hm, hq, hn, hw hw', hs⟩

theorem keeps_setPanel {p : Panel} {s : State}
    (ho : Mem.wf 0 s.panel.overlay = true → Mem.wf 0 p.overlay = true)
    (hr : rowMapInRange s.panel.rowMap → rowMapInRange p.rowMap) : Keeps s (setPanel p s) where
  decode := id
  capture := id
  stores := fun ⟨⟨hm, ho'⟩, hq, hn, hw, hp, hv, hr', ht⟩ => ⟨⟨hm, ho ho'⟩, hq, hn, hw, hp, hv, hr hr', ht⟩

theorem keeps_setUplink {u : Uplink} {s : State}
    (hu : s.uplink.slotsHeld ≤ Config.inputQueueMax → u.slotsHeld ≤ Config.inputQueueMax) : Keeps s (setUplink u s) where
  decode := id
  capture := id
  stores := fun ⟨hm, ⟨hq, hl⟩, hn⟩ => ⟨hm, ⟨hu hq, hl⟩, hn⟩

theorem keeps_placeResponse (r : Response) (s : State) : Keeps s (placeResponse r s) :=
  keeps_setUplink (u := { s.uplink with slot := some r }) id

theorem keeps_setPods {p : Pods} {s : State} (hp : podsInRange s.pods → podsInRange p) :
    Keeps s { s with pods := p } where
  decode := id
  capture := id
  stores := fun ⟨hm, hq, hn, hw, hp', hs⟩ => ⟨hm, hq, hn, hw, hp hp', hs⟩

theorem keeps_modLink {p : Pod} {f : PodLink → PodLink} {s : State}
    (hf : (s.pods.links[p]).inRange → (f s.pods.links[p]).inRange) : Keeps s (modLink p f s) :=
  keeps_setPods fun hp => modLink_range p f s hp hf

theorem keeps_withPending (q : List Instr) (s : State) : Keeps s (s.withPending q) := ⟨id, id, id⟩

/-! ## The record path -/

theorem keeps_setPath {p : RecordPath} {s : State} (hl : p.logs.length = s.rpath.logs.length)
    (hq : s.rpath.logQueue.length ≤ Config.logQueueMax → p.logQueue.length ≤ Config.logQueueMax)
    (hs : s.rpath.stream.length ≤ Config.streamMax → p.stream.length ≤ Config.streamMax) : Keeps s (setPath p s) where
  decode := id
  capture := fun ⟨h1, h2, ⟨h3, h4, h5, h6⟩, h7⟩ => ⟨h1, h2, ⟨h3, h4, hl.trans h5, h6⟩, h7⟩
  stores := fun ⟨hm, ⟨hu, hq', hs'⟩, hn⟩ => ⟨hm, ⟨hu, hq hq', hs hs'⟩, hn⟩

/-! ## The capture store -/

theorem layoutHolds_modSeg {i : Nat} {f : Segment → Segment} {s : State} (hf : ∀ d, (f d).size = d.size)
    (h : layoutHolds s) : layoutHolds (modSeg i f s) := by
  obtain ⟨h1, h2, h3, h4, h5⟩ := h
  refine ⟨h1, by simpa using h2, h3, fun d hd => ?_, h5⟩
  by_cases hi : i < s.capture.segs.length
  · obtain hd | rfl := List.mem_or_eq_of_mem_set hd
    · exact h4 d hd
    · rw [hf, segAt, List.getD_eq_getElem _ _ hi]
      exact h4 _ (List.getElem_mem hi)
  · simp only [modSeg_capture, List.set_eq_of_length_le (Nat.le_of_not_lt hi)] at hd
    exact h4 d hd

theorem keeps_modSeg {i : Nat} {f : Segment → Segment} {s : State}
    (hf : ∀ d, (f d).size = d.size := by exact fun _ => rfl) :
    Keeps s (modSeg i f s) where
  decode := id
  capture := fun ⟨h1, h2, h3, h4⟩ => ⟨h1, h2, layoutHolds_modSeg hf h3, h4⟩
  stores := id

/-- An update of what no invariant speaks of: the flag of the START record, the rotation, the turn and the readout. -/
theorem keeps_setCapture {c : Capture} {s : State}
    (h : c = { s.capture with
      needStart := c.needStart, rotation := c.rotation, turnFrames := c.turnFrames, readout := c.readout } := by rfl) :
    Keeps s (setCapture c s) := by
  rw [h]
  exact ⟨id, id, id⟩

theorem keeps_enqueue {i : Nat} {s : State} (r : Record) (post : Bool) (h : s.capture.ctl = .capturing i) :
    Keeps s (enqueue i r post s) := by
  refine .trans (t := setCapture { s.capture with queue := s.capture.queue ++ [⟨i, r, post⟩] } s)
    ⟨id, fun ⟨h1, h2, ⟨h3, h4, h5, h6, h7, h8, h9⟩, h10⟩ =>
      ⟨h1, h2, ⟨h3, h4, h5, h6, fun q hq => ?_, h8, fun hc => ?_⟩, h10⟩, id⟩ keeps_modSeg
  · obtain hq | hq := List.mem_append.1 hq
    · exact h7 q hq
    · rw [List.mem_singleton.1 hq]
      exact h8 i h
  · have hc : s.capture.ctl = .idle ∨ s.capture.ctl = .monitor := hc
    simp [h] at hc

end Sys2Proof.Machine
end

section
/-! A lane in form stays in form, whatever tick, gap, frame end or stop it takes (R112, R128, R132). -/

namespace Sys2Proof.Machine

/-! ## One lane in form -/

/-- An open frame keeps to its bounds (R128, R138). -/
def PartialFrame.bounded (f : PartialFrame) : Prop := f.data.length ≤ 64 ∧ f.units ≤ 65535

/-- What `lanesInForm` says of one lane. -/
structure Lane.inForm (ln : Lane) : Prop where
  open_iff : ln.frame.isSome ↔ ln.state = .inFrame ∨ ln.state = .draining
  errors_le : ln.errors ≤ 2
  context : ln.state ≠ .off → ln.isReplay = true → ln.replay.isSome
  bounded : ∀ f, ln.frame = some f → f.bounded

theorem lanesInForm_iff (s : State) : lanesInForm s ↔ ∀ l : LaneId, (s.lanes[l]).inForm :=
  forall_congr' fun _ => ⟨fun ⟨h1, h2, h3, h4⟩ => ⟨h1, h2, h3, h4⟩, fun ⟨h1, h2, h3, h4⟩ => ⟨h1, h2, h3, h4⟩⟩

theorem toOff_inForm (ln : Lane) : ln.toOff.inForm where
  open_iff := by simp [Lane.toOff, Lane.reset]
  errors_le := Nat.zero_le _
  context := by simp [Lane.toOff, Lane.reset]
  bounded := by simp [Lane.toOff, Lane.reset]

/-- A lane that is not replaying, or has its replay context: what a lane needs to open a frame. -/
def Lane.hasContext (ln : Lane) : Prop := ln.isReplay = true → ln.replay.isSome

theorem hasContext_of_keeps {ln x : Lane} (h : ln.hasContext) (k : ln.keeps x) : x.hasContext := by
  obtain ⟨h1, h2, -⟩ := k
  unfold Lane.hasContext
  rwa [h1, h2]

/-! ## Delivery and extraction -/

theorem store_bounded {f : PartialFrame} (c : Check) (acc i : Nat) (e : Entry) (v : Nat) (h : f.bounded) :
    (f.store c acc i e v).bounded := by
  obtain ⟨hd, hu⟩ := h
  unfold PartialFrame.store
  cases e.role with
  | data => exact ⟨by simp, hu⟩
  | address | length | check | command | other => exact ⟨hd, hu⟩

theorem takeEntry_inForm {t : FrameTable} {ln : Lane} {f : PartialFrame} {e : Entry} (h : ln.inForm)
    (hf : ln.frame = some f) : (takeEntry t ln f e).inForm where
  open_iff := by simpa [takeEntry, hf] using h.open_iff
  errors_le := h.errors_le
  context := h.context
  bounded := by
    have hb := store_bounded t.check ln.acc ln.pos.entry e (valueOf e.lsbFirst (ln.gatherer.take e.width)) (h.bounded f hf)
    simp only [takeEntry, Option.some.injEq, forall_eq']
    split
    · exact hb
    · split <;> exact hb

theorem extract_inForm (t : FrameTable) (n : Nat) {ln : Lane} (h : ln.inForm) : (extract t n ln).inForm := by
  induction n generalizing ln with
  | zero => exact h
  | succ n ih =>
    unfold extract
    split
    · split
      · exact ih (takeEntry_inForm h ‹_›)
      · exact h
    · exact h

/-- What happens to the open frame of a lane, its gatherer and its front end keeps the lane in form. -/
theorem inForm_with_frame {ln : Lane} {f g : PartialFrame} (h : ln.inForm) (hf : ln.frame = some f) (hg : g.bounded)
    (bits : List Bool) : ({ ln with frame := some g, gatherer := bits } : Lane).inForm where
  open_iff := by simpa [hf] using h.open_iff
  errors_le := h.errors_le
  context := h.context
  bounded := by simpa using hg

theorem inForm_with_front {ln : Lane} (h : ln.inForm) (g : FrontState) (r : Bool) (p : Option (BitVec 32)) (n : Nat) :
    ({ ln with front := g, resync := r, prev := p, lastTick := n } : Lane).inForm :=
  ⟨h.open_iff, h.errors_le, h.context, h.bounded⟩

theorem deliverUnit_inForm (t : FrameTable) (bits : List Bool) (a b : Nat) {ln : Lane} (h : ln.inForm) :
    (deliverUnit t bits a b ln).inForm := by
  unfold deliverUnit
  split
  · exact h
  · next f hf =>
    obtain ⟨hd, -⟩ := h.bounded f hf
    have hb : ∀ x y z, ({ f with units := min (f.units + 1) 65535, start := x, lastEnd := y, long := z } :
        PartialFrame).bounded := fun _ _ _ => ⟨hd, Nat.min_le_right _ _⟩
    dsimp only
    split
    · exact inForm_with_frame h hf (hb _ _ _) ln.gatherer
    · exact extract_inForm t _ (inForm_with_frame h hf (hb _ _ _) _)

theorem mark_inForm {ln : Lane} {f : PartialFrame → PartialFrame} (h : ln.inForm)
    (hf : ∀ x, x.bounded → (f x).bounded) : (ln.mark f).inForm where
  open_iff := by simpa [Lane.mark] using h.open_iff
  errors_le := h.errors_le
  context := h.context
  bounded := by
    simp only [Lane.mark, Option.map_eq_some_iff]
    rintro _ ⟨x, hx, rfl⟩
    exact hf x (h.bounded x hx)

/-! ## Frames open and end -/

theorem openFrame_inForm (t : FrameTable) (tick : Nat) {ln : Lane} (h : ln.inForm) (hc : ln.hasContext) :
    (openFrame t tick ln).inForm where
  open_iff := by simp [openFrame]
  errors_le := h.errors_le
  context := fun _ => hc
  bounded := by simp [openFrame, PartialFrame.bounded]

/-- The third consecutive error sets the count back to 0 (R132). -/
theorem errors_below_three (n : Nat) : (if decide (3 ≤ n) = true then 0 else n) ≤ 2 := by
  simp only [decide_eq_true_eq]
  split <;> omega

theorem endFrame_inForm (t : FrameTable) (l : LaneId) (tick : Nat) (a o r : Bool) {ln : Lane} (h : ln.inForm)
    (hc : ln.hasContext) : (endFrame t l tick a o r ln).lane.inForm := by
  unfold endFrame
  split
  · next hf =>
    dsimp only
    split
    · exact toOff_inForm ln
    · exact ⟨by simp [LaneOut.quiet, hf], h.errors_le, fun _ => hc, by simp [LaneOut.quiet, hf]⟩
  · dsimp only
    split
    · exact toOff_inForm ln
    · exact ⟨by simp, errors_below_three _, fun _ => hc, by simp⟩

theorem afterUnit_inForm (t : FrameTable) (l : LaneId) (tick : Nat) {ln : Lane} (h : ln.inForm) (hc : ln.hasContext) :
    (afterUnit t l tick ln).lane.inForm := by
  unfold afterUnit
  split
  · exact endFrame_inForm t l tick false false false h hc
  · exact h

/-- A unit delivered, and the frame's end where the unit was its last. -/
theorem unitEnd_inForm (t : FrameTable) (l : LaneId) (tick : Nat) (bits : List Bool) (a : Nat) {ln : Lane}
    (h : ln.inForm) (hc : ln.hasContext) : (afterUnit t l tick (deliverUnit t bits a tick ln)).lane.inForm :=
  afterUnit_inForm t l tick (deliverUnit_inForm t bits a tick h) (hasContext_of_keeps hc (deliverUnit_keeps ..))

/-! ## The three front ends -/

theorem charTick_inForm (t : FrameTable) (p : StartStop) (l : LaneId) (tick : Nat) (v : Bool) (c : CharState)
    {ln : Lane} (h : ln.inForm) (hc : ln.hasContext) : (charTick t p l tick v c ln).lane.inForm := by
  have idle : ({ ln with front := { ln.front with char := none } } : Lane).inForm :=
    inForm_with_front h _ _ _ _
  unfold charTick
  split
  · exact h
  dsimp only
  split
  · split
    · exact idle
    · refine inForm_with_front ?_ _ _ _ _
      split
      · exact openFrame_inForm t c.start h hc
      · exact h
  split
  · exact inForm_with_front h _ _ _ _
  split
  · exact endFrame_inForm t l tick _ _ _ (mark_inForm idle fun x hx => hx) hc
  split
  · exact inForm_with_front h _ _ _ _
  · unfold charUnit
    exact unitEnd_inForm t l tick _ _ (mark_inForm idle fun x hx => hx) hc

theorem startStopTick_inForm (t : FrameTable) (p : StartStop) (l : LaneId) (tick : Nat) (was now : BitVec 32)
    {ln : Lane} (h : ln.inForm) (hc : ln.hasContext) : (startStopTick t p l tick was now ln).lane.inForm := by
  have hedge : ∀ v was, (edgeTick p tick v was ln).inForm := by
    intro v was
    unfold edgeTick
    split
    · exact inForm_with_front h _ _ _ _
    · exact h
  unfold startStopTick
  dsimp only
  cases ln.front.char with
  | none =>
    dsimp only
    split
    · exact hedge _ _
    · exact inForm_with_front (hedge _ _) _ _ _ _
  | some c =>
    have hchar := charTick_inForm t p l tick (now.getLsbD p.chan) c h hc
    dsimp only
    split
    · exact hchar
    · exact inForm_with_front hchar _ _ _ _

theorem strobeBits_inForm (t : FrameTable) (p : Strobed) (l : LaneId) (tick : Nat) (now : BitVec 32) {ln : Lane}
    (h : ln.inForm) (hc : ln.hasContext) : (strobeBits t p l tick now ln).lane.inForm := by
  unfold strobeBits
  dsimp only
  split
  · exact unitEnd_inForm t l tick _ _ (inForm_with_front h _ _ _ _) hc
  · exact inForm_with_front h _ _ _ _

theorem strobedTick_inForm (t : FrameTable) (p : Strobed) (l : LaneId) (tick : Nat) (was now : BitVec 32) {ln : Lane}
    (h : ln.inForm) (hc : ln.hasContext) : (strobedTick t p l tick was now ln).lane.inForm := by
  unfold strobedTick
  dsimp only
  split
  · split
    · exact endFrame_inForm t l tick _ _ _ (inForm_with_front h _ _ _ _) hc
    · exact inForm_with_front h _ _ _ _
  split
  · split
    · exact inForm_with_front h _ _ _ _
    · split
      · exact strobeBits_inForm t p l tick now (inForm_with_front h _ _ _ _) hc
      · exact strobeBits_inForm t p l tick now (openFrame_inForm t tick (inForm_with_front h _ _ _ _) hc) hc
  · exact inForm_with_front h _ _ _ _

theorem openTwoWire_inForm (t : FrameTable) (tick : Nat) {ln : Lane} (h : ln.inForm) (hc : ln.hasContext) :
    (openTwoWire t tick ln).inForm :=
  openFrame_inForm t tick (inForm_with_front h _ _ _ _) hc

theorem twoWireBit_inForm (t : FrameTable) (p : TwoWire) (l : LaneId) (tick : Nat) (b : Bool) {ln : Lane}
    (h : ln.inForm) (hc : ln.hasContext) : (twoWireBit t p l tick b ln).lane.inForm := by
  unfold twoWireBit
  dsimp only
  split
  · exact unitEnd_inForm t l tick _ _ (inForm_with_front h _ _ _ _) hc
  · exact inForm_with_front h _ _ _ _

theorem twoWireTick_inForm (t : FrameTable) (p : TwoWire) (l : LaneId) (tick : Nat) (was now : BitVec 32) {ln : Lane}
    (h : ln.inForm) (hc : ln.hasContext) : (twoWireTick t p l tick was now ln).lane.inForm := by
  have hend := endFrame_inForm t l tick false false false h hc
  unfold twoWireTick
  dsimp only
  split
  · split
    · split
      · exact hend
      · next hoff =>
        simp only [Bool.or_eq_true, not_or, Bool.not_eq_true] at hoff
        exact openTwoWire_inForm t tick hend (hasContext_of_keeps hc (endFrame_keeps t l tick _ _ _ ln hoff.1))
    · split
      · exact h
      · exact openTwoWire_inForm t tick h hc
  split
  · split
    · exact hend
    · exact inForm_with_front h _ _ _ _
  split
  · exact twoWireBit_inForm t p l tick _ h hc
  · exact h

/-! ## One tick, the gap, and starts -/

theorem judgeTick_inForm (t : FrameTable) (l : LaneId) (tick : Nat) (now : BitVec 32) {ln : Lane}
    (h : ln.inForm) (hc : ln.hasContext) : (judgeTick t l tick now ln).lane.inForm := by
  unfold judgeTick
  split
  · exact inForm_with_front h _ _ _ _
  · split
    · exact startStopTick_inForm t _ l tick _ now h hc
    · exact strobedTick_inForm t _ l tick _ now h hc
    · exact twoWireTick_inForm t _ l tick _ now h hc

theorem laneTick_inForm (t : FrameTable) (l : LaneId) (tick : Nat) (levels : BitVec 32) {ln : Lane}
    (h : ln.inForm) (hc : ln.hasContext) : (laneTick t l tick levels ln).lane.inForm := by
  have hj := judgeTick_inForm t l tick (levels &&& t.channelMask) h hc
  unfold laneTick
  dsimp only
  split
  · exact hj
  · exact inForm_with_front hj _ _ _ _

theorem endByGap_inForm (t : FrameTable) (l : LaneId) {ln : Lane} (h : ln.inForm) (hc : ln.hasContext) :
    (endByGap t l ln).lane.inForm := by
  unfold endByGap
  split
  · split
    · exact endFrame_inForm t l _ _ _ _ (mark_inForm h fun x hx => hx) hc
    · exact endFrame_inForm t l _ _ _ _ h hc
  · exact h

theorem sampleStart_inForm {ln : Lane} (h : ln.inForm) : ln.sampleStart.inForm := by
  unfold Lane.sampleStart
  split
  · exact inForm_with_front h _ _ _ _
  · exact h

/-- A change of the replay context that keeps it present. -/
theorem inForm_with_replay {ln : Lane} (h : ln.inForm) (f : Replay → Replay) :
    ({ ln with replay := ln.replay.map f } : Lane).inForm :=
  ⟨h.open_iff, h.errors_le, by simpa using h.context, h.bounded⟩

theorem live_state {ln : Lane} (h : ln.live = true) : ln.state ≠ .off := by
  simp only [Lane.live, Bool.and_eq_true, decide_eq_true_eq] at h
  exact h.1

theorem replays_state {ln : Lane} (h : ln.replays = true) : ln.state ≠ .off := by
  simp only [Lane.replays, Bool.and_eq_true, decide_eq_true_eq] at h
  exact h.1

end Sys2Proof.Machine
end

section
/-! Every operation of the part keeps the three invariants: the sequencer, the record path, the lanes and the view engine. -/

namespace Sys2Proof.Machine

/-! ## The sequencer -/

theorem captureInForm.sequencer_out {s : State} {i : Nat} (h : captureInForm s) (hc : s.capture.ctl = .capturing i) :
    s.trigger.state ≠ .idle := by
  obtain ⟨-, -, -, -, hs⟩ := h
  exact fun h0 => hs.1 h0 i hc

theorem keeps_enterStage (n : Nat) (s : State) : Keeps s (enterStage n s) :=
  (keeps_raiseIf _ _ _ _).after (keeps_setTrigger_same rfl (trigger_enterStage_dividers _ n))

theorem keeps_enterRunning {s : State} (hs : captureInForm s → s.trigger.state ≠ .idle) : Keeps s (enterRunning s) :=
  (keeps_enterStage 0 _).after
    (keeps_setTrigger (fun h => iff_of_false (by simp) (hs h)) (holdDividers_dividers _))

theorem keeps_rearm {s : State} (hs : captureInForm s → s.trigger.state ≠ .idle) : Keeps s (rearm s) := by
  have hf : Keeps s (setTrigger s.trigger.fresh s) := keeps_setTrigger_same rfl (fresh_dividers _)
  refine hf.trans (keeps_enterRunning fun h => ?_)
  exact hs h

theorem keeps_secondsChanged (s : State) : Keeps s (secondsChanged s) := by
  unfold secondsChanged
  split
  · next hw _ => exact .ite (fun _ => (keeps_enterRunning fun _ => by simp [hw]).trans (keeps_raise _ _ _)) fun _ => .refl s
  · exact .refl s

theorem keeps_takeTrigger (n : Nat) (c : Cause) {s : State} (hs : s.trigger.state ≠ .idle) :
    Keeps s (takeTrigger n c s) := by
  have hseq : ∀ u : State, Keeps s u → u.trigger = s.trigger →
      Keeps s (raise blkTrigger evTriggered
        (setTrigger { s.trigger.holdDividers with state := .triggered, trigOut := true, force := false } u)) :=
    fun u hk hu => (keeps_raise _ _ _).after (hk.trans
      (keeps_setTrigger (fun _ => iff_of_false nofun (hu ▸ hs)) fun h => holdDividers_dividers _ (hu ▸ h)))
  unfold takeTrigger
  dsimp only
  split
  · exact hseq s (.refl s) rfl
  · exact hseq _ keeps_modSeg rfl

theorem keeps_transition (c : Condition) (g : Target) (n : Nat) {s : State} (hs : s.trigger.state ≠ .idle) :
    Keeps s (transition c g n s) := by
  cases g with
  | stage k => exact keeps_enterStage k s
  | trigger => exact keeps_takeTrigger _ _ hs

theorem keeps_judge (v : TermValues) (n : Nat) {s : State} (hs : s.trigger.state ≠ .idle) : Keeps s (judge v n s) := by
  refine .ite (fun _ => keeps_transition _ _ n hs) fun _ => ?_
  split
  · exact .refl s
  · exact .ite (fun _ => keeps_transition _ _ n hs) fun _ => .refl s

theorem keeps_judgeSample (v : TermValues) (n : Nat) {s : State} (hs : s.trigger.state ≠ .idle) :
    Keeps s (judgeSample v n s) := by
  have hj : Keeps s (if s.trigger.force then takeTrigger n .force s else judge v n s) :=
    .ite (fun _ => keeps_takeTrigger n _ hs) fun _ => keeps_judge v n hs
  exact hj.trans (keeps_setTrigger_same rfl (emptyLatches_dividers _))

theorem keeps_keepPrevious (m : Sample) (v : TermValues) (s : State) : Keeps s (keepPrevious m v s) :=
  keeps_setTrigger_same rfl id

theorem keeps_sequencerSample (m : Sample) (e : Bool) (n : Nat) (s : State) : Keeps s (sequencerSample m e n s) := by
  have keep : ∀ v, Keeps s (if e then keepPrevious m v s else s) :=
    fun v => .ite (fun _ => keeps_keepPrevious m v s) fun _ => .refl s
  unfold sequencerSample
  dsimp only
  split
  · next hs =>
    have ht := keeps_setTrigger_same (s := s) (t := s.trigger.tickSteps e (s.trigger.termValues m)) rfl
      (tickSteps_dividers _ e _)
    refine ht.trans (.ite (fun _ => ?_) fun _ => .refl _)
    exact (keeps_judgeSample _ n (by simp [hs, Trigger.tickSteps, Trigger.mapCounters])).trans (keeps_keepPrevious _ _ _)
  · next hs =>
    refine .ite (fun _ => .trans (.ite (fun _ => ?_) fun _ => .refl _) (keeps_keepPrevious _ _ _)) fun _ => .refl _
    exact keeps_judgeSample _ n (by simp [hs])
  · exact keep _
  · exact keep _

/-! ## The record path -/

theorem keeps_logOverflow (i : Nat) (s : State) : Keeps s (logOverflow i s) :=
  (keeps_raise _ _ _).after keeps_modSeg

theorem keeps_placeInLog (i : Nat) (r : FrameRecord) (s : State) : Keeps s (placeInLog i r s) := by
  refine .ite (fun _ => .refl s) fun _ => .ite (fun hq => ?_) fun _ => keeps_logOverflow i s
  exact keeps_setPath rfl (fun _ => by simpa using hq) id

theorem keeps_keepInLog (i : Nat) (k : FrameRecord → Bool) (s : State) : Keeps s (keepInLog i k s) :=
  keeps_setPath (by simp) id id

theorem keeps_keepInLogQueue (k : Nat × FrameRecord → Bool) (s : State) : Keeps s (keepInLogQueue k s) :=
  keeps_setPath rfl (fun h => (List.length_filter_le _ _).trans h) id

theorem keeps_trimLog (i o : Nat) (s : State) : Keeps s (trimLog i o s) :=
  (keeps_keepInLog _ _ _).trans (keeps_keepInLogQueue _ _)

theorem keeps_dropLaneEntries (i : Nat) (l : LaneId) (s : State) : Keeps s (dropLaneEntries i l s) :=
  (keeps_keepInLog _ _ _).trans (keeps_keepInLogQueue _ _)

theorem keeps_dropOldestEntry (i : Nat) (s : State) : Keeps s (dropOldestEntry i s) :=
  (keeps_logOverflow i _).after (keeps_setPath (by simp) id id)

theorem keeps_joinLog (i : Nat) (r : FrameRecord) (s : State) : Keeps s (joinLog i r s) :=
  .trans (.ite (fun _ => keeps_dropOldestEntry i s) fun _ => .refl s) (keeps_setPath (by simp) id id)

theorem keeps_writeLogEntry (s : State) : Keeps s (writeLogEntry s) := by
  unfold writeLogEntry
  split
  · exact .refl s
  · next i r rest hq =>
    have hrest : Keeps s (setPath { s.rpath with logQueue := rest } s) :=
      keeps_setPath rfl (fun h => by rw [hq, List.length_cons] at h; exact Nat.le_of_succ_le h) id
    exact .ite (fun _ => hrest.trans (keeps_joinLog i r _)) fun _ => hrest

theorem keeps_streamFrame (r : FrameRecord) (s : State) : Keeps s (streamFrame r s) :=
  .ite (fun hs => keeps_setPath rfl id fun _ => by simpa using hs) fun _ =>
    (keeps_raise _ _ _).after (keeps_setPath rfl id id)

theorem fieldMatch_state (t : Trigger) (n : Fin 4) (e : Nat) : (t.fieldMatch n e).state = t.state := rfl

theorem offerTo_state (t : Trigger) (n : Fin 4) (r : FrameRecord) (a : Option Word) :
    (t.offerTo n r a).state = t.state := by
  unfold Trigger.offerTo
  split
  · rfl
  · split <;> rfl

@[simp] theorem offer_state (t : Trigger) (r : FrameRecord) (a : Option Word) : (t.offer r a).state = t.state := by
  unfold Trigger.offer
  split
  · simp only [offerTo_state]
  · rfl

theorem keeps_takeFrame (g : Option Nat) (e : Ended) (s : State) : Keeps s (takeFrame g e s) := by
  have ho : Keeps s (setTrigger (s.trigger.offer e.record e.address) s) :=
    keeps_setTrigger_same (offer_state _ _ _) (offer_dividers _ _ _)
  unfold takeFrame
  dsimp only
  split
  · exact ho.trans (.ite (fun _ => keeps_streamFrame _ _) fun _ => .refl _)
  · exact (ho.trans (keeps_placeInLog _ _ _)).trans (.ite (fun _ => keeps_streamFrame _ _) fun _ => .refl _)

theorem keeps_readFrameEntry (s : State) : Keeps s (readFrameEntry s) := by
  unfold readFrameEntry
  split
  · exact .refl s
  · exact keeps_setPath rfl id id

/-! ## The lanes -/

theorem keeps_setLane {l : LaneId} {ln : Lane} {s : State} (hin : (s.lanes[l]).inForm → ln.inForm)
    (ht : ln.state ≠ .off → (tableOf l s).isSome ∨ (s.lanes[l]).state ≠ .off) : Keeps s (setLane l ln s) where
  capture := id
  stores := id
  decode := by
    rintro ⟨hp, htab, hl⟩
    rw [lanesInForm_iff] at hl
    refine ⟨hp, fun k hk => ?_, (lanesInForm_iff _).2 fun k => ?_⟩ <;>
      simp only [setLane_lanes, setLane_tables, Fin.getElem_fin, Vector.getElem_set] at *
    · split at hk
      · next hlk =>
        obtain rfl := Fin.ext hlk
        exact (ht hk).elim id (htab l)
      · exact htab k hk
    · split
      · exact hin (hl l)
      · exact hl k

/-- A lane changed by an update that leaves its state. -/
theorem keeps_setLane_same {l : LaneId} {ln : Lane} {s : State} (hin : (s.lanes[l]).inForm → ln.inForm)
    (hs : ln.state = (s.lanes[l]).state) : Keeps s (setLane l ln s) :=
  keeps_setLane hin fun h => .inr (hs ▸ h)

theorem keeps_applyLane {l : LaneId} (g : Option Nat) {out : LaneOut} {s : State}
    (hin : (s.lanes[l]).inForm → out.lane.inForm)
    (ht : out.lane.state ≠ .off → (tableOf l s).isSome ∨ (s.lanes[l]).state ≠ .off) : Keeps s (applyLane l g out s) := by
  have hl := keeps_setLane hin ht
  refine (keeps_raiseIf _ _ _ _).after ((keeps_raiseIf _ _ _ _).after ?_)
  split
  · exact hl
  · exact hl.trans (keeps_takeFrame _ _ _)

/-- A lane that is not OFF takes something that its table gives: a tick, a gap or the end of its frame. -/
theorem keeps_applyLane_active {l : LaneId} (g : Option Nat) {out : LaneOut} {s : State}
    (ha : (s.lanes[l]).state ≠ .off)
    (hin : (s.lanes[l]).inForm → (s.lanes[l]).hasContext → out.lane.inForm) : Keeps s (applyLane l g out s) :=
  keeps_applyLane g (fun h => hin h (h.context ha)) fun _ => .inr ha

theorem keeps_settleGap (l : LaneId) (s : State) : Keeps s (settleGap l s) := by
  unfold settleGap
  split
  · exact .refl s
  · next t _ =>
    refine .ite (fun h => ?_) fun _ => .refl s
    rw [Bool.and_eq_true] at h
    exact keeps_applyLane_active _ (live_state h.1) (endByGap_inForm t l)

theorem keeps_settleGaps (s : State) : Keeps s (settleGaps s) := .forLanes keeps_settleGap s

theorem keeps_liveTick (n : Nat) (v : BitVec 32) (s : State) : Keeps s (liveTick n v s) := by
  refine .forLanes (fun l s => ?_) s
  unfold liveLaneTick
  split
  · exact .refl s
  · next t _ => exact .ite (fun h => keeps_applyLane_active _ (live_state h) (laneTick_inForm t l n v)) fun _ => .refl s

theorem sampleStart_state (ln : Lane) : ln.sampleStart.state = ln.state := by
  unfold Lane.sampleStart
  split <;> rfl

theorem keeps_lanesStart (s : State) : Keeps s (lanesStart s) :=
  .forLanes (fun _ _ => keeps_setLane_same sampleStart_inForm (sampleStart_state _)) s

theorem keeps_lanesStop (g : Option Nat) (s : State) : Keeps s (lanesStop g s) := by
  refine .forLanes (fun l s => ?_) s
  unfold laneSampleStop
  split
  · exact .refl s
  · next t _ =>
    refine .ite (fun h => ?_) fun _ => .refl s
    rw [Bool.and_eq_true] at h
    exact keeps_applyLane_active _ (live_state h.1) (endFrame_inForm t l _ _ _ _)

/-! ## Replay -/

theorem keeps_replayGap (t : FrameTable) (l : LaneId) (s : State) : Keeps s (replayGap t l s) := by
  refine .ite (fun h => ?_) fun _ => .refl s
  rw [Bool.and_eq_true] at h
  exact keeps_applyLane_active _ (replays_state h.1) (endByGap_inForm t l)

theorem keeps_replayTick (t : FrameTable) (l : LaneId) {s : State} (ha : (s.lanes[l]).replays = true) :
    Keeps s (replayTick t l s) := by
  unfold replayTick
  split
  · exact .refl s
  · next r _ =>
    have hover : Keeps s (if r.overrunAt = some r.nextTick then replayOverrun t l r.nextTick s else s) :=
      .ite (fun _ => keeps_applyLane_active _ (replays_state ha) (endFrame_inForm t l _ _ _ _)) fun _ => .refl s
    dsimp only
    generalize (if r.overrunAt = some r.nextTick then replayOverrun t l r.nextTick s else s) = u at hover ⊢
    refine hover.trans (.ite (fun hu => ?_) fun _ => .refl u)
    have htick : Keeps u (applyLane l (logTarget l u) (laneTick t l r.nextTick r.levels u.lanes[l]) u) :=
      keeps_applyLane_active _ (replays_state hu) (laneTick_inForm t l r.nextTick r.levels)
    refine (htick.trans (keeps_replayGap t l _)).trans (.ite (fun _ => ?_) fun _ => .refl _)
    exact keeps_setLane_same (fun h => inForm_with_replay h _) rfl

theorem keeps_replayTicks (t : FrameTable) (l : LaneId) (n : Nat) (s : State) : Keeps s (replayTicks t l n s) := by
  induction n generalizing s with
  | zero => exact .refl s
  | succ n ih => exact .ite (fun h => (keeps_replayTick t l h).trans (ih _)) fun _ => .refl s

theorem keeps_replayEnd (t : FrameTable) (l : LaneId) (n : Nat) (s : State) : Keeps s (replayEnd t l n s) :=
  .ite (fun h => keeps_applyLane_active _ (replays_state h) (endFrame_inForm t l _ _ _ _)) fun _ => .refl s

theorem keeps_replayRead (l : LaneId) (s : State) : Keeps s (replayRead l s) := by
  unfold replayRead
  split
  · next t r _ _ =>
    refine .ite (fun _ => (keeps_replayTicks t l _ s).trans (keeps_replayEnd t l _ _)) fun _ => ?_
    refine (keeps_replayTicks t l (_ - r.nextTick) s).trans (.ite (fun _ => ?_) fun _ => .refl _)
    have hread := keeps_setLane_same (l := l) (s := replayTicks t l ((recordAt s r.seg r.nextIndex).time - r.nextTick) s)
      (fun h => inForm_with_replay h fun q => q.take (recordAt s r.seg r.nextIndex)) rfl
    exact hread.trans (.ite (fun _ => (keeps_replayTicks t l _ _).trans (keeps_replayEnd t l _ _)) fun _ => .refl _)
  · exact .refl s

/-! ## The view engine -/

theorem keeps_beginColumn (p : Pass) (s : State) : Keeps s (beginColumn p s) := keeps_setView_same rfl rfl

theorem keeps_beginPass (n : Snapshot) (s : State) : Keeps s (beginPass n s) :=
  (keeps_beginColumn _ _).after (keeps_setView_same rfl rfl)

theorem keeps_startPass (s : State) : Keeps s (startPass s) := by
  unfold startPass
  split
  · exact .refl s
  · exact .ite (fun _ => .refl s) fun _ => keeps_beginPass _ s

theorem keeps_viewRequest (s : State) : Keeps s (viewRequest s) :=
  .ite (fun _ => .refl s) fun _ => (keeps_startPass _).after (keeps_setView_same rfl rfl)

/-- A change of the viewport or the cursors, with its view request. -/
theorem keeps_viewRequest_setView {v : View} {s : State} (hv : viewportInRange s.view → viewportInRange v) :
    Keeps s (viewRequest (setView v s)) :=
  (keeps_setView hv).trans (keeps_viewRequest _)

theorem keeps_finishPass (p : Pass) (s : State) : Keeps s (finishPass p s) := by
  refine .trans (.trans (keeps_setView_same ?_ ?_) (keeps_raise _ _ _)) (keeps_startPass _) <;> split <;> simp

theorem keeps_finishColumn (p : Pass) (s : State) : Keeps s (finishColumn p s) := by
  have hb : ∀ u, Keeps u (columnBoundary p u) := fun u => by
    unfold columnBoundary
    split
    · exact keeps_beginPass _ _
    · exact .ite (fun _ => keeps_finishPass p _) fun _ => keeps_beginColumn _ _
  exact (hb _).after (keeps_setView_same rfl rfl)

theorem keeps_passAccess (p : Pass) (s : State) : Keeps s (passAccess p s) :=
  .ite (fun _ => keeps_setView_same rfl rfl) fun _ => (keeps_finishColumn _ _).after (keeps_setView_same rfl rfl)

theorem keeps_finishMeasure (m : MeasureRun) (r : MeasureResult) (s : State) : Keeps s (finishMeasure m r s) :=
  (keeps_startPass _).after ((keeps_raise _ _ _).after (keeps_setView_same rfl rfl))

theorem keeps_settleMeasure (m : MeasureRun) (s : State) : Keeps s (settleMeasure m s) :=
  .ite (fun _ => keeps_finishMeasure m _ s) fun _ => .refl s

theorem keeps_measureAccess (m : MeasureRun) (s : State) : Keeps s (measureAccess m s) :=
  (keeps_settleMeasure _ _).after (keeps_setView_same rfl rfl)

theorem keeps_measureAfterWrite (i : Nat) (s : State) : Keeps s (measureAfterWrite i s) := by
  unfold measureAfterWrite
  split
  · exact .ite (fun _ => .refl s) fun _ => .ite (fun _ => keeps_finishMeasure _ _ s) fun _ => keeps_settleMeasure _ s
  · exact .refl s
  · exact .refl s

theorem keeps_viewAccess (s : State) : Keeps s (viewAccess s) := by
  unfold viewAccess
  split
  · exact .ite (fun _ => keeps_passAccess _ s) fun _ => .refl s
  · exact .ite (fun _ => keeps_measureAccess _ s) fun _ => .refl s
  · exact .refl s
  · exact .refl s

theorem keeps_rollUpdate (s : State) : Keeps s (rollUpdate s) := by
  unfold rollUpdate
  split
  · exact keeps_viewRequest_setView fun ⟨h1, h2, _⟩ => ⟨h1, h2, clampT0_range _⟩
  · exact .refl s

theorem keeps_viewAtRun (s : State) : Keeps s (viewAtRun s) := by
  have he : ∀ u, Keeps u (endMeasure u) := fun u => by
    unfold endMeasure
    split
    · exact keeps_finishMeasure _ _ u
    · exact .refl u
    · exact .refl u
  refine Keeps.after (keeps_viewRequest_setView ?_) (.after (he _) (keeps_setView_same rfl rfl))
  exact fun ⟨h1, h2, h3⟩ => ⟨h1, h2, h3⟩

end Sys2Proof.Machine
end

section
/-! The capture store keeps the three invariants: production, closing, the stop of sampling and one grid tick. -/

namespace Sys2Proof.Machine

/-! ## The controller -/

theorem currentSeg_eq_some {s : State} {i : Nat} : currentSeg s = some i ↔ s.capture.ctl = .capturing i := by
  unfold currentSeg
  split <;> simp_all

@[simp] theorem logOverflow_controller (i : Nat) (s : State) :
    (logOverflow i s).capture.ctl = s.capture.ctl ∧ (logOverflow i s).capture.layout = s.capture.layout := ⟨rfl, rfl⟩

@[simp] theorem placeInLog_controller (i : Nat) (r : FrameRecord) (s : State) :
    (placeInLog i r s).capture.ctl = s.capture.ctl ∧ (placeInLog i r s).capture.layout = s.capture.layout := by
  unfold placeInLog
  (repeat' split) <;> simp

@[simp] theorem takeFrame_controller (g : Option Nat) (e : Ended) (s : State) :
    (takeFrame g e s).capture.ctl = s.capture.ctl ∧ (takeFrame g e s).capture.layout = s.capture.layout := by
  unfold takeFrame
  cases g <;> dsimp only <;> split <;> simp

@[simp] theorem applyLane_controller (l : LaneId) (g : Option Nat) (o : LaneOut) (s : State) :
    (applyLane l g o s).capture.ctl = s.capture.ctl ∧ (applyLane l g o s).capture.layout = s.capture.layout := by
  unfold applyLane
  cases o.frame <;> simp

@[simp] theorem settleGap_controller (l : LaneId) (s : State) :
    (settleGap l s).capture.ctl = s.capture.ctl ∧ (settleGap l s).capture.layout = s.capture.layout := by
  unfold settleGap
  split
  · simp
  · dsimp only
    split <;> simp

/-- Gaps that run out leave the controller and the layout. -/
@[simp] theorem settleGaps_controller (s : State) :
    (settleGaps s).capture.ctl = s.capture.ctl ∧ (settleGaps s).capture.layout = s.capture.layout := by
  simp [settleGaps, forLanes]

@[simp] theorem enqueue_controller (i : Nat) (r : Record) (post : Bool) (s : State) :
    (enqueue i r post s).capture.ctl = s.capture.ctl ∧ (enqueue i r post s).capture.layout = s.capture.layout :=
  ⟨rfl, rfl⟩

@[simp] theorem placeOverrun_controller (i : Nat) (o : Overrun) (r : Record) (post : Bool) (s : State) :
    (placeOverrun i o r post s).capture.ctl = s.capture.ctl ∧
    (placeOverrun i o r post s).capture.layout = s.capture.layout := ⟨rfl, rfl⟩

@[simp] theorem takeReference_ctl (i : Nat) (r : Record) (s : State) :
    (takeReference i r s).capture.ctl = s.capture.ctl := rfl

@[simp] theorem loseRecord_ctl (i : Nat) (r : Record) (s : State) :
    (loseRecord i r s).capture.ctl = s.capture.ctl := rfl

@[simp] theorem produce_ctl (i : Nat) (r : Record) (post : Bool) (s : State) :
    (produce i r post s).capture.ctl = s.capture.ctl := by
  unfold produce
  dsimp only
  split <;> split <;> rfl

@[simp] theorem produceStart_ctl (i n : Nat) (m : Sample) (s : State) :
    (produceStart i n m s).capture.ctl = s.capture.ctl := by
  simp only [produceStart, takeReference_ctl, enqueue_controller, setCapture_capture]

@[simp] theorem producePod_ctl (i n : Nat) (m : Sample) (post : Bool) (s : State) :
    (producePod i n m post s).capture.ctl = s.capture.ctl := by
  simp [producePod]

@[simp] theorem closeSegment_controller (i : Nat) (stopped : Bool) (s : State) :
    (closeSegment i stopped s).capture.ctl = s.capture.ctl ∧
    (closeSegment i stopped s).capture.layout = s.capture.layout := by
  unfold closeSegment
  dsimp only
  split <;> simp

@[simp] theorem beginSegment_controller (i n : Nat) (s : State) :
    (beginSegment i n s).capture.ctl = s.capture.ctl ∧
    (beginSegment i n s).capture.layout = s.capture.layout := ⟨rfl, rfl⟩

/-! ## Production -/

theorem keeps_takeReference (i : Nat) (r : Record) (s : State) : Keeps s (takeReference i r s) :=
  keeps_modSeg

theorem keeps_loseRecord (i : Nat) (r : Record) (s : State) : Keeps s (loseRecord i r s) :=
  (keeps_raise _ _ _).after keeps_modSeg

section
variable {i : Nat} {s : State} (h : s.capture.ctl = .capturing i)
include h

theorem keeps_placeOverrun (o : Overrun) (r : Record) (post : Bool) : Keeps s (placeOverrun i o r post s) :=
  (keeps_enqueue _ post h).trans keeps_modSeg

theorem keeps_produce (r : Record) (post : Bool) : Keeps s (produce i r post s) := by
  have href := keeps_takeReference i r s
  have hlose := href.trans (keeps_loseRecord i r _)
  unfold produce
  dsimp only
  split
  · exact .ite (fun _ => href.trans (keeps_enqueue r post h)) fun _ => hlose
  · next o _ =>
    exact .ite (fun _ => (href.trans (keeps_placeOverrun (by exact h) o r post)).trans (keeps_enqueue r post (by exact h))) fun _ => hlose

theorem keeps_produceChange (n : Nat) (m : Sample) (post : Bool) : Keeps s (produceChange i n m post s) :=
  keeps_produce h _ post

theorem keeps_producePod (n : Nat) (m : Sample) (post : Bool) : Keeps s (producePod i n m post s) :=
  Keeps.after (keeps_produce (by exact h) _ post) keeps_modSeg

theorem keeps_produceStart (n : Nat) (m : Sample) : Keeps s (produceStart i n m s) :=
  (keeps_takeReference _ _ _).after ((keeps_enqueue _ false (by exact h)).after keeps_setCapture)

theorem keeps_produceSample (n : Nat) (m : Sample) (e : Bool) : Keeps s (produceSample i n m e s) := by
  unfold produceSample
  dsimp only
  split
  · refine .ite (fun _ => keeps_producePod h n m _) fun _ => .ite (fun _ => keeps_produceChange h n m _) fun _ => .refl s
  · have hpod : ∀ (c : Prop) [Decidable c] (post : Bool), Keeps s (if c then producePod i n m post s else s) ∧
        (if c then producePod i n m post s else s).capture.ctl = .capturing i := by
      intro c _ post
      split
      · exact ⟨keeps_producePod h n m post, by simpa using h⟩
      · exact ⟨.refl s, h⟩
    obtain ⟨hk, hc⟩ := hpod (decide (m.valid ≠ (segAt s i).refPods) = true) (decide ((segAt s i).state = .postFill))
    exact .ite (fun _ => hk.trans (keeps_produceChange hc n m _)) fun _ => hk

end

theorem keeps_captureSample (n : Nat) (m : Sample) (e : Bool) (s : State) : Keeps s (captureSample n m e s) := by
  unfold captureSample
  split
  · exact .refl s
  · next i hi =>
    have h := currentSeg_eq_some.1 hi
    refine .ite (fun _ => ?_) fun _ => keeps_produceSample h n m e
    have hstart := keeps_produceStart h n m
    exact .ite (fun _ => hstart.trans (keeps_produceChange (by simpa using h) n m false)) fun _ => hstart

theorem keeps_beginSegment (i n : Nat) (s : State) : Keeps s (beginSegment i n s) :=
  Keeps.trans (t := modSeg i (fun d =>
      { Segment.empty s.capture.layout with
        size := d.size, state := .filling, startTime := n, wallStart := s.time.seconds
        mask := s.capture.inForce.mask, mode := s.time.modeInForce, divider := s.time.divider }) s)
    keeps_modSeg keeps_setCapture

/-! ## Closing and the stop of sampling -/

theorem keeps_closeSegment {i : Nat} {s : State} (h : s.capture.ctl = .capturing i) (stopped : Bool) :
    Keeps s (closeSegment i stopped s) := by
  have hclose : ∀ u, Keeps s u → u.capture.ctl = .capturing i → ∀ r,
      Keeps s (modSeg i (fun d => { d with state := .closing, closeStopped := stopped, endTime := some r.time })
        (enqueue i r false (setCapture { u.capture with needStart := false } u))) := fun u hu hc r =>
    Keeps.after keeps_modSeg ((keeps_enqueue r false (by exact hc)).after (hu.trans keeps_setCapture))
  unfold closeSegment
  dsimp only
  split
  · exact hclose s (.refl s) h _
  · exact hclose _ (keeps_placeOverrun h _ _ _) h _

/-- Where the controller leaves CAPTURING or MONITOR the sequencer is IDLE and sampling STOPPED with it. -/
theorem keeps_leave {s : State} {c : CaptureState} {t : Trigger} (hc : (∃ i, s.capture.ctl = .capturing i) ∧ c = .closing ∨
      s.capture.ctl = .monitor ∧ c = .idle) (ht : captureInForm s → t.state = .idle)
    (hd : dividersInRange s.trigger → dividersInRange t) :
    Keeps s { s with
      time := { s.time with sampling := false, fresh := false }
      trigger := t
      capture := { s.capture with ctl := c } } where
  decode := id
  stores := fun ⟨hm, hq, hn, hw, hp, hv, hr, hs⟩ => ⟨hm, hq, hn, hw, hp, hv, hr, hd hs⟩
  capture := by
    intro h
    have hidle := ht h
    obtain ⟨h1, h2, ⟨h3, h4, h5, h6, h7, h8, h9⟩, hsamp, hseq⟩ := h
    obtain ⟨⟨i, hi⟩, rfl⟩ | ⟨hm, rfl⟩ := hc
    · exact ⟨h1, h2, ⟨h3, h4, h5, h6, h7, nofun, nofun⟩, rfl, iff_of_true hidle nofun⟩
    · exact ⟨h1, h2, ⟨h3, h4, h5, h6, h7, nofun, fun _ => h9 (.inr hm)⟩, rfl, iff_of_true hidle nofun⟩

theorem keeps_endCapture {i : Nat} {s : State} (h : s.capture.ctl = .capturing i) (stopped : Bool) :
    Keeps s (endCapture i stopped s) := by
  have hclose := keeps_closeSegment h stopped
  have hleave : Keeps (closeSegment i stopped s) _ :=
    keeps_leave (c := .closing) (t := (closeSegment i stopped s).trigger.toIdle)
      (.inl ⟨⟨i, by simpa using h⟩, rfl⟩) (fun _ => rfl) (toIdle_dividers _)
  unfold endCapture stopSampling
  exact (keeps_lanesStop _ _).after (hclose.trans hleave)

theorem keeps_endMonitor {s : State} (h : s.capture.ctl = .monitor) : Keeps s (endMonitor s) := by
  have hleave : Keeps s _ := keeps_leave (c := .idle) (t := s.trigger) (.inr ⟨h, rfl⟩)
    (fun hs => hs.2.2.2.2.2 fun i hi => by simp [h] at hi) id
  unfold endMonitor stopSampling
  exact (keeps_lanesStop none _).after hleave

theorem keeps_stopCapture (s : State) : Keeps s (stopCapture s) := by
  unfold stopCapture
  dsimp only
  split
  · exact .refl s
  · exact .refl s
  · next h => exact (keeps_settleGaps s).trans (keeps_endMonitor h)
  · next i h => exact (keeps_settleGaps s).trans (keeps_endCapture h true)

theorem keeps_timeLimitStop (s : State) : Keeps s (timeLimitStop s) := by
  unfold timeLimitStop
  dsimp only
  split
  · exact (keeps_stopCapture s).trans (keeps_raise _ _ _)
  · exact (keeps_raise _ _ _).after ((keeps_stopCapture _).after keeps_modSeg)

theorem keeps_settleTimeLimit (s : State) : Keeps s (settleTimeLimit s) :=
  .ite (fun _ => keeps_timeLimitStop s) fun _ => .refl s

/-! ## Post-fill completion -/

/-- The controller moves on to another segment of the layout. -/
theorem keeps_capturing {i k : Nat} {s : State} (h : s.capture.ctl = .capturing i) (hk : k < s.capture.layout) :
    Keeps s (setCapture { s.capture with ctl := .capturing k } s) where
  decode := id
  stores := id
  capture := by
    intro hs
    have hout := hs.sequencer_out h
    obtain ⟨h1, h2, ⟨h3, h4, h5, h6, h7, h8, h9⟩, hsamp, hseq⟩ := hs
    refine ⟨h1, h2, ⟨h3, h4, h5, h6, h7, fun j hj => ?_, nofun⟩, ?_, iff_of_false hout fun hn => hn k rfl⟩
    · cases hj
      exact hk
    · rw [samplingFitsController, h] at hsamp
      exact hsamp

theorem keeps_completePostFill {i : Nat} {s : State} (h : s.capture.ctl = .capturing i) :
    Keeps s (completePostFill i s) := by
  have hgaps : (settleGaps s).capture.ctl = .capturing i := by simpa using h
  unfold completePostFill
  refine (keeps_settleGaps s).trans (.ite (fun hnext => ?_) fun _ => keeps_endCapture hgaps false)
  refine Keeps.after (keeps_rearm fun hs => hs.sequencer_out (i := i + 1) rfl) ?_
  refine Keeps.after (keeps_capturing (i := i) (by simpa using h) (by simpa using hnext.2)) ?_
  exact (keeps_beginSegment _ _ _).after (keeps_closeSegment hgaps false)

theorem keeps_settlePostFill (s : State) : Keeps s (settlePostFill s) := by
  unfold settlePostFill
  split
  · exact .refl s
  · next i hi => exact .ite (fun _ => keeps_completePostFill (currentSeg_eq_some.1 hi)) fun _ => .refl s

theorem keeps_settleAtTrigger (s : State) : Keeps s (settleAtTrigger s) :=
  .ite (fun _ => keeps_settlePostFill s) fun _ => .refl s

/-! ## One grid tick -/

theorem keeps_stampedSample (n : Nat) (m : Sample) (e : Bool) (s : State) : Keeps s (stampedSample n m e s) := by
  have hseq := (keeps_captureSample n m e s).trans (keeps_sequencerSample m e n _)
  exact (hseq.trans (.ite (fun _ => keeps_settleAtTrigger _) fun _ => .refl _)).trans
    ((keeps_liveTick n m.levels _).trans (keeps_settleAtTrigger _))

theorem keeps_settleBeforeSample (s : State) : Keeps s (settleBeforeSample s) :=
  ((keeps_settleGaps s).trans (keeps_settlePostFill _)).trans (keeps_settleTimeLimit _)

theorem qualifiedPods_range (m : Mode) {p : Pods} (h : podsInRange p) : podsInRange (qualifiedPods m p) := by
  cases m <;> exact h

theorem deliverTick_range (b : Bool) {p : Pods} (h : podsInRange p) : podsInRange (deliverTick b p) := by
  obtain ⟨hl, hd⟩ := h
  refine ⟨fun i => ?_, hd⟩
  fin_cases i
  exacts [hl 0, hl 1, hl 2, hl 3]

theorem keeps_gridTick (b : Bool) (s : State) : Keeps s (gridTick b s) := by
  have hbefore : Keeps s (settleBeforeSample (setTrigger { s.trigger with trigOut := false } s)) :=
    (keeps_settleBeforeSample _).after (keeps_setTrigger_same rfl id)
  unfold gridTick
  refine hbefore.trans ?_
  generalize settleBeforeSample (setTrigger { s.trigger with trigOut := false } s) = u
  have hpods : Keeps u { u with
      pods := qualifiedPods u.time.modeInForce (deliverTick b u.pods)
      time := { u.time with last := streamSample u.time.modeInForce (deliverTick b u.pods) } } :=
    .trans (keeps_setPods fun h => qualifiedPods_range _ (deliverTick_range b h)) (keeps_setTime rfl id)
  refine hpods.trans (.ite (fun _ => ?_) fun _ => .refl _)
  exact (keeps_stampedSample _ _ _ _).after (keeps_setTime rfl id)

end Sys2Proof.Machine
end

section
/-! The memory port and the start of a capture keep the three invariants, and no access of a part in form stops. -/

namespace Sys2Proof.Machine

/-! ## The ring -/

theorem keeps_settleIndex (i : Nat) (s : State) : Keeps s (settleIndex i s) := by
  unfold settleIndex
  split
  · exact .refl s
  · exact keeps_modSeg (by intro d; dsimp only; split <;> rfl)

/-- The capture is complete: nothing waits, and the controller goes from CLOSING to IDLE. -/
theorem keeps_complete {s : State} (h : s.capture.ctl = .closing ∧ s.capture.queue = []) :
    Keeps s (setCapture { s.capture with ctl := .idle } s) where
  decode := id
  stores := id
  capture := by
    obtain ⟨hc, hq⟩ := h
    rintro ⟨h1, h2, ⟨h3, h4, h5, h6, h7, h8, h9⟩, hsamp, hseq⟩
    rw [samplingFitsController, hc] at hsamp
    exact ⟨h1, h2, ⟨h3, h4, h5, h6, h7, nofun, fun _ => hq⟩, hsamp, iff_of_true (hseq.2 fun i hi => by simp [hc] at hi) nofun⟩

theorem keeps_closeWritten (i : Nat) (s : State) : Keeps s (closeWritten i s) := by
  have hdone := Keeps.after (keeps_raise blkCapture evSegmentDone _)
    (.after (keeps_modSeg (i := i) (f := fun d => { d with state := if d.closeStopped then .stopped else .done }))
      (keeps_settleIndex i s))
  unfold closeWritten
  exact hdone.trans (.ite (fun h => (keeps_complete h).trans (keeps_raise _ _ _)) fun _ => .refl _)

/-- The head of the writer queue goes into the DRAM. -/
theorem keeps_writeHead {q : Queued} {rest : List Queued} {s : State} (h : s.capture.queue = q :: rest) (a : Nat) :
    Keeps s (setCapture { s.capture with
      dram := Mem.write Record.blank s.capture.dram a q.record, queue := rest } s) where
  decode := id
  stores := fun ⟨⟨hm, ho⟩, hq⟩ => ⟨⟨Mem.write_wf a _ hm, ho⟩, hq⟩
  capture := fun ⟨h1, h2, ⟨h3, h4, h5, h6, h7, h8, h9⟩, h10⟩ =>
    ⟨h1, h2, ⟨h3, h4, h5, h6, fun p hp => h7 p (h ▸ List.mem_cons_of_mem q hp), h8, fun hc => by
      rw [h9 hc] at h
      cases h⟩, h10⟩

theorem keeps_ringWrite {q : Queued} {rest : List Queued} {s : State} (h : s.capture.queue = q :: rest) :
    Keeps s (ringWrite q rest s) := by
  unfold ringWrite
  refine Keeps.after (keeps_measureAfterWrite _ _) ?_
  dsimp only
  have hwrite := fun a o => (keeps_writeHead h a).trans (keeps_modSeg (i := q.seg) (f := fun d => d.wrote q o))
  have htrim := fun a o => (hwrite a o).trans
    (.ite (c := decide ((segAt s q.seg).size ≤ (segAt s q.seg).retained) = true) (fun _ => keeps_trimLog q.seg o _)
      fun _ => .refl _)
  exact (htrim _ _).trans (.ite (fun _ => keeps_closeWritten _ _) fun _ => .refl _)

/-! ## The arbiter -/

/-- An outcome that keeps the invariants where it answers a state, and answers one where the capture store is in form. -/
structure Safe (s : State) (o : Outcome) : Prop where
  keeps : ∀ t, o = .next t → Keeps s t
  runs : captureInForm s → ∃ t, o = .next t

theorem Keeps.safe {s t : State} (h : Keeps s t) : Safe s (.next t) :=
  ⟨fun _ e => by cases e; exact h, fun _ => ⟨t, rfl⟩⟩

theorem Safe.after {s u : State} {o : Outcome} (g : Safe u o) (h : Keeps s u) : Safe s o :=
  ⟨fun t e => h.trans (g.keeps t e), fun hs => g.runs (h.capture hs)⟩

theorem validCount_range {n : Nat} (h : validCount n = true) : 1 ≤ n ∧ n ≤ 256 := by
  simp only [validCount, List.contains_eq_mem, decide_eq_true_eq, List.mem_cons, List.not_mem_nil, or_false] at h
  omega

/-- Every slot of a segment of the layout is a slot of the DRAM. -/
theorem ringSlot_lt {i layout : Nat} (d : Segment) (n : Nat) (hl : validCount layout = true) (hi : i < layout)
    (hd : d.size = Config.recordSlots / layout) : ringSlot i d n < Config.recordSlots := by
  obtain ⟨hpos, hmax⟩ := validCount_range hl
  have hsize : 0 < d.size := hd ▸ Nat.div_pos (hmax.trans (by decide)) hpos
  calc i * d.size + n % d.size
    _ < i * d.size + d.size := Nat.add_lt_add_left (Nat.mod_lt n hsize) _
    _ = (i + 1) * d.size := (Nat.succ_mul i d.size).symm
    _ ≤ layout * d.size := Nat.mul_le_mul_right _ hi
    _ ≤ Config.recordSlots := by rw [hd]; exact Nat.mul_div_le _ _

theorem captureInForm.size_segAt {s : State} {i : Nat} (h : captureInForm s) (hi : i < s.capture.layout) :
    (segAt s i).size = Config.recordSlots / s.capture.layout := by
  obtain ⟨-, -, ⟨-, hlen, -, hsize, -⟩, -⟩ := h
  rw [← hlen] at hi
  rw [segAt, List.getD_eq_getElem _ _ hi]
  exact hsize _ (List.getElem_mem hi)

theorem writerAccess_safe (s : State) : Safe s (writerAccess s) := by
  unfold writerAccess
  split
  · exact (keeps_writeLogEntry s).safe
  · next q rest hq =>
    refine ⟨fun t ht => ?_, fun hs => ?_⟩
    · split at ht <;> cases ht
      exact keeps_ringWrite hq
    · have ⟨_, _, ⟨hl, _, _, _, hseg, _⟩, _⟩ := hs
      have hlt : q.seg < s.capture.layout := hseg q (hq ▸ List.mem_cons_self)
      rw [if_neg (Nat.not_le.2 (ringSlot_lt _ _ hl hlt (hs.size_segAt hlt)))]
      exact ⟨_, rfl⟩

theorem keeps_readoutAccess (s : State) : Keeps s (readoutAccess s) := by
  unfold readoutAccess
  refine .ite (fun _ => Keeps.after (keeps_setCapture (by simp)) (keeps_readFrameEntry s)) fun _ => ?_
  split
  · exact .refl s
  · exact .ite (fun _ => Keeps.after keeps_setCapture keeps_setCapture) fun _ => .refl s

theorem serve_safe (r : Requester) (s : State) : Safe s (serve r s) := by
  cases r with
  | writer => exact writerAccess_safe s
  | readout => exact (keeps_readoutAccess s).safe
  | view => exact (keeps_viewAccess s).safe
  | lane l => exact (keeps_replayRead l s).safe

theorem arbitrate_safe (s : State) : Safe s (arbitrate s) := by
  unfold arbitrate
  split
  · exact writerAccess_safe s
  · split
    · exact (Keeps.refl s).safe
    · exact (serve_safe _ _).after keeps_setCapture

/-! ## The start of sampling and of a capture -/

theorem keeps_lanesStart_capture {s : State} : captureInForm (lanesStart s) ↔ captureInForm s := by
  simp [captureInForm, layoutHolds, samplingFitsController, sequencerFitsController]

theorem primed_dividers {t : Trigger} (m : Sample) (h : dividersInRange t) : dividersInRange (t.primed m) := h

theorem keeps_newLayout {s : State} (h : s.capture.ctl = .idle) : Keeps s (newLayout s) where
  decode := id
  stores := fun ⟨hm, ⟨hu, _, hs⟩, hn⟩ => ⟨hm, ⟨hu, Nat.zero_le _, hs⟩, hn⟩
  capture := by
    rintro ⟨h1, -, ⟨-, -, -, -, -, h8, h9⟩, h10⟩
    refine ⟨h1, h1, ⟨h1.1, List.length_replicate, List.length_replicate, fun d hd => ?_, ?_, ?_, h9⟩, h10⟩
    · rw [List.eq_of_mem_replicate hd]
      rfl
    · rw [show (newLayout s).capture.queue = [] from h9 (.inl h)]
      exact nofun
    · rw [show (newLayout s).capture.ctl = .idle from h]
      exact nofun

/-- The start of MONITOR: the controller, the sampling state and the lanes. -/
theorem keeps_startMonitor {s : State} (h : s.capture.ctl = .idle) :
    Keeps s (startSampling (setCapture { s.capture with ctl := .monitor } s)) := by
  refine (keeps_lanesStart _).after ⟨id, fun hs => ?_, fun ⟨hm, hq, hn, hw, hp, hv, hr, ht⟩ =>
    ⟨hm, hq, hn, hw, hp, hv, hr, primed_dividers _ ht⟩⟩
  obtain ⟨h1, h2, ⟨h3, h4, h5, h6, h7, h8, h9⟩, -, hseq⟩ := hs
  refine ⟨h1, h2, ⟨h3, h4, h5, h6, h7, nofun, fun _ => h9 (.inl h)⟩, rfl, ?_⟩
  exact iff_of_true (hseq.2 fun i hi => by simp [h] at hi) nofun

theorem startSequencer_out (s : State) : (startSequencer s).trigger.state ≠ .idle := by
  have hrun : ∀ u, (enterRunning u).trigger.state = .running := fun u => by
    simp [enterRunning, enterStage, Trigger.enterStage]
  unfold startSequencer
  dsimp only
  split
  · split
    · simp
    · simp [hrun]
  · simp [hrun]

theorem keeps_startSequencer {s : State} (hs : captureInForm s → s.trigger.state ≠ .idle) : Keeps s (startSequencer s) := by
  have hrun : Keeps s (enterRunning (setTrigger { s.trigger.fresh with stage := 0 } s)) := by
    refine Keeps.after (keeps_enterRunning fun h => ?_) (keeps_setTrigger_same rfl id)
    exact hs h
  unfold startSequencer
  dsimp only
  split
  · refine .ite (fun _ => keeps_setTrigger (fun h => iff_of_false nofun (hs h)) fun h => holdDividers_dividers _ h) fun _ => hrun
  · exact hrun

end Sys2Proof.Machine
end

section
/-! Every command and every row keeps the three invariants; so does every step, and none stops from a state in form. -/

namespace Sys2Proof.Machine

/-! ## RUN -/

/-- The state that RUN hands to the view engine. -/
def captureStarted (s : State) : State :=
  let s1 := beginSegment 0 0 (startSampling (newLayout s))
  startSequencer (setCapture { s1.capture with ctl := .capturing 0 } s1)

theorem startCapture_eq (s : State) : startCapture s = viewAtRun (captureStarted s) := rfl

theorem layoutHolds_beginSegment (i n : Nat) {s : State} (h : layoutHolds s) : layoutHolds (beginSegment i n s) :=
  layoutHolds_modSeg (f := fun d =>
      { Segment.empty s.capture.layout with
        size := d.size, state := .filling, startTime := n, wallStart := s.time.seconds
        mask := s.capture.inForce.mask, mode := s.time.modeInForce, divider := s.time.divider })
    (fun _ => rfl) h

theorem captureInForm_captureStarted {s : State} (h : s.capture.ctl = .idle) (hs : captureInForm s) :
    captureInForm (captureStarted s) := by
  obtain ⟨hst, hin, hlay, -⟩ := (keeps_newLayout h).capture hs
  have hlay : layoutHolds (startSampling (newLayout s)) := by simpa [layoutHolds] using hlay
  obtain ⟨h3, h4, h5, h6, h7, -⟩ := layoutHolds_beginSegment 0 0 hlay
  have hpos := (validCount_range h3).1
  have hlay : layoutHolds (setCapture
      { (beginSegment 0 0 (startSampling (newLayout s))).capture with ctl := .capturing 0 }
      (beginSegment 0 0 (startSampling (newLayout s)))) :=
    ⟨h3, h4, h5, h6, h7, fun i hi => by cases hi; exact hpos, nofun⟩
  refine ⟨?_, ?_, ?_, ?_, iff_of_false (startSequencer_out _) fun hn => hn 0 (by simp [captureStarted])⟩
  · simpa [captureStarted, beginSegment] using hst
  · simpa [captureStarted, beginSegment] using hin
  · simpa [captureStarted, layoutHolds] using hlay
  · simp [captureStarted, samplingFitsController, startSampling]

theorem keeps_startCapture {s : State} (h : s.capture.ctl = .idle) : Keeps s (startCapture s) := by
  have hstart : Keeps (setCapture { (beginSegment 0 0 (startSampling (newLayout s))).capture with ctl := .capturing 0 }
      (beginSegment 0 0 (startSampling (newLayout s)))) (captureStarted s) :=
    keeps_startSequencer fun hs => hs.sequencer_out (i := 0) rfl
  have hlanes := keeps_lanesStart { newLayout s with
    time := { (newLayout s).time with sampling := true, fresh := true, modeInForce := (newLayout s).time.mode }
    trigger := (newLayout s).trigger.primed (newLayout s).time.last }
  have hbegin := keeps_beginSegment 0 0 (startSampling (newLayout s))
  have hnew := keeps_newLayout h
  rw [startCapture_eq]
  refine Keeps.trans ⟨fun hs => ?_, captureInForm_captureStarted h, fun hs => ?_⟩ (keeps_viewAtRun _)
  · exact hstart.decode (hbegin.decode (hlanes.decode (hnew.decode hs)))
  · refine hstart.stores (hbegin.stores (hlanes.stores ?_))
    obtain ⟨hm, hq, hn, hw, hp, hv, hr, ht⟩ := hnew.stores hs
    exact ⟨hm, hq, hn, hw, hp, hv, hr, primed_dividers _ ht⟩

/-! ## Commands: pods -/

theorem PodLink.inRange.wait_of_not_up {k : PodLink} (h : k.inRange) (hs : k.state ≠ .up) : k.wait = none := by
  obtain ⟨-, -, -, -, -, hw, -⟩ := h
  exact Option.not_isSome_iff_eq_none.1 fun e => hs (hw e)

theorem clamp_code_range (c : Nat) :
    8 ≤ (BitVec.ofNat 8 (clamp 8 248 c)).toNat ∧ (BitVec.ofNat 8 (clamp 8 248 c)).toNat ≤ 248 := by
  have h : 8 ≤ clamp 8 248 c ∧ clamp 8 248 c ≤ 248 := by unfold clamp; omega
  rw [BitVec.toNat_ofNat, Nat.mod_eq_of_lt (by omega)]
  exact h

theorem keeps_cmdSetPod (a b c : Word) (s : State) : Keeps s (cmdSetPod a b c s).2 := by
  unfold cmdSetPod
  split
  · exact .refl s
  · split
    · exact .refl s
    · dsimp only [accept]
      refine keeps_modLink ?_
      rintro ⟨h1, h2, h3, h4, h5, h6, h7, -, -, h10⟩
      obtain ⟨hlo, hhi⟩ := clamp_code_range b.toNat
      split
      · next hup => exact ⟨h1, h2, h3, h4, h5, fun _ => hup, Nat.zero_le _, hlo, hhi, h10⟩
      · exact ⟨h1, h2, h3, h4, h5, h6, h7, hlo, hhi, h10⟩

theorem keeps_cmdRetrain (a : Word) (s : State) : Keeps s (cmdRetrain a s).2 := by
  unfold cmdRetrain
  split
  · exact .refl s
  · next p _ =>
    have ht : Keeps s (modLink p (fun k => k.dropWait.train) s) :=
      keeps_modLink fun h => train_range _ (dropWait_range _ h) rfl
    dsimp only
    split
    · exact ht.trans (keeps_raise _ _ _)
    · exact ht
    · exact .refl s
    · exact .refl s

theorem keeps_cmdSetDeskew (a : Word) (vs : List Word) (s : State) : Keeps s (cmdSetDeskew a vs s).2 := by
  unfold cmdSetDeskew
  split
  · exact .refl s
  · split
    · exact .refl s
    · refine keeps_setPods fun ⟨hl, hlen, hd⟩ => ?_
      obtain ⟨hlen', hd'⟩ := storeDeskew_range s.pods.deskew a.toNat vs hd
      exact ⟨hl, hlen'.trans hlen, hd'⟩

theorem keeps_cmdSetGlitch (a b : Word) (s : State) : Keeps s (cmdSetGlitch a b s).2 := by
  unfold cmdSetGlitch
  split
  · exact .refl s
  · split
    · exact .refl s
    · dsimp only [accept]
      refine keeps_modLink ?_
      rintro ⟨h1, h2, h3, h4, h5, h6, h7, h8, h9, -⟩
      exact ⟨h1, h2, h3, h4, h5, h6, h7, h8, h9, Nat.min_le_right _ _⟩

theorem keeps_cmdPodStatus (a : Word) (s : State) : Keeps s (cmdPodStatus a s).2 := by
  unfold cmdPodStatus
  split
  · exact .refl s
  · exact keeps_setPods id

/-! ## Commands: timebase -/

theorem keeps_cmdSetTimebase (a b c d e f : Word) (s : State) : Keeps s (cmdSetTimebase a b c d e f s).2 := by
  unfold cmdSetTimebase
  split
  · exact .refl s
  · split
    · split
      · exact .refl s
      · split
        · exact .refl s
        · exact keeps_setTime rfl id
    · exact .refl s

theorem keeps_cmdSetClock (a : Word) (s : State) : Keeps s (cmdSetClock a s).2 :=
  (keeps_secondsChanged _).after (keeps_setTime rfl fun ⟨_, h⟩ => ⟨Nat.succ_pos 32767, h⟩)

theorem keeps_cmdSetCorrection (a b c : Word) (s : State) : Keeps s (cmdSetCorrection a b c s).2 := by
  unfold cmdSetCorrection
  split
  · exact keeps_setTime rfl fun ⟨h, _⟩ => ⟨h, Nat.min_le_right _ _⟩
  · exact .refl s

theorem keeps_cmdSetRollPeriod (a : Word) (s : State) : Keeps s (cmdSetRollPeriod a s).2 := by
  unfold cmdSetRollPeriod
  split
  · exact .refl s
  · exact keeps_setTime rfl id

/-! ## Commands: the capture store -/

/-- The stored settings are replaced by valid ones. -/
theorem keeps_storeSettings {c : CaptureSettings} {s : State} (hc : settingsValid c) :
    Keeps s (setCapture { s.capture with stored := c } s) :=
  ⟨id, fun ⟨_, h2, h3⟩ => ⟨hc, h2, h3⟩, id⟩

theorem keeps_cmdSetCapture (a b c d e f : Word) (s : State) : Keeps s (cmdSetCapture a b c d e f s).2 := by
  unfold cmdSetCapture
  split
  · exact .refl s
  · split
    · split
      · exact .refl s
      · next hcount =>
        split
        · exact .refl s
        · next hsum => exact keeps_storeSettings ⟨by simpa using hcount, Nat.not_lt.1 hsum⟩
    · exact .refl s

theorem keeps_cmdRun (s : State) : Keeps s (cmdRun s).2 := by
  unfold cmdRun
  split
  · exact .refl s
  · next hidle =>
    split
    · exact .refl s
    · split
      · exact .refl s
      · exact keeps_startCapture (not_ne_iff.1 hidle)

theorem keeps_cmdMonitor (s : State) : Keeps s (cmdMonitor s).2 := by
  unfold cmdMonitor
  split
  · exact .refl s
  · next hidle => exact keeps_startMonitor (not_ne_iff.1 hidle)

theorem keeps_cmdStop (s : State) : Keeps s (cmdStop s).2 := by
  dsimp only [cmdStop, accept]
  exact (keeps_stopCapture _).after (keeps_settleTimeLimit s)

theorem keeps_cmdReadSegment (a : Word) (s : State) : Keeps s (cmdReadSegment a s).2 := by
  unfold cmdReadSegment
  split <;> exact .refl s

theorem keeps_cmdReadRecords (t : Tag) (a b c : Word) (s : State) : Keeps s (cmdReadRecords t a b c s).2 := by
  unfold cmdReadRecords
  split
  · exact .refl s
  · split
    · exact .refl s
    · split
      · exact .refl s
      · exact keeps_setCapture

theorem keeps_cmdAbortRead (s : State) : Keeps s (cmdAbortRead s).2 :=
  Keeps.trans (t := setPath { s.rpath with readout := s.rpath.readout.map fun r => { r with ended := true } } s)
    (keeps_setPath rfl id id) keeps_setCapture

/-! ## Commands: the sequencer -/

theorem load_state {t u : Trigger} {image : List Word} (h : t.load image = some u) : u.state = t.state := by
  unfold Trigger.load at h
  dsimp only at h
  split at h
  · cases h
  · split at h
    · cases h
    · split at h <;> cases h
      rfl

theorem keeps_cmdLoadTrigger (image : List Word) (s : State) : Keeps s (cmdLoadTrigger image s).2 := by
  unfold cmdLoadTrigger
  split
  · exact .refl s
  · split
    · exact .refl s
    · split
      · exact .refl s
      · next t ht => exact keeps_setTrigger_same (load_state ht) fun _ => load_dividers _ _ _ ht

theorem keeps_cmdSetArmTime (a b : Word) (s : State) : Keeps s (cmdSetArmTime a b s).2 := by
  unfold cmdSetArmTime
  split
  · exact .refl s
  · exact keeps_setTrigger_same rfl id

theorem keeps_cmdSetCounter (a b : Word) (s : State) : Keeps s (cmdSetCounter a b s).2 := by
  unfold cmdSetCounter
  split
  · exact .refl s
  · exact keeps_setTrigger_same rfl id

theorem keeps_cmdSetCompare (a b : Word) (s : State) : Keeps s (cmdSetCompare a b s).2 := by
  unfold cmdSetCompare
  split
  · exact .refl s
  · exact keeps_setTrigger_same rfl id

theorem keeps_cmdForceTrigger (s : State) : Keeps s (cmdForceTrigger s).2 := by
  unfold cmdForceTrigger
  split
  · exact keeps_setTrigger_same rfl id
  · exact keeps_setTrigger_same rfl id
  · exact .refl s
  · exact .refl s

/-! ## Commands: frame tables -/

theorem Charge.ext_iff' (a b : Charge) :
    a = b ↔ a.entries = b.entries ∧ a.branches = b.branches ∧ a.checks = b.checks := by
  cases a
  cases b
  simp

/-- What the slots hold once one of them takes a table. -/
theorem held_put (tb : Tables) (l : LaneId) (t : Option FrameTable) :
    (tb.put l t).held.add (tb.slots[l]).charge = tb.held.add ((t.map FrameTable.charge).getD ⟨0, 0, 0⟩) := by
  fin_cases l <;> simp [Tables.put, Tables.held, Charge.add] <;> omega

/-- A slot takes a table whose charge is available, or is emptied, while its lane is OFF. -/
theorem keeps_put {l : LaneId} {t : Option FrameTable} {s : State} (ho : (s.lanes[l]).state = .off)
    (hw : ((t.map FrameTable.charge).getD ⟨0, 0, 0⟩).within (s.tables.free.add (s.tables.slots[l]).charge) = true) :
    Keeps s (setTables (s.tables.put l t) s) where
  capture := id
  stores := id
  decode := by
    rintro ⟨⟨hsum, hslots⟩, htab, hlanes⟩
    refine ⟨⟨?_, fun k => ?_⟩, fun k hk => ?_, hlanes⟩
    · have hheld := held_put s.tables l t
      have hfree : (s.tables.put l t).free = (s.tables.free.add (s.tables.slots[l]).charge).sub _ := rfl
      simp only [setTables_tables, hfree]
      generalize (t.map FrameTable.charge).getD ⟨0, 0, 0⟩ = c at hw hheld ⊢
      simp only [Charge.within, Bool.and_eq_true, decide_eq_true_eq] at hw
      simp only [Charge.ext_iff', Charge.add, Charge.sub] at hw hheld hsum ⊢
      omega
    · simp only [setTables_tables, Tables.put, Fin.getElem_fin, Vector.getElem_set]
      split
      · rfl
      · exact hslots k
    · simp only [setTables_tables, Tables.put, Fin.getElem_fin, Vector.getElem_set]
      split
      · next hlk =>
        obtain rfl := Fin.ext hlk
        exact absurd ho hk
      · exact htab k hk

theorem keeps_cmdLoadFrameTable (a : Word) (image : List Word) (s : State) : Keeps s (cmdLoadFrameTable a image s).2 := by
  unfold cmdLoadFrameTable
  split
  · exact .refl s
  · split
    · exact .refl s
    · next hoff =>
      split
      · exact .refl s
      · split
        · exact .refl s
        · dsimp only
          split
          · next hfit => exact keeps_put (not_ne_iff.1 hoff) hfit
          · exact .refl s

theorem keeps_cmdUnloadTable (a : Word) (s : State) : Keeps s (cmdUnloadTable a s).2 := by
  unfold cmdUnloadTable
  split
  · exact .refl s
  · split
    · exact .refl s
    · next hoff =>
      split
      · exact .refl s
      · exact keeps_put (not_ne_iff.1 hoff) (by simp [Charge.within])

end Sys2Proof.Machine
end

section
/-! Every command and every row keeps the three invariants; so does every step, and none stops from a state in form. -/

namespace Sys2Proof.Machine

/-! ## Commands: lanes and the record path -/

/-- A lane that has a table begins in HUNT. -/
theorem keeps_beginLane {l : LaneId} {ln : Lane} {s : State} (ht : (tableOf l s).isSome) (hin : ln.inForm) :
    Keeps s (setLane l ln s) :=
  keeps_setLane (fun _ => hin) fun _ => .inl ht

theorem started_inForm : Lane.started.inForm where
  open_iff := by decide
  errors_le := by decide
  context := by decide
  bounded := nofun

theorem replayLane_inForm (s : State) (i a b : Nat) (store : Bool) : (replayLane s i a b store).inForm where
  open_iff := iff_of_false nofun (fun h => h.elim nofun nofun)
  errors_le := Nat.zero_le _
  context := fun _ _ => rfl
  bounded := nofun

theorem keeps_cmdLaneStart (a : Word) (s : State) : Keeps s (cmdLaneStart a s).2 := by
  unfold cmdLaneStart
  split
  · exact .refl s
  · split
    · exact .refl s
    · split
      · exact .refl s
      · next htab =>
        split
        · exact .refl s
        · exact keeps_beginLane (by simpa [Option.isSome_iff_ne_none] using htab) started_inForm

theorem keeps_stopHunting (l : LaneId) (s : State) : Keeps s (stopHunting l s) :=
  keeps_applyLane none (fun _ => toOff_inForm _) fun h => absurd rfl h

theorem keeps_stopGraceful (l : LaneId) (s : State) : Keeps s (stopGraceful l s) := by
  unfold stopGraceful
  split
  · exact .refl s
  · exact keeps_stopHunting l s
  · next hs =>
    have hon : (s.lanes[l]).state ≠ .off := fun h => by
      rw [hs] at h
      cases h
    refine keeps_setLane (fun h => ?_) fun _ => .inr hon
    exact ⟨iff_of_true (h.open_iff.2 (.inl hs)) (.inr rfl), h.errors_le, fun _ => h.context hon, h.bounded⟩
  · exact .refl s

theorem keeps_stopNow (l : LaneId) (s : State) : Keeps s (stopNow l s) := by
  unfold stopNow
  dsimp only
  split
  · exact .refl s
  · exact keeps_stopHunting l s
  · next hoff _ => exact keeps_applyLane_active _ hoff (endFrame_inForm _ l _ _ _ _)
  · exact keeps_stopHunting l s

theorem keeps_cmdLaneStopGraceful (a : Word) (s : State) : Keeps s (cmdLaneStopGraceful a s).2 := by
  unfold cmdLaneStopGraceful
  split
  · exact .refl s
  · exact (keeps_settleGap _ s).trans (keeps_stopGraceful _ _)

theorem keeps_cmdLaneStopNow (a : Word) (s : State) : Keeps s (cmdLaneStopNow a s).2 := by
  unfold cmdLaneStopNow
  split
  · exact .refl s
  · exact (keeps_settleGap _ s).trans (keeps_stopNow _ _)

theorem keeps_replayFrom {l : LaneId} {s : State} (ht : (tableOf l s).isSome) (t : FrameTable) (i a b : Nat)
    (store : Bool) : Keeps s (replayFrom l t i a b store s).2 := by
  unfold replayFrom
  dsimp only
  split
  · exact .refl s
  · split
    · exact .refl s
    · split
      · exact .refl s
      · exact (keeps_beginLane ht (replayLane_inForm _ _ _ _ _)).trans
          (.ite (fun _ => keeps_dropLaneEntries _ _ _) fun _ => .refl _)

theorem keeps_cmdLaneReplay (a b : Word) (c d : DWord) (e : Word) (s : State) : Keeps s (cmdLaneReplay a b c d e s).2 := by
  unfold cmdLaneReplay
  split
  · exact .refl s
  · split
    · exact .refl s
    · split
      · exact .refl s
      · split
        · exact .refl s
        · next ht =>
          split
          · exact .refl s
          · exact keeps_replayFrom (by simp [ht]) _ _ _ _ _

theorem keeps_cmdLaneStatus (a : Word) (s : State) : Keeps s (cmdLaneStatus a s).2 := by
  unfold cmdLaneStatus
  split <;> exact .refl s

theorem keeps_cmdSetStream (a : Word) (s : State) : Keeps s (cmdSetStream a s).2 := by
  unfold cmdSetStream
  split
  · exact .refl s
  · exact keeps_setPath rfl id id

theorem keeps_cmdReadFrames (t : Tag) (a b : Word) (c : DWord) (d : Word) (s : State) :
    Keeps s (cmdReadFrames t a b c d s).2 := by
  unfold cmdReadFrames
  split
  · exact .refl s
  · split
    · exact .refl s
    · split
      · exact .refl s
      · exact keeps_setPath rfl id id

/-! ## Commands: the view engine and the panel -/

theorem keeps_cmdSetView (a : Word) (b c : DWord) (d : Word) (s : State) : Keeps s (cmdSetView a b c d s).2 := by
  unfold cmdSetView
  split
  · exact .refl s
  · split
    · exact .refl s
    · split
      · exact .refl s
      · exact keeps_viewRequest_setView fun _ => ⟨(clampQ_range _).1, (clampQ_range _).2, clampT0_range _⟩

theorem keeps_cmdZoom (a : Word) (b : DWord) (s : State) : Keeps s (cmdZoom a b s).2 := by
  unfold cmdZoom
  split
  · exact .refl s
  · exact keeps_viewRequest_setView fun _ => ⟨(clampQ_range _).1, (clampQ_range _).2, clampT0_range _⟩

theorem keeps_cmdPan (a : Word) (s : State) : Keeps s (cmdPan a s).2 :=
  keeps_viewRequest_setView fun ⟨h1, h2, _⟩ => ⟨h1, h2, clampT0_range _⟩

theorem keeps_cmdFit (s : State) : Keeps s (cmdFit s).2 := by
  unfold cmdFit
  dsimp only
  split
  · exact keeps_viewRequest_setView fun _ => ⟨(clampQ_range _).1, (clampQ_range _).2, clampT0_range _⟩
  · exact .refl s

theorem keeps_cmdSetCursor (a b : Word) (c : DWord) (s : State) : Keeps s (cmdSetCursor a b c s).2 := by
  unfold cmdSetCursor
  split
  · exact .refl s
  · refine keeps_viewRequest_setView fun h => ?_
    split <;> exact h

theorem keeps_cmdMeasure (t : Tag) (a b : Word) (c d : DWord) (s : State) : Keeps s (cmdMeasure t a b c d s).2 := by
  have hstart : ∀ i ch f g, Keeps s (startMeasure t i ch f g s).2 := fun i ch f g =>
    .ite (fun _ => keeps_finishMeasure _ _ s) fun _ => keeps_setView_same rfl rfl
  unfold cmdMeasure
  split
  · exact .refl s
  · split
    · exact .refl s
    · dsimp only
      split
      · split
        · exact .refl s
        · split
          · exact .refl s
          · exact hstart _ _ _ _
      · exact .refl s

theorem keeps_cmdReadColumns (t : Tag) (a b : Word) (s : State) : Keeps s (cmdReadColumns t a b s).2 := by
  unfold cmdReadColumns
  split
  · exact .refl s
  · split
    · exact .refl s
    · exact keeps_setView_same rfl rfl

theorem swapReady_viewportInRange {v : View} (h : viewportInRange v) : viewportInRange v.swapReady := by
  simpa [viewportInRange] using h

theorem keeps_panelOff (s : State) : Keeps s (panelOff s) :=
  Keeps.trans (t := setPanel { s.panel with running := false, scan := none } s) (keeps_setPanel id id)
    (keeps_setView swapReady_viewportInRange)

theorem keeps_cmdSetPanel (a : Word) (s : State) : Keeps s (cmdSetPanel a s).2 := by
  unfold cmdSetPanel
  dsimp only
  split
  · exact .refl s
  · exact .ite (fun _ => .refl s) fun _ => keeps_setPanel id id
  · exact .ite (fun _ => keeps_panelOff s) fun _ => .refl s

theorem keeps_cmdSetRowMap (vs : List Word) (s : State) : Keeps s (cmdSetRowMap vs s).2 := by
  unfold cmdSetRowMap
  split
  · exact .refl s
  · next hlen =>
    split
    · exact .refl s
    · next rows hrows =>
      obtain ⟨hl, hh⟩ := rowsOf_heights vs rows hrows
      exact (keeps_viewRequest _).after (keeps_setPanel id fun _ => ⟨by dsimp only; omega, hh⟩)

theorem keeps_cmdSetPalette (a : Word) (vs : List Word) (s : State) : Keeps s (cmdSetPalette a vs s).2 := by
  unfold cmdSetPalette
  split
  · exact .refl s
  · exact keeps_setPanel id id

theorem keeps_cmdOverlayFill (a b c d e : Word) (s : State) : Keeps s (cmdOverlayFill a b c d e s).2 := by
  unfold cmdOverlayFill
  dsimp only
  split
  · exact .refl s
  · exact keeps_setPanel (paintRect_wf _ _ _ _ _ _) id

theorem keeps_cmdOverlay (a b c d : Word) (ps : List Word) (s : State) : Keeps s (cmdOverlay a b c d ps s).2 := by
  unfold cmdOverlay
  dsimp only
  split
  · exact .refl s
  · exact keeps_setPanel (paintRect_wf _ _ _ _ _ _) id

theorem keeps_cmdSetBacklight (a : Word) (s : State) : Keeps s (cmdSetBacklight a s).2 := by
  unfold cmdSetBacklight
  split
  · exact .refl s
  · exact keeps_setPanel id id

/-! ## Commands: the Uplink -/

/-- A block's events change so that a notice due still has a pending event. -/
theorem keeps_setEvents {b : Fin 7} {e : EventSet} {s : State}
    (he : ((s.events[b]).due = true → (s.events[b]).pendingEvents ≠ 0) → e.due = true → e.pendingEvents ≠ 0) :
    Keeps s { s with events := s.events.set b e } where
  decode := id
  capture := id
  stores := fun ⟨hm, hq, hn, hw, hs⟩ => ⟨hm, hq, noticesHaveEvents_set hn rfl (he (hn b)), hw, hs⟩

theorem keeps_cmdClearEvents (a b : Word) (s : State) : Keeps s (cmdClearEvents a b s).2 := by
  unfold cmdClearEvents
  split
  · exact .refl s
  · split
    · exact .refl s
    · refine keeps_setEvents fun _ hd h => ?_
      rw [EventSet.clear_due_of_none_pending _ h] at hd
      cases hd

theorem keeps_cmdSetEnables (a b : Word) (s : State) : Keeps s (cmdSetEnables a b s).2 := by
  unfold cmdSetEnables
  split
  · exact .refl s
  · split
    · exact .refl s
    · refine keeps_setEvents fun _ hd h => ?_
      cases hd.symm.trans (EventSet.enable_due_of_none_pending _ h)

theorem keeps_cmdSoftReset (s : State) : Keeps s (cmdSoftReset s).2 := keeps_setUplink id

/-! ## Every command -/

theorem keeps_take {f : Command} {s : State} (h : Keeps s (f s).2) (tag : Tag) (p : BitVec 4) (c : BitVec 8) :
    Keeps s (take tag p c f s) :=
  h.trans (keeps_placeResponse _ _)

theorem keeps_takeCommand (i : Instr) (s : State) : Keeps s (takeCommand i s) := by
  cases i
  case setPod => exact keeps_take (keeps_cmdSetPod _ _ _ s) _ _ _
  case retrain => exact keeps_take (keeps_cmdRetrain _ s) _ _ _
  case setDeskew => exact keeps_take (keeps_cmdSetDeskew _ _ s) _ _ _
  case setGlitch => exact keeps_take (keeps_cmdSetGlitch _ _ s) _ _ _
  case podStatus => exact keeps_take (keeps_cmdPodStatus _ s) _ _ _
  case setTimebase => exact keeps_take (keeps_cmdSetTimebase _ _ _ _ _ _ s) _ _ _
  case setClock => exact keeps_take (keeps_cmdSetClock _ s) _ _ _
  case setCorrection => exact keeps_take (keeps_cmdSetCorrection _ _ _ s) _ _ _
  case setRollPeriod => exact keeps_take (keeps_cmdSetRollPeriod _ s) _ _ _
  case setCapture => exact keeps_take (keeps_cmdSetCapture _ _ _ _ _ _ s) _ _ _
  case run => exact keeps_take (keeps_cmdRun s) _ _ _
  case monitor => exact keeps_take (keeps_cmdMonitor s) _ _ _
  case stop => exact keeps_take (keeps_cmdStop s) _ _ _
  case readSegment => exact keeps_take (keeps_cmdReadSegment _ s) _ _ _
  case readRecords => exact keeps_take (keeps_cmdReadRecords _ _ _ _ s) _ _ _
  case abortRead => exact keeps_take (keeps_cmdAbortRead s) _ _ _
  case setArmTime => exact keeps_take (keeps_cmdSetArmTime _ _ s) _ _ _
  case setCounter => exact keeps_take (keeps_cmdSetCounter _ _ s) _ _ _
  case setCompare => exact keeps_take (keeps_cmdSetCompare _ _ s) _ _ _
  case forceTrigger => exact keeps_take (keeps_cmdForceTrigger s) _ _ _
  case unloadTable => exact keeps_take (keeps_cmdUnloadTable _ s) _ _ _
  case laneStart => exact keeps_take (keeps_cmdLaneStart _ s) _ _ _
  case laneStopGraceful => exact keeps_take (keeps_cmdLaneStopGraceful _ s) _ _ _
  case laneStopNow => exact keeps_take (keeps_cmdLaneStopNow _ s) _ _ _
  case laneReplay => exact keeps_take (keeps_cmdLaneReplay _ _ _ _ _ s) _ _ _
  case laneStatus => exact keeps_take (keeps_cmdLaneStatus _ s) _ _ _
  case setStream => exact keeps_take (keeps_cmdSetStream _ s) _ _ _
  case readFrames => exact keeps_take (keeps_cmdReadFrames _ _ _ _ _ s) _ _ _
  case setView => exact keeps_take (keeps_cmdSetView _ _ _ _ s) _ _ _
  case zoom => exact keeps_take (keeps_cmdZoom _ _ s) _ _ _
  case pan => exact keeps_take (keeps_cmdPan _ s) _ _ _
  case fit => exact keeps_take (keeps_cmdFit s) _ _ _
  case setCursor => exact keeps_take (keeps_cmdSetCursor _ _ _ s) _ _ _
  case measure => exact keeps_take (keeps_cmdMeasure _ _ _ _ _ s) _ _ _
  case readColumns => exact keeps_take (keeps_cmdReadColumns _ _ _ s) _ _ _
  case setPanel => exact keeps_take (keeps_cmdSetPanel _ s) _ _ _
  case setRowMap => exact keeps_take (keeps_cmdSetRowMap _ s) _ _ _
  case setPalette => exact keeps_take (keeps_cmdSetPalette _ _ s) _ _ _
  case overlayFill => exact keeps_take (keeps_cmdOverlayFill _ _ _ _ _ s) _ _ _
  case overlay => exact keeps_take (keeps_cmdOverlay _ _ _ _ _ s) _ _ _
  case setBacklight => exact keeps_take (keeps_cmdSetBacklight _ s) _ _ _
  case clearEvents => exact keeps_take (keeps_cmdClearEvents _ _ s) _ _ _
  case setEnables => exact keeps_take (keeps_cmdSetEnables _ _ s) _ _ _
  case softReset => exact keeps_take (keeps_cmdSoftReset s) _ _ _
  case loadTrigger => exact keeps_take (keeps_cmdLoadTrigger _ s) _ _ _
  case loadFrameTable => exact keeps_take (keeps_cmdLoadFrameTable _ _ s) _ _ _
  case timebaseStatus | captureStatus | triggerStatus | tableStatus | recordPathStatus | viewStatus | panelStatus |
      eventStatus | identify => exact keeps_take (.refl s) _ _ _
  all_goals exact .refl s

end Sys2Proof.Machine
end

section
/-! Every row and every step keeps the three invariants, and no step from a capture store in form stops. -/

namespace Sys2Proof.Machine

/-! ## Rows: pods -/

theorem keeps_receiveTraining {p : Pod} {s : State} (w : TrainingWord) (h : (s.pods.links[p]).state = .training) :
    Keeps s (receiveTraining p w s) :=
  (keeps_raiseIf _ _ _ _).after ((keeps_raiseIf _ _ _ _).after (keeps_modLink fun hk => trainingWord_range _ w hk h))

theorem keeps_receiveBad {p : Pod} {s : State} (h : (s.pods.links[p]).state = .up) : Keeps s (receiveBad p s) :=
  (keeps_raiseIf _ _ _ _).after ((keeps_raiseIf _ _ _ _).after ((keeps_raise _ _ _).after
    (keeps_modLink fun hk => badFrame_range _ hk h)))

theorem keeps_receiveGood {p : Pod} {s : State} (v : Vector Byte 16) (h : (s.pods.links[p]).state = .up) :
    Keeps s (receiveGood p v s) :=
  (keeps_raiseIf _ _ _ _).after (keeps_modLink fun hk => goodFrame_range _ v hk h)

theorem sensed_inRange {k : PodLink} (h : k.inRange) : ({ k with sensed := true } : PodLink).inRange := h

theorem execPodPresenceSensed_safe (p : Pod) (s : State) : Safe s (execPodPresenceSensed p s) := by
  refine Keeps.safe (keeps_modLink fun h => ?_)
  dsimp only
  split
  · next hs => exact train_range _ (sensed_inRange h) (h.wait_of_not_up fun hup => by cases hs.symm.trans hup)
  · exact h

theorem execPodRemoved_safe (p : Pod) (s : State) : Safe s (execPodRemoved p s) :=
  ((keeps_raiseIf _ _ _ _).after (keeps_modLink fun h => remove_range _ h)).safe

theorem execTrainingWordReceived_safe (p : Pod) (w : TrainingWord) (s : State) :
    Safe s (execTrainingWordReceived p w s) := by
  unfold execTrainingWordReceived
  split
  · next h => exact (keeps_receiveTraining w h).safe
  · next h => exact (keeps_receiveBad h).safe
  · exact (Keeps.refl s).safe
  · exact (Keeps.refl s).safe

theorem execTrainingGiveUp_safe (p : Pod) (w : TrainingWord) (s : State) : Safe s (execTrainingGiveUp p w s) :=
  Keeps.safe (.ite (fun h => keeps_receiveTraining w h.1) fun _ => .refl s)

theorem execSampleFrameReceived_safe (p : Pod) (v : Vector Byte 16) (s : State) :
    Safe s (execSampleFrameReceived p v s) := by
  unfold execSampleFrameReceived
  split
  · next h => exact (keeps_receiveGood v h).safe
  · next h => exact (keeps_receiveTraining .bad h).safe
  · exact (Keeps.refl s).safe
  · exact (Keeps.refl s).safe

theorem execBadSampleFrame_safe (p : Pod) (s : State) : Safe s (execBadSampleFrame p s) := by
  unfold execBadSampleFrame
  split
  · next h => exact (keeps_receiveBad h).safe
  · next h => exact (keeps_receiveTraining .bad h).safe
  · exact (Keeps.refl s).safe
  · exact (Keeps.refl s).safe

theorem execStatusWordReceived_safe (p : Pod) (ok : Bool) (c : BitVec 8) (y : BitVec 2) (s : State) :
    Safe s (execStatusWordReceived p ok c y s) := by
  unfold execStatusWordReceived
  split
  · exact Keeps.safe (.ite (fun _ => keeps_modLink fun h => statusWord_range _ c y h) fun _ => .refl s)
  · next h => exact (keeps_receiveTraining .bad h).safe
  · exact (Keeps.refl s).safe
  · exact (Keeps.refl s).safe

theorem execSetupFail_safe (p : Pod) (s : State) : Safe s (execSetupFail p s) :=
  Keeps.safe (.ite (fun _ => (keeps_raise _ _ _).after (keeps_modLink fun h => dropWait_range _ h)) fun _ => .refl s)

/-! ## Rows: the wall clock, the sequencer, the view engine and the panel -/

theorem keeps_referenceCount (s : State) : Keeps s (referenceCount s) := by
  have hcount : Keeps s (setTime s.time.count.time s) :=
    keeps_setTime rfl fun ⟨_, h⟩ => ⟨Nat.mod_lt _ (by decide), h⟩
  have hseconds : Keeps s (if s.time.count.carry then secondsChanged (setTime s.time.count.time s)
      else setTime s.time.count.time s) :=
    hcount.trans (.ite (fun _ => keeps_secondsChanged _) fun _ => .refl _)
  exact hseconds.trans (.ite (fun _ => keeps_rollUpdate _) fun _ => .refl _)

theorem restart_dividers (t : Trigger) (d : DividerId) (h : dividersInRange t) : dividersInRange (t.restart d) := by
  obtain ⟨hx, hy⟩ := h
  cases d with
  | x => exact ⟨hx.inRange_restart, hy⟩
  | y => exact ⟨hx, hy.inRange_restart⟩

theorem restart_state (t : Trigger) (d : DividerId) : (t.restart d).state = t.state := by cases d <;> rfl

theorem execDividerOutput_safe (d : DividerId) (s : State) : Safe s (execDividerOutput d s) :=
  Keeps.safe (.ite (fun _ => keeps_setTrigger_same (restart_state _ d) fun h =>
    stepSource_dividers _ _ (restart_dividers _ d h)) fun _ => .refl s)

theorem execCounterMatch_safe (k : CounterId) (s : State) : Safe s (execCounterMatch k s) :=
  Keeps.safe (.ite (fun _ => keeps_setTrigger_same rfl id) fun _ => .refl s)

theorem execPassColumnComputed_safe (s : State) : Safe s (execPassColumnComputed s) := by
  unfold execPassColumnComputed
  split
  · exact (Keeps.refl s).safe
  · exact Keeps.safe (.ite (fun _ => .refl s) fun _ => keeps_finishColumn _ s)

theorem keeps_endFrameScan (s : State) : Keeps s (endFrameScan s) :=
  Keeps.trans (keeps_setView swapReady_viewportInRange) (keeps_setPanel id id)

theorem execFrameEnd_safe (s : State) : Safe s (execFrameEnd s) :=
  Keeps.safe (.ite (fun _ => keeps_endFrameScan s) fun _ => .refl s)

theorem execBacklightPeriodEnd_safe (s : State) : Safe s (execBacklightPeriodEnd s) :=
  Keeps.safe (.ite (fun _ => keeps_setPanel id id) fun _ => .refl s)

theorem execPwmStep_safe (s : State) : Safe s (execPwmStep s) :=
  Keeps.safe (.ite (fun _ => keeps_setPanel id id) fun _ => keeps_setPanel id id)

/-! ## Rows: the receiver and the transmitter -/

theorem slotsHeld_complete (u : Uplink) (p : Packet) (d : Bool) : (u.complete p d).slotsHeld ≤ u.queue.length + 1 := by
  cases d <;> simp [Uplink.complete, Uplink.slotsHeld]

theorem slotsHeld_cutShort (u : Uplink) : u.cutShort.slotsHeld ≤ u.slotsHeld := by
  unfold Uplink.cutShort
  split
  · next h => exact (slotsHeld_complete _ _ _).trans (by simp [Uplink.slotsHeld, h])
  · exact Nat.le_refl _
  · next h => simp [Uplink.slotsHeld, h]

theorem queue_le_slotsHeld (u : Uplink) : u.queue.length ≤ u.slotsHeld := by
  unfold Uplink.slotsHeld
  split <;> omega

theorem keeps_badPacket (s : State) : Keeps s (badPacket s) := keeps_raise _ _ _

theorem keeps_receiveHeader (h : Word) (s : State) : Keeps s (receiveHeader h s) := by
  have hcut := slotsHeld_cutShort s.uplink
  have hqueue := queue_le_slotsHeld s.uplink.cutShort
  unfold receiveHeader
  refine .ite (fun _ => (keeps_badPacket _).after (keeps_setUplink fun hs => ?_)) fun hfull => ?_
  · refine Nat.le_trans ?_ ((hqueue.trans hcut).trans hs)
    split <;> exact Nat.le_refl _
  · have hroom := Nat.not_le.1 hfull
    exact .ite (fun _ => keeps_setUplink fun _ => (slotsHeld_complete _ _ _).trans hroom) fun _ =>
      keeps_setUplink fun _ => hroom

theorem keeps_receivePayload (w : Word) (s : State) : Keeps s (receivePayload w s) := by
  unfold receivePayload
  dsimp only
  split
  · exact keeps_badPacket s
  · next hr =>
    refine keeps_setUplink fun hs => ?_
    refine Nat.le_trans ?_ ((queue_le_slotsHeld s.uplink).trans hs)
    unfold Uplink.slotsHeld
    dsimp only
    split <;> split at * <;> simp_all
  · next hr =>
    have hheld : s.uplink.slotsHeld = s.uplink.queue.length + 1 := by simp [Uplink.slotsHeld, hr]
    exact .ite (fun _ => keeps_setUplink fun hs => (slotsHeld_complete _ _ _).trans (hheld ▸ hs)) fun _ =>
      keeps_setUplink fun hs => hheld.symm.trans_le hs

theorem execPacketArrival_safe (h : Word) (ws : List Word) (s : State) : Safe s (execPacketArrival h ws s) := by
  have hpayload : ∀ (ws : List Word) (u : State), Keeps u (ws.foldl (fun x w => receivePayload w x) u) := by
    intro ws
    induction ws with
    | nil => exact fun u => .refl u
    | cons w ws ih => exact fun u => (keeps_receivePayload w u).trans (ih _)
  exact Keeps.safe (.ite (fun _ => (keeps_receiveHeader h s).trans (hpayload ws _)) fun _ => .refl s)

theorem execStrayPayloadWord_safe (w : Word) (s : State) : Safe s (execStrayPayloadWord w s) :=
  Keeps.safe (.ite (fun _ => keeps_receivePayload w s) fun _ => .refl s)

theorem execPacketDispatch_safe (s : State) : Safe s (execPacketDispatch s) := by
  unfold execPacketDispatch
  split
  · exact (Keeps.refl s).safe
  · next p rest hq =>
    refine Keeps.safe (.ite (fun _ => ?_) fun _ => .refl s)
    have hpop : Keeps s (setUplink { s.uplink with queue := rest } s) := by
      refine keeps_setUplink fun hs => Nat.le_trans ?_ hs
      unfold Uplink.slotsHeld
      rw [hq]
      dsimp only [List.length_cons]
      split <;> omega
    refine hpop.trans ?_
    generalize judgePacket p = j
    cases j with
    | discard rc => exact (keeps_badPacket _).after (keeps_placeResponse _ _)
    | refused rc => exact keeps_placeResponse _ _
    | command i => exact keeps_takeCommand i _

theorem keeps_send (ws : List Word) (x : TxSource) (s : State) : Keeps s (send ws x s) := keeps_setUplink id

theorem keeps_grantNotice (b : Fin 7) (s : State) : Keeps s (grantNotice b s) :=
  Keeps.trans (t := { s with events := s.events.set b { s.events[b] with due := false } })
    (keeps_setEvents fun _ h => by cases h)
    (keeps_setUplink (u := { (send (packetWords typeNotice 0 [word b.val, (s.events[b]).events, (s.events[b]).enables])
      .notice s).uplink with noticePtr := b }) id)

theorem keeps_grantStream (s : State) : Keeps s (grantStream s) :=
  (keeps_send _ _ _).after (keeps_setPath rfl id fun h => by simp; omega)

theorem keeps_grantFrames (r : FrameReadout) (s : State) : Keeps s (grantFrames r s) :=
  (keeps_send _ _ _).after (keeps_setPath rfl id id)

theorem keeps_grantData (s : State) : Keeps s (grantData s) := by
  unfold grantData
  split
  · exact keeps_send _ _ s
  · exact (keeps_send _ _ _).after keeps_setCapture
  · exact (keeps_send _ _ _).after (keeps_setView_same rfl rfl)
  · exact .refl s

theorem keeps_grantAnyFrames {s t : State} (h : grantAnyFrames s = some t) : Keeps s t := by
  unfold grantAnyFrames at h
  split at h
  · split at h <;> cases h
    exact keeps_grantStream s
  · cases h
    exact .ite (fun _ => keeps_grantFrames _ s) fun _ => keeps_grantStream s

theorem keeps_grantPacket (s : State) : Keeps s (grantPacket s) := by
  unfold grantPacket
  split
  · exact keeps_send _ _ s
  · exact keeps_grantNotice _ s
  · next h => exact keeps_grantAnyFrames h
  · exact keeps_grantData s

/-! ## Resets -/

theorem layoutHolds_reset (s : State) (hc : s.capture = { Capture.reset with dram := s.capture.dram })
    (hp : s.rpath = RecordPath.reset) : layoutHolds s := by
  unfold layoutHolds
  rw [hc, hp]
  exact ⟨show validCount Capture.reset.layout = true by decide,
    show Capture.reset.segs.length = Capture.reset.layout by decide,
    show RecordPath.reset.logs.length = Capture.reset.layout by decide,
    show ∀ d ∈ Capture.reset.segs, d.size = Config.recordSlots / Capture.reset.layout by decide, nofun, nofun,
    fun _ => rfl⟩

theorem settingsValid_reset : settingsValid Capture.reset.stored ∧ settingsValid Capture.reset.inForce :=
  ⟨⟨by decide, by decide⟩, by decide, by decide⟩

theorem captureInForm_reset {s : State} (hc : s.capture = { Capture.reset with dram := s.capture.dram })
    (hp : s.rpath = RecordPath.reset) (hs : s.time.sampling = false) (ht : s.trigger.state = .idle) : captureInForm s := by
  obtain ⟨hstored, hforce⟩ := settingsValid_reset
  refine ⟨?_, ?_, layoutHolds_reset s hc hp, ?_, ?_⟩
  · rw [hc]
    exact hstored
  · rw [hc]
    exact hforce
  · rw [samplingFitsController, hc]
    exact hs
  · rw [sequencerFitsController, hc]
    exact iff_of_true ht nofun

theorem decodeInForm_reset {s : State} (ht : s.tables = Tables.reset) (hl : s.lanes = Vector.replicate 6 Lane.reset) :
    decodeInForm s := by
  have hlane : ∀ l : LaneId, s.lanes[l] = Lane.reset := fun l => by rw [hl]; simp
  refine ⟨?_, fun l h => ?_, (lanesInForm_iff s).2 fun l => ?_⟩
  · unfold poolBalanced
    rw [ht]
    decide
  · rw [hlane] at h
    exact absurd rfl h
  · rw [hlane]
    exact ⟨by decide, by decide, by decide, nofun⟩

end Sys2Proof.Machine
end

section
/-! The resets and the end of an upstream packet keep the three invariants; every step does, and none stops. -/

namespace Sys2Proof.Machine

/-! ## Resets and the end of an upstream packet -/

theorem settingsInRange_reset : viewportInRange View.reset ∧ rowMapInRange Panel.reset.rowMap ∧
    dividersInRange Trigger.reset := by
  refine ⟨?_, ?_, ?_⟩
  · unfold viewportInRange
    decide
  · unfold rowMapInRange
    decide
  · unfold dividersInRange DividerUnit.inRange
    decide

theorem noticesHaveEvents_reset {s : State} (h : s.events = Vector.replicate 7 ⟨0, 0, false⟩) : noticesHaveEvents s := by
  intro b hb
  simp [h] at hb

theorem wallClockInRange_reset {s : State} (h : s.time = Timebase.reset) : wallClockInRange s := by
  unfold wallClockInRange
  rw [h]
  decide

/-- Four links in range and the deskew values of a reset. -/
theorem podsInRange_reset {p : Pods} (h0 : p.links[0].inRange) (h1 : p.links[1].inRange) (h2 : p.links[2].inRange)
    (h3 : p.links[3].inRange) (hd : p.deskew = List.replicate 32 0) : podsInRange p := by
  refine ⟨fun i => ?_, by simp [hd], fun d hm => ?_⟩
  · fin_cases i
    exacts [h0, h1, h2, h3]
  · rw [hd] at hm
    rw [List.eq_of_mem_replicate hm]
    decide

theorem soften_inRange {k : PodLink} (h : k.inRange) : k.soften.inRange := by
  obtain ⟨h1, h2, h3, h4, h5, h6, h7, h8, h9, -⟩ := h
  exact ⟨h1, h2, h3, h4, h5, h6, h7, h8, h9, Nat.zero_le 7⟩

theorem reset_inRange : PodLink.reset.inRange := by
  unfold PodLink.inRange
  decide

theorem powerOn_inRange (k : PodLink) : k.powerOn.inRange := by
  unfold PodLink.powerOn
  split
  · exact train_range _ (sensed_inRange reset_inRange) rfl
  · exact reset_inRange

theorem queuesBounded_reset {s : State} (hu : s.uplink = { Uplink.reset with rx := s.uplink.rx })
    (hp : s.rpath = RecordPath.reset) : queuesBounded s := by
  unfold queuesBounded
  rw [hp]
  refine ⟨?_, by decide, by decide⟩
  rw [hu, Uplink.slotsHeld]
  split <;> simp [Uplink.reset, Config.inputQueueMax]

theorem keeps_softReset (s : State) : Keeps s (softReset s) where
  decode := fun _ => decodeInForm_reset rfl rfl
  capture := fun _ => captureInForm_reset rfl rfl rfl rfl
  stores := by
    rintro ⟨⟨hm, -⟩, -, -, hw, ⟨hl, -⟩, -⟩
    obtain ⟨hv, hr, hd⟩ := settingsInRange_reset
    refine ⟨⟨hm, rfl⟩, queuesBounded_reset rfl rfl, noticesHaveEvents_reset rfl, hw, ?_, hv, hr, hd⟩
    exact podsInRange_reset (soften_inRange (hl 0)) (soften_inRange (hl 1)) (soften_inRange (hl 2))
      (soften_inRange (hl 3)) rfl

theorem execPowerOnReset_safe (s : State) : Safe s (execPowerOnReset s) := by
  refine Keeps.safe ⟨fun _ => decodeInForm_reset rfl rfl, fun _ => captureInForm_reset rfl rfl rfl rfl, ?_⟩
  rintro ⟨⟨hm, -⟩, -⟩
  obtain ⟨hv, hr, hd⟩ := settingsInRange_reset
  exact ⟨⟨hm, rfl⟩, queuesBounded_reset rfl rfl, noticesHaveEvents_reset rfl, wallClockInRange_reset rfl,
    podsInRange_reset (powerOn_inRange _) (powerOn_inRange _) (powerOn_inRange _) (powerOn_inRange _) rfl, hv, hr, hd⟩

theorem execResetNAsserted_safe (s : State) : Safe s (execResetNAsserted s) := Keeps.safe ⟨id, id, id⟩

theorem keeps_sent (x : TxSource) (s : State) : Keeps s (sent x s) := by
  cases x with
  | response =>
    have hfree : Keeps s (setUplink { s.uplink with slot := none } s) := keeps_setUplink id
    exact hfree.trans (.ite (fun _ => keeps_softReset _) fun _ => .refl _)
  | notice => exact .refl s
  | stream => exact .refl s
  | frames final => exact .ite (fun _ => keeps_setPath rfl id id) fun _ => .refl s
  | measure => exact keeps_setView_same rfl rfl
  | records final => exact .ite (fun _ => (keeps_raise _ _ _).after keeps_setCapture) fun _ => .refl s
  | columns final => exact .ite (fun _ => keeps_setView_same rfl rfl) fun _ => .refl s

theorem execUpstreamPacketSent_safe (s : State) : Safe s (execUpstreamPacketSent s) := by
  unfold execUpstreamPacketSent
  split
  · exact (Keeps.refl s).safe
  · refine Keeps.safe (Keeps.after (keeps_sent _ _) ?_)
    exact keeps_setUplink id

theorem execTransmitGrant_safe (s : State) : Safe s (execTransmitGrant s) :=
  Keeps.safe (.ite (fun _ => keeps_grantPacket s) fun _ => .refl s)

/-! ## Every step -/

/-- A row that a packet carries is that command taken, where a packet may be dispatched. -/
theorem exec_command_safe (i : Instr) (s : State)
    (h : exec i s = .next (if canDispatch s then takeCommand i s else s)) : Safe s (exec i s) := by
  rw [h]
  exact Keeps.safe (.ite (fun _ => keeps_takeCommand i s) fun _ => .refl s)

theorem exec_safe (i : Instr) (s : State) : Safe s (exec i s) := by
  cases i
  case powerOnReset => exact execPowerOnReset_safe s
  case podPresenceSensed p => exact execPodPresenceSensed_safe p s
  case podRemoved p => exact execPodRemoved_safe p s
  case trainingWordReceived p w => exact execTrainingWordReceived_safe p w s
  case trainingGiveUp p w => exact execTrainingGiveUp_safe p w s
  case sampleFrameReceived p v => exact execSampleFrameReceived_safe p v s
  case badSampleFrame p => exact execBadSampleFrame_safe p s
  case statusWordReceived p ok c y => exact execStatusWordReceived_safe p ok c y s
  case setupFail p => exact execSetupFail_safe p s
  case levelStreamSample b => exact (keeps_gridTick b s).safe
  case dividerOutput d => exact execDividerOutput_safe d s
  case counterMatch k => exact execCounterMatch_safe k s
  case gapTimeout l => exact (keeps_settleGap l s).safe
  case timeLimit => exact (keeps_settleTimeLimit s).safe
  case postFillCompletion => exact (keeps_settlePostFill s).safe
  case arbiterGrant => exact (arbitrate_safe _).after (keeps_settlePostFill s)
  case secondsAdvance => exact Keeps.safe (.ite (fun _ => keeps_referenceCount s) fun _ => .refl s)
  case correctionIntervalEnd => exact Keeps.safe (.ite (fun _ => keeps_referenceCount s) fun _ => .refl s)
  case rollRefresh => exact Keeps.safe (.ite (fun _ => keeps_referenceCount s) fun _ => .refl s)
  case frameEnd => exact execFrameEnd_safe s
  case backlightPeriodEnd => exact execBacklightPeriodEnd_safe s
  case packetArrival h ws => exact execPacketArrival_safe h ws s
  case strayPayloadWord w => exact execStrayPayloadWord_safe w s
  case packetDispatch => exact execPacketDispatch_safe s
  case transmitGrant => exact execTransmitGrant_safe s
  case upstreamPacketSent => exact execUpstreamPacketSent_safe s
  case wallClockReferenceCount => exact (keeps_referenceCount s).safe
  case pwmStep => exact execPwmStep_safe s
  case resetNAsserted => exact execResetNAsserted_safe s
  case passColumnComputed => exact execPassColumnComputed_safe s
  all_goals exact exec_command_safe _ s rfl

/-- Every step keeps the three invariants, and answers a state where the capture store is in form. -/
theorem step_safe (s : State) : Safe s (step s) := by
  unfold step
  split
  · exact (Keeps.refl s).safe
  · next i rest _ => exact (exec_safe i _).after (keeps_withPending rest s)

theorem step_keeps {s t : State} (h : step s = .next t) : Keeps s t := (step_safe s).keeps t h

/-! ## The invariants -/

/-- Settles O58: every operation keeps the decode side in form. -/
theorem everyStepKeepsTheDecodeSideInForm : Obligations.EveryStepKeepsTheDecodeSideInForm :=
  fun _ _ hs h => (step_keeps h).decode hs

/-- Settles O59: a step from a capture store in form answers a state, and keeps the form. -/
theorem everyStepKeepsTheCaptureInFormAndRuns : Obligations.EveryStepKeepsTheCaptureInFormAndRuns := by
  intro s hs
  obtain ⟨t, ht⟩ := (step_safe s).runs hs
  exact ⟨t, ht, (step_keeps ht).capture hs⟩

/-- Settles O60: every operation keeps the memories, queues, notices and ranges. -/
theorem everyStepKeepsTheStoresInForm : Obligations.EveryStepKeepsTheStoresInForm :=
  fun _ _ hs h => (step_keeps h).stores hs

theorem reset_decodeInForm : decodeInForm State.reset := decodeInForm_reset rfl rfl

theorem reset_captureInForm : captureInForm State.reset := captureInForm_reset rfl rfl rfl rfl

theorem reset_storesInForm : storesInForm State.reset := by
  obtain ⟨hv, hr, hd⟩ := settingsInRange_reset
  exact ⟨⟨rfl, rfl⟩, queuesBounded_reset rfl rfl, noticesHaveEvents_reset rfl, wallClockInRange_reset rfl,
    podsInRange_reset reset_inRange reset_inRange reset_inRange reset_inRange rfl, hv, hr, hd⟩

/-- Settles O57, from what every reset leaves. -/
theorem resetMeetsTheInvariants : Obligations.ResetMeetsTheInvariants :=
  ⟨reset_decodeInForm, reset_captureInForm, reset_storesInForm, by unfold allLanesOff; decide⟩

/-- Settles O1: the queue is the model's own. -/
theorem stepRunsTheFrontCommand : Obligations.StepRunsTheFrontCommand := fun _ _ _ => ⟨rfl, rfl⟩

end Sys2Proof.Machine
end

section
/-! Chapter 1: the pod links, their words and waits, and the pod commands (R1 to R16). -/

namespace Sys2Proof.Machine

/-! ## Links -/

theorem modLink_congr {p : Pod} {f g : PodLink → PodLink} {s : State}
    (h : f s.pods.links[p] = g s.pods.links[p]) : modLink p f s = modLink p g s := by
  simp only [modLink, h]

theorem podOf_eq_none {w : Word} (h : 3 < w.toNat) : podOf w = none :=
  dif_neg (by omega)

theorem podOf_eq_some {w : Word} {p : Pod} (h : w.toNat = p.val) : podOf w = some p := by
  have hw : w.toNat < 4 := h ▸ p.isLt
  rw [podOf, dif_pos hw, Option.some_inj]
  exact Fin.ext h

@[simp] theorem raiseIf_true (b : Fin 7) (m : Word) (s : State) : raiseIf true b m s = raise b m s := rfl

@[simp] theorem raiseIf_false (b : Fin 7) (m : Word) (s : State) : raiseIf false b m s = s := rfl

/-! ## Presence -/

/-- Settles O2, by the link's state. -/
theorem podPresenceFollowed : Obligations.PodPresenceFollowed := by
  intro p s
  have hremoved : ∀ c, ((s.pods.links[p]).state == .up) = c → exec (.podRemoved p) s =
      .next (raiseIf c blkPod (evPodDown p) (modLink p PodLink.remove s)) := fun c hc => by
    rw [← hc]
    rfl
  refine ⟨fun h => ?_, fun h => ?_, fun h => ?_, fun h => ?_⟩
  · exact congrArg Host.Outcome.next (modLink_congr (if_pos h))
  · exact congrArg Host.Outcome.next (modLink_congr (if_neg h))
  · exact hremoved true (beq_iff_eq.2 h)
  · exact hremoved false (beq_eq_false_iff_ne.2 h)

/-! ## Training -/

theorem nextRun_same {k : PodLink} {kind : LinkKind} (h : k.lockRun ≠ 0) (hk : k.runKind = podKindOf kind) :
    k.nextRun (.good kind) = k.lockRun + 1 := if_pos ⟨h, hk⟩

theorem nextRun_begins {k : PodLink} {kind : LinkKind} (h : k.lockRun = 0 ∨ k.runKind ≠ podKindOf kind) :
    k.nextRun (.good kind) = 1 := if_neg fun ⟨h0, hk⟩ => h.elim h0 fun hn => hn hk

/-- The link as a word counts in it. -/
def PodLink.counted (k : PodLink) (w : TrainingWord) : PodLink :=
  { k with words := k.words + 1, lockRun := k.nextRun w, runKind := k.nextRunKind w }

section
variable {p : Pod} {w : TrainingWord} {s : State}

theorem receiveTraining_locks (h : (s.pods.links[p]).nextRun w = 16) :
    receiveTraining p w s =
      raise blkPod (evPodUp p) (modLink p (fun k => (k.counted w).lock (k.nextRunKind w)) s) := by
  have hk : (s.pods.links[p]).trainingWord w = ((s.pods.links[p]).counted w).lock ((s.pods.links[p]).nextRunKind w) :=
    if_pos h
  unfold receiveTraining
  dsimp only
  rw [hk]
  rfl

theorem receiveTraining_counts (hs : (s.pods.links[p]).state = .training) (h : (s.pods.links[p]).nextRun w ≠ 16)
    (hw : (s.pods.links[p]).words < 1023) : receiveTraining p w s = modLink p (fun k => k.counted w) s := by
  have hk : (s.pods.links[p]).trainingWord w = (s.pods.links[p]).counted w :=
    (if_neg h).trans (if_neg (by dsimp only; omega))
  have hst : ((s.pods.links[p]).counted w).state = .training := hs
  unfold receiveTraining
  dsimp only
  rw [hk, hst]
  rfl

theorem receiveTraining_gives_up (h : (s.pods.links[p]).nextRun w ≠ 16) (hw : (s.pods.links[p]).words = 1023) :
    receiveTraining p w s = raise blkPod (evPodFault p)
      (modLink p (fun k => { k.counted w with state := .fault, sending := .idle }) s) := by
  have hk : (s.pods.links[p]).trainingWord w =
      { (s.pods.links[p]).counted w with state := .fault, sending := .idle } :=
    (if_neg h).trans (if_pos (by dsimp only; omega))
  unfold receiveTraining
  dsimp only
  rw [hk]
  rfl

theorem exec_training (hs : (s.pods.links[p]).state = .training) :
    exec (.trainingWordReceived p w) s = .next (receiveTraining p w s) := by
  show execTrainingWordReceived p w s = _
  rw [execTrainingWordReceived, hs]

theorem exec_giveUp_not_due (h : (s.pods.links[p]).words < 1023) : exec (.trainingGiveUp p w) s = .next s :=
  congrArg Host.Outcome.next (if_neg fun ⟨_, hw, _⟩ => by omega)

theorem exec_giveUp_due (hs : (s.pods.links[p]).state = .training) (hw : (s.pods.links[p]).words = 1023)
    (h : (s.pods.links[p]).nextRun w ≠ 16) : exec (.trainingGiveUp p w) s = exec (.trainingWordReceived p w) s :=
  (congrArg Host.Outcome.next (if_pos ⟨hs, hw, h⟩)).trans (exec_training hs).symm

end

/-- Settles O3: a word locks, gives up or counts, by the run it makes and the words before it. -/
theorem trainingCountsAndLocks : Obligations.TrainingCountsAndLocks := by
  intro p kind samples ok code hyst s hs
  have hbad : (s.pods.links[p]).nextRun .bad ≠ 16 := nofun
  have hsame : (s.pods.links[p]).lockRun ≠ 0 → (s.pods.links[p]).lockRun ≠ 15 →
      (s.pods.links[p]).runKind = podKindOf kind → (s.pods.links[p]).nextRun (.good kind) ≠ 16 := fun h0 h15 hk => by
    rw [nextRun_same h0 hk]
    omega
  have hbegins : (s.pods.links[p]).lockRun = 0 ∨ (s.pods.links[p]).runKind ≠ podKindOf kind →
      (s.pods.links[p]).nextRun (.good kind) ≠ 16 := fun h => by
    rw [nextRun_begins h]
    decide
  refine ⟨fun h15 hk => ?_, fun hw => ⟨fun h0 h15 hk => ?_, fun h => ?_, ?_, exec_giveUp_not_due hw,
    exec_giveUp_not_due hw⟩, ?_, ?_, ?_, fun hw => ⟨?_, exec_giveUp_due hs hw hbad, fun h0 h15 hk => ⟨?_, ?_⟩,
    fun h => ⟨?_, ?_⟩⟩⟩
  · have hrun := nextRun_same (k := s.pods.links[p]) (by omega) hk
    rw [exec_training hs, receiveTraining_locks (by omega)]
    refine congrArg (fun u => Host.Outcome.next (raise _ _ u)) (modLink_congr ?_)
    simp only [PodLink.lock, PodLink.counted, PodLink.nextRunKind, PodLink.setupWord, hrun, h15, ← hk]
  · rw [exec_training hs, receiveTraining_counts hs (hsame h0 h15 hk) hw]
    refine congrArg Host.Outcome.next (modLink_congr ?_)
    simp only [PodLink.counted, PodLink.nextRunKind, nextRun_same h0 hk, ← hk]
  · rw [exec_training hs, receiveTraining_counts hs (hbegins h) hw]
    refine congrArg Host.Outcome.next (modLink_congr ?_)
    simp only [PodLink.counted, PodLink.nextRunKind, nextRun_begins h]
  · rw [exec_training hs, receiveTraining_counts hs hbad hw]
    rfl
  · show execSampleFrameReceived p samples s = _
    rw [execSampleFrameReceived, hs, exec_training hs]
  · show execBadSampleFrame p s = _
    rw [execBadSampleFrame, hs, exec_training hs]
  · show execStatusWordReceived p ok code hyst s = _
    rw [execStatusWordReceived, hs, exec_training hs]
  · rw [exec_training hs, receiveTraining_gives_up hbad hw]
    refine congrArg (fun u => Host.Outcome.next (raise _ _ u)) (modLink_congr ?_)
    simp only [PodLink.counted, PodLink.nextRunKind, PodLink.nextRun, hw]
  · rw [exec_training hs, receiveTraining_gives_up (hsame h0 h15 hk) hw]
    refine congrArg (fun u => Host.Outcome.next (raise _ _ u)) (modLink_congr ?_)
    simp only [PodLink.counted, PodLink.nextRunKind, nextRun_same h0 hk, hw, ← hk]
  · exact exec_giveUp_due hs hw (hsame h0 h15 hk)
  · rw [exec_training hs, receiveTraining_gives_up (hbegins h) hw]
    refine congrArg (fun u => Host.Outcome.next (raise _ _ u)) (modLink_congr ?_)
    simp only [PodLink.counted, PodLink.nextRunKind, nextRun_begins h, hw]
  · exact exec_giveUp_due hs hw (hbegins h)

/-! ## Frames and status words in UP -/

section
variable {p : Pod} {s : State}

theorem exec_sampleFrame_up (samples : Vector Byte 16) (hs : (s.pods.links[p]).state = .up) :
    exec (.sampleFrameReceived p samples) s = .next (receiveGood p samples s) := by
  show execSampleFrameReceived p samples s = _
  rw [execSampleFrameReceived, hs]

theorem exec_badFrame_up (hs : (s.pods.links[p]).state = .up) : exec (.badSampleFrame p) s = .next (receiveBad p s) := by
  show execBadSampleFrame p s = _
  rw [execBadSampleFrame, hs]

theorem exec_trainingWord_up (w : TrainingWord) (hs : (s.pods.links[p]).state = .up) :
    exec (.trainingWordReceived p w) s = exec (.badSampleFrame p) s := by
  rw [exec_badFrame_up hs]
  show execTrainingWordReceived p w s = _
  rw [execTrainingWordReceived, hs]

theorem exec_statusWord_up (ok : Bool) (code : BitVec 8) (hyst : BitVec 2) (hs : (s.pods.links[p]).state = .up) :
    exec (.statusWordReceived p ok code hyst) s =
      .next (if ok then modLink p (fun k => k.statusWord code hyst) s else s) := by
  show execStatusWordReceived p ok code hyst s = _
  rw [execStatusWordReceived, hs]

/-- What a frame does to the acknowledge wait (R11). -/
theorem countAck_cases (k : PodLink) :
    (k.wait = none → k.countAck = (none, false)) ∧
    (∀ n, k.wait = some n → n < 63 → k.countAck = (some (n + 1), false)) ∧
    (k.wait = some 63 → k.countAck = (none, true)) := by
  unfold PodLink.countAck
  refine ⟨fun h => by rw [h], fun n h hn => ?_, fun h => by rw [h]; rfl⟩
  rw [h]
  exact if_neg (by omega)

theorem badFrame_short {k : PodLink} (h : k.badRun < 2) :
    k.badFrame = { k with
      badRun := k.badRun + 1, wait := k.countAck.1, confirmed := k.confirmed && !k.countAck.2
      due := k.due ++ List.replicate 16 ⟨k.held, true⟩ } := if_neg (by omega)

theorem badFrame_third {k : PodLink} (h : k.badRun = 2) :
    k.badFrame = { k.dropWait with
      state := .fault, badRun := 3, sending := .idle, due := k.due ++ List.replicate 16 ⟨k.held, false⟩ } := by
  rw [PodLink.badFrame, if_pos (by omega), h]

theorem receiveBad_short (h : (s.pods.links[p]).badRun < 2) :
    receiveBad p s = raiseIf (s.pods.links[p]).countAck.2 blkPod (evSetupFail p)
      (raise blkPod (evFrameError p) (modLink p PodLink.badFrame s)) := by
  have hthird : decide (3 ≤ (s.pods.links[p]).badRun + 1) = false := decide_eq_false (by omega)
  unfold receiveBad
  dsimp only
  rw [hthird, raiseIf_false]

theorem receiveBad_third (h : (s.pods.links[p]).badRun = 2) :
    receiveBad p s = raiseIf (s.pods.links[p]).countAck.2 blkPod (evSetupFail p)
      (raise blkPod (evPodFault p ||| evPodDown p) (raise blkPod (evFrameError p) (modLink p PodLink.badFrame s))) := by
  have hthird : decide (3 ≤ (s.pods.links[p]).badRun + 1) = true := decide_eq_true (by omega)
  unfold receiveBad
  dsimp only
  rw [hthird, raiseIf_true]

end

/-- Settles O4, from what a good and a bad frame make of the link. -/
theorem sampleFramesInUp : Obligations.SampleFramesInUp := by
  intro p samples w s hs hwait
  obtain ⟨hack, -⟩ := countAck_cases s.pods.links[p]
  have hack := hack hwait
  refine ⟨?_, fun h => ?_, fun h => ?_, exec_trainingWord_up w hs⟩
  · rw [exec_sampleFrame_up samples hs, receiveGood, hack, raiseIf_false]
    refine congrArg Host.Outcome.next (modLink_congr ?_)
    simp only [PodLink.goodFrame, hack, hwait, Bool.not_false, Bool.and_true]
  · rw [exec_badFrame_up hs, receiveBad_short h, hack, raiseIf_false]
    refine congrArg (fun u => Host.Outcome.next (raise _ _ u)) (modLink_congr ?_)
    simp only [badFrame_short h, hack, hwait, Bool.not_false, Bool.and_true]
  · rw [exec_badFrame_up hs, receiveBad_third h, hack, raiseIf_false]
    refine congrArg (fun u => Host.Outcome.next (raise _ _ (raise _ _ u))) (modLink_congr ?_)
    rw [badFrame_third h, (dropWait_unconfirms _).1 hwait]

/-- Settles O5: each row's case of a link in ABSENT or FAULT. -/
theorem absentAndFaultDiscardWords : Obligations.AbsentAndFaultDiscardWords := by
  intro p w samples ok code hyst s h
  have hgive : exec (.trainingGiveUp p w) s = .next s :=
    congrArg Host.Outcome.next (if_neg fun ⟨hs, _⟩ => by rcases h with h | h <;> cases h.symm.trans hs)
  have hfail : exec (.setupFail p) s = .next s :=
    congrArg Host.Outcome.next (if_neg fun ⟨hs, _⟩ => by rcases h with h | h <;> cases h.symm.trans hs)
  refine ⟨?_, ?_, ?_, ?_, hgive, hfail⟩
  · show execTrainingWordReceived p w s = _
    rcases h with h | h <;> rw [execTrainingWordReceived, h]
  · show execSampleFrameReceived p samples s = _
    rcases h with h | h <;> rw [execSampleFrameReceived, h]
  · show execBadSampleFrame p s = _
    rcases h with h | h <;> rw [execBadSampleFrame, h]
  · show execStatusWordReceived p ok code hyst s = _
    rcases h with h | h <;> rw [execStatusWordReceived, h]

end Sys2Proof.Machine
end

section
/-! Chapter 1: the acknowledge wait, and the pod commands (R8 to R16). -/

namespace Sys2Proof.Machine

/-! ## The acknowledge wait -/

section
variable {p : Pod} {s : State}

theorem exec_setupFail_due (hs : (s.pods.links[p]).state = .up) (h : (s.pods.links[p]).wait = some 63) :
    exec (.setupFail p) s = .next (raise blkPod (evSetupFail p) (modLink p PodLink.dropWait s)) :=
  congrArg Host.Outcome.next (if_pos ⟨hs, h⟩)

theorem exec_setupFail_not_due (h : (s.pods.links[p]).wait ≠ some 63) : exec (.setupFail p) s = .next s :=
  congrArg Host.Outcome.next (if_neg fun hd => h hd.2)

theorem statusWord_no_match {code : BitVec 8} {hyst : BitVec 2} {k : PodLink}
    (h : k.wait = none ∨ k.code ≠ code ∨ k.hyst ≠ hyst) : k.statusWord code hyst = k := by
  refine if_neg fun ⟨hw, hc, hy⟩ => ?_
  obtain h | h | h := h
  · rw [h] at hw
    cases hw
  · exact h hc.symm
  · exact h hy.symm

theorem modLink_same {f : PodLink → PodLink} (h : f s.pods.links[p] = s.pods.links[p]) : modLink p f s = s := by
  rw [modLink, h]
  simp

theorem exec_statusWord_no_match {code : BitVec 8} {hyst : BitVec 2} (hs : (s.pods.links[p]).state = .up)
    (h : (s.pods.links[p]).wait = none ∨ (s.pods.links[p]).code ≠ code ∨ (s.pods.links[p]).hyst ≠ hyst) :
    exec (.statusWordReceived p true code hyst) s = .next s := by
  rw [exec_statusWord_up true code hyst hs, if_pos rfl]
  exact congrArg Host.Outcome.next (modLink_same (statusWord_no_match h))

/-- The third bad frame in a row within a wait. -/
theorem badFrame_third_in_wait {k : PodLink} {n : Nat} (h : k.badRun = 2) (hw : k.wait = some n) :
    k.badFrame = { k with
      state := .fault, badRun := 3, sending := .idle, wait := none, confirmed := false
      due := k.due ++ List.replicate 16 ⟨k.held, false⟩ } := by
  rw [badFrame_third h, (dropWait_unconfirms k).2 n hw]

end

/-- Settles O6: the frame counts, or fails as the sixty-fourth. -/
theorem acknowledgeWaitOfTheShadow : Obligations.AcknowledgeWaitOfTheShadow := by
  intro p code hyst samples w n s hs
  obtain ⟨-, hcount, hlast⟩ := countAck_cases s.pods.links[p]
  refine ⟨exec_trainingWord_up w hs, fun hw => ⟨fun hc hy => ?_, fun h => exec_statusWord_no_match hs (.inr h),
    fun hn => ?_, fun hn => ?_⟩, fun h => exec_statusWord_no_match hs (.inl h), exec_statusWord_up false code hyst hs⟩
  · rw [exec_statusWord_up true code hyst hs, if_pos rfl]
    exact congrArg Host.Outcome.next (modLink_congr (if_pos ⟨by rw [hw]; rfl, hc.symm, hy.symm⟩))
  · have hack := hcount n hw hn
    refine ⟨?_, exec_setupFail_not_due (by rw [hw]; simp; omega), fun h => ?_, fun h => ?_⟩
    · rw [exec_sampleFrame_up samples hs, receiveGood, hack, raiseIf_false]
      refine congrArg Host.Outcome.next (modLink_congr ?_)
      simp only [PodLink.goodFrame, hack, Bool.not_false, Bool.and_true]
    · rw [exec_badFrame_up hs, receiveBad_short h, hack, raiseIf_false]
      refine congrArg (fun u => Host.Outcome.next (raise _ _ u)) (modLink_congr ?_)
      simp only [badFrame_short h, hack, Bool.not_false, Bool.and_true]
    · rw [exec_badFrame_up hs, receiveBad_third h, hack, raiseIf_false]
      exact congrArg (fun u => Host.Outcome.next (raise _ _ (raise _ _ u)))
        (modLink_congr (badFrame_third_in_wait h hw))
  · subst hn
    have hack := hlast hw
    refine ⟨?_, ?_, fun h => ?_, fun h => ?_⟩
    · rw [exec_sampleFrame_up samples hs, receiveGood, hack, raiseIf_true]
      refine congrArg (fun u => Host.Outcome.next (raise _ _ u)) (modLink_congr ?_)
      simp only [PodLink.goodFrame, hack, Bool.not_true, Bool.and_false]
    · rw [exec_setupFail_due hs hw]
      exact congrArg (fun u => Host.Outcome.next (raise _ _ u)) (modLink_congr ((dropWait_unconfirms _).2 63 hw))
    · rw [exec_badFrame_up hs, receiveBad_short h, hack, raiseIf_true]
      refine congrArg (fun u => Host.Outcome.next (raise _ _ (raise _ _ u))) (modLink_congr ?_)
      simp only [badFrame_short h, hack, Bool.not_true, Bool.and_false]
    · rw [exec_badFrame_up hs, receiveBad_third h, hack, raiseIf_true]
      exact congrArg (fun u => Host.Outcome.next (raise _ _ (raise _ _ (raise _ _ u))))
        (modLink_congr (badFrame_third_in_wait h hw))

/-! ## SET_POD and RETRAIN -/

theorem clamp_eq (lo hi n : Nat) : clamp lo hi n = max lo (min n hi) := rfl

/-- Settles O7, by the refusal, the link in UP and the link in another state. -/
theorem setPodStoresTheShadow : Obligations.SetPodStoresTheShadow := by
  intro tag pod code hyst s hs
  refine ⟨fun h => ?_, fun p hp hy => ?_⟩
  · refine runCommand_refused tag 1 hs ?_
    unfold cmdSetPod
    obtain h | h := h
    · rw [podOf_eq_none h]
    · split
      · rfl
      · rw [if_pos h]
  · have hset := runCommand_accepted tag 1 hs (f := cmdSetPod pod code hyst)
      (by rw [cmdSetPod, podOf_eq_some hp]; exact if_neg (by omega))
    refine ⟨fun hup => hset.trans ?_, fun hup => hset.trans ?_⟩
    · refine congrArg (fun u => Host.Outcome.next (answered tag 1 .ok _ u)) (modLink_congr ?_)
      dsimp only
      rw [if_pos hup]
      rfl
    · refine congrArg (fun u => Host.Outcome.next (answered tag 1 .ok _ u)) (modLink_congr ?_)
      dsimp only
      rw [if_neg hup]
      rfl

/-- Settles O8, by the link's state. -/
theorem retrainFromUpOrFault : Obligations.RetrainFromUpOrFault := by
  intro tag pod s hs
  refine ⟨fun h => runCommand_refused tag 2 hs (by rw [cmdRetrain, podOf_eq_none h]), fun p hp => ⟨fun h => ?_,
    fun h => ?_, fun h => ?_⟩⟩
  · refine runCommand_refused tag 2 hs ?_
    unfold cmdRetrain
    rw [podOf_eq_some hp]
    rcases h with h | h <;> simp only [h]
  · refine runCommand_accepted tag 2 hs ?_
    unfold cmdRetrain
    rw [podOf_eq_some hp]
    simp only [h]
    rfl
  · refine runCommand_accepted tag 2 hs ?_
    unfold cmdRetrain
    rw [podOf_eq_some hp]
    simp only [h]
    rfl

/-! ## SET_DESKEW, SET_GLITCH and POD_STATUS -/

/-- Channel by channel, what a list of deskew values stores. -/
theorem storeDeskew_getElem? (deskew : List Nat) (first : Nat) (values : List Word)
    (h : first + values.length ≤ deskew.length) (k : Nat) :
    (storeDeskew deskew first values)[k]? =
      if first ≤ k ∧ k < first + values.length then (values[k - first]?).map (fun v => min v.toNat 15)
      else deskew[k]? := by
  induction values generalizing deskew first with
  | nil =>
    rw [if_neg (by simp)]
    rfl
  | cons v rest ih =>
    rw [List.length_cons] at h
    rw [storeDeskew, ih (deskew.set first (min v.toNat 15)) (first + 1) (by rw [List.length_set]; omega)]
    obtain hk | rfl | hk := Nat.lt_trichotomy k first
    · rw [if_neg (by omega), if_neg (by omega), List.getElem?_set_ne (by omega)]
    · rw [if_neg (by omega), if_pos (by simp), List.getElem?_set_self (by omega)]
      simp
    · have hsub : k - first = (k - (first + 1)) + 1 := by omega
      rw [List.length_cons, hsub, List.getElem?_cons_succ, List.getElem?_set_ne (by omega)]
      exact if_congr (by omega) rfl rfl

theorem storeDeskew_length (deskew : List Nat) (first : Nat) (values : List Word) :
    (storeDeskew deskew first values).length = deskew.length := by
  induction values generalizing deskew first with
  | nil => rfl
  | cons v rest ih => rw [storeDeskew, ih, List.length_set]

/-- Settles O9, with the stored list channel by channel. -/
theorem deskewAndGlitchSettings : Obligations.DeskewAndGlitchSettings := by
  intro tag first values pod width s hs hlen
  refine ⟨fun h => runCommand_refused tag 3 hs (if_pos h), fun hne hfit => ?_,
    fun h => runCommand_refused tag 4 hs (by rw [cmdSetGlitch, podOf_eq_none h]), fun p hp => ⟨fun h => ?_, fun h => ?_⟩⟩
  · have hpos : 0 < values.length := List.length_pos_iff.2 hne
    have hjudged : ¬ (31 < first.toNat ∨ values = [] ∨ 32 < first.toNat + values.length) := by
      rintro (h | h | h)
      · omega
      · exact hne h
      · omega
    refine ⟨fun h => runCommand_refused tag 3 hs ((if_neg hjudged).trans (if_pos h)), fun h =>
      ⟨storeDeskew s.pods.deskew first.toNat values, ?_, (storeDeskew_length _ _ _).trans hlen, fun k _ => ?_⟩⟩
    · exact runCommand_accepted tag 3 hs ((if_neg hjudged).trans (if_neg (by simp [h])))
    · exact storeDeskew_getElem? _ _ _ (by omega) k
  · refine runCommand_refused tag 4 hs ?_
    rw [cmdSetGlitch, podOf_eq_some hp]
    exact if_pos h
  · refine runCommand_accepted tag 4 hs ?_
    rw [cmdSetGlitch, podOf_eq_some hp]
    exact if_neg (by simp [h])

theorem byte_getLsbD (k : Nat) : (0xFF#32).getLsbD k = decide (k < 8) := by
  by_cases h : k < 32
  · revert k
    decide
  · rw [BitVec.getLsbD_of_ge _ _ (Nat.not_lt.1 h), decide_eq_false (by omega)]

/-- The eight bits of a pod, and only they, are in its mask. -/
theorem podMask_getLsbD (p : Pod) (k : Nat) :
    (podMask p).getLsbD k = (decide (8 * p.val ≤ k) && decide (k < 8 * p.val + 8)) := by
  have hp : p.val < 4 := p.isLt
  by_cases h : k < 32
  · rw [podMask, BitVec.getLsbD_shiftLeft, byte_getLsbD, decide_eq_true h]
    by_cases hk : k < 8 * p.val
    · simp [hk]
    · simp [hk, Nat.not_lt.1 hk]
      omega
  · rw [BitVec.getLsbD_of_ge _ _ (Nat.not_lt.1 h), decide_eq_false (p := k < _) (by omega), Bool.and_false]

/-- The pod's accumulator bits read at the bottom of a word. -/
theorem accumulator_report (acc : BitVec 32) (p : Pod) :
    (acc &&& podMask p) >>> (8 * p.val) = (acc >>> (8 * p.val)) &&& 0xFF#32 := by
  refine BitVec.eq_of_getLsbD_eq fun k _ => ?_
  rw [BitVec.getLsbD_ushiftRight, BitVec.getLsbD_and, BitVec.getLsbD_and, BitVec.getLsbD_ushiftRight,
    podMask_getLsbD, byte_getLsbD]
  simp

/-- Settles O11: the pod's bits read at the bottom of the last word, and cleared. -/
theorem podStatusReportsAndClears : Obligations.PodStatusReportsAndClears := by
  intro tag pod s hs
  refine ⟨fun h => runCommand_refused tag 5 hs (by rw [cmdPodStatus, podOf_eq_none h]), fun p hp => ?_⟩
  refine ⟨s.pods.accumulator &&& ~~~podMask p, runCommand_accepted tag 5 hs ?_, fun k => ?_⟩
  · have hwait : ∀ w : Option Nat, optWord (w.map word) = [flagWord w.isSome, word (w.getD 0)] := fun w => by
      cases w <;> rfl
    rw [cmdPodStatus, podOf_eq_some hp]
    simp only [accumulator_report, hwait]
    rfl
  · rw [getLsbD_and_not, podMask_getLsbD]

/-! ## Glitch qualification -/

theorem qualify_returns {look : Nat → Bool} {w j : Nat} {out : Bool} (h0 : look 0 ≠ out) (hj : j < w)
    (hl : look j = out) (hfirst : ∀ i, i < j → look i ≠ out) : qualify look w out 0 = ⟨out, j - 1, true⟩ := by
  have hpos : 1 ≤ j := Nat.pos_of_ne_zero fun h => h0 (h ▸ hl)
  have hfind : (List.range w).find? (fun j => decide (1 ≤ j) && look j == out) = some j := by
    rw [List.find?_range_eq_some]
    exact ⟨by simp [hpos, hl], List.mem_range.2 hj, fun i hi => by simp [hfirst i hi]⟩
  unfold qualify
  rw [if_neg (Nat.lt_irrefl 0), if_neg h0, hfind]

theorem qualify_passes {look : Nat → Bool} {w : Nat} {out : Bool} (h0 : look 0 ≠ out)
    (h : ∀ j, j < w → 1 ≤ j → look j ≠ out) : qualify look w out 0 = ⟨look 0, 0, false⟩ := by
  have hfind : (List.range w).find? (fun j => decide (1 ≤ j) && look j == out) = none := by
    simp only [List.find?_eq_none, List.mem_range, Bool.and_eq_true, decide_eq_true_eq, beq_iff_eq, not_and]
    exact h
  unfold qualify
  rw [if_neg (Nat.lt_irrefl 0), if_neg h0, hfind]

/-- Settles O10, from the least tick at which the level returns. -/
theorem glitchQualificationOfAChannel : Obligations.GlitchQualificationOfAChannel := by
  intro look w out
  refine ⟨fun h => ?_, fun j h0 hj hl hfirst => qualify_returns h0 hj hl hfirst,
    fun h0 h => qualify_passes h0 fun j hj _ => h j hj, fun n => ?_, fun hw => ?_⟩
  · exact (if_neg (Nat.lt_irrefl 0)).trans (if_pos h)
  · exact if_pos (Nat.succ_pos n)
  · by_cases h : look 0 = out
    · rw [show qualify look w out 0 = ⟨out, 0, false⟩ from (if_neg (Nat.lt_irrefl 0)).trans (if_pos h)]
      exact ⟨rfl, h.symm⟩
    · rw [qualify_passes h fun j hj h1 => by omega]
      exact ⟨rfl, rfl⟩

end Sys2Proof.Machine
end

section
/-! Chapters 1 and 2: one grid tick: what it delivers, qualifies, stamps and evaluates (R9 to R28). -/

namespace Sys2Proof.Machine

/-! ## The mode in force and the latest sample -/

@[simp] theorem stopSampling_stream (g : Option Nat) (s : State) :
    (stopSampling g s).time.modeInForce = s.time.modeInForce ∧ (stopSampling g s).time.last = s.time.last := by
  simp [stopSampling]

@[simp] theorem endCapture_stream (i : Nat) (b : Bool) (s : State) :
    (endCapture i b s).time.modeInForce = s.time.modeInForce ∧ (endCapture i b s).time.last = s.time.last := by
  simp [endCapture]

@[simp] theorem stopCapture_stream (s : State) :
    (stopCapture s).time.modeInForce = s.time.modeInForce ∧ (stopCapture s).time.last = s.time.last := by
  unfold stopCapture
  dsimp only
  split <;> simp [endMonitor]

@[simp] theorem settleTimeLimit_stream (s : State) :
    (settleTimeLimit s).time.modeInForce = s.time.modeInForce ∧ (settleTimeLimit s).time.last = s.time.last := by
  unfold settleTimeLimit timeLimitStop
  dsimp only
  (repeat' split) <;> simp

@[simp] theorem settlePostFill_stream (s : State) :
    (settlePostFill s).time.modeInForce = s.time.modeInForce ∧ (settlePostFill s).time.last = s.time.last := by
  unfold settlePostFill completePostFill
  dsimp only
  (repeat' split) <;> simp

@[simp] theorem settleAtTrigger_stream (s : State) :
    (settleAtTrigger s).time.modeInForce = s.time.modeInForce ∧ (settleAtTrigger s).time.last = s.time.last := by
  unfold settleAtTrigger
  split <;> simp

@[simp] theorem stampedSample_stream (n : Nat) (m : Sample) (e : Bool) (s : State) :
    (stampedSample n m e s).time.modeInForce = s.time.modeInForce ∧
    (stampedSample n m e s).time.last = s.time.last := by
  unfold stampedSample
  dsimp only
  split <;> simp

@[simp] theorem settleBeforeSample_stream (s : State) :
    (settleBeforeSample s).time.modeInForce = s.time.modeInForce ∧
    (settleBeforeSample s).time.last = s.time.last := by
  simp [settleBeforeSample]

/-- The pod interface and the sample of a grid tick, whatever comes due before it and whoever takes the sample. -/
theorem gridTick_stream (b : Bool) (s : State) :
    (gridTick b s).pods = qualifiedPods s.time.modeInForce (deliverTick b s.pods) ∧
    (gridTick b s).time.last = streamSample s.time.modeInForce (deliverTick b s.pods) := by
  unfold gridTick
  dsimp only
  split <;> simp

/-! ## Bits of the sample -/

theorem testBit_foldr (bits : List Bool) (k : Nat) :
    (bits.foldr (fun (b : Bool) (n : Nat) => 2 * n + b.toNat) 0).testBit k = bits.getD k false := by
  induction bits generalizing k with
  | nil => simp
  | cons b rest ih =>
    rw [List.foldr_cons]
    cases k with
    | zero => cases b <;> simp [Nat.testBit_zero]
    | succ k =>
      have hdiv : ∀ n, (2 * n + b.toNat) / 2 = n := fun n => by have := b.toNat_lt; omega
      rw [Nat.testBit_succ, hdiv, ih]
      rfl

theorem getLsbD_ofBits {bits : List Bool} {k : Nat} (hk : k < 32) : (ofBits bits).getLsbD k = bits.getD k false := by
  rw [ofBits, BitVec.getLsbD_ofNat, decide_eq_true hk, Bool.true_and, testBit_foldr]

theorem getD_qualifyAll {α : Type} (p : Pods) (f : Qualified → α) (d : α) {k : Nat} (hk : k < 32) :
    ((qualifyAll p).map f).getD k d =
      f (qualify (deskewed p k) (widthOf p k) (outputBefore p k) (p.skip.getD k 0)) := by
  rw [qualifyAll, List.map_map, List.getD_eq_getElem _ _ (by simpa using hk)]
  simp

theorem validBits_getLsbD (v0 v1 v2 v3 : Bool) (p : Pod) :
    (BitVec.ofNat 4 (v0.toNat + 2 * v1.toNat + 4 * v2.toNat + 8 * v3.toNat)).getLsbD p = #v[v0, v1, v2, v3][p] := by
  revert v0 v1 v2 v3 p
  decide

/-- The levels of a pod's entry stand in its byte of the joined tick, its pod-valid bit at its number. -/
theorem joinEntries_pod (links : Vector PodLink 4) (b : Bool) (p : Pod) :
    (joinEntries links b).valid.getLsbD p = (links[p]).entry.valid ∧
    ∀ k, k < 8 → (joinEntries links b).levels.getLsbD (8 * p.val + k) = (links[p]).entry.levels.getLsbD k := by
  constructor
  · refine (validBits_getLsbD _ _ _ _ p).trans ?_
    fin_cases p <;> rfl
  · intro k hk
    simp only [joinEntries, BitVec.getLsbD_append]
    fin_cases p
    · simp [hk]
    · simp [hk, show ¬ 8 + k < 8 by omega, show 8 + k - 8 = k by omega]
    · simp [hk, show ¬ 16 + k < 8 by omega, show 16 + k - 8 - 8 = k by omega, show ¬ 16 + k - 8 < 8 by omega]
    · simp [hk, show ¬ 24 + k < 8 by omega, show 24 + k - 8 - 8 - 8 = k by omega, show ¬ 24 + k - 8 < 8 by omega,
        show ¬ 24 + k - 8 - 8 < 8 by omega]

theorem entry_cases (k : PodLink) :
    (k.due = [] → k.entry = ⟨k.held, false⟩) ∧ (∀ e rest, k.due = e :: rest → k.entry = e) := by
  unfold PodLink.entry
  exact ⟨fun h => by rw [h]; rfl, fun e rest h => by rw [h]; rfl⟩

theorem deliverTick_link (b : Bool) (P : Pods) (p : Pod) :
    (deliverTick b P).links[p] = { P.links[p] with due := (P.links[p]).due.tail } := by
  fin_cases p <;> rfl

theorem deliverTick_glitchWidth (b : Bool) (P : Pods) (p : Pod) {c : Nat} (hc : c < 8) :
    widthOf (deliverTick b P) (8 * p.val + c) = (P.links[p]).glitchWidth := by
  have hp : (8 * p.val + c) / 8 % 4 = p.val := by have := p.isLt; omega
  unfold widthOf
  simp only [hp]
  have hlink := congrArg PodLink.glitchWidth (deliverTick_link b P p)
  exact hlink

/-- What qualification leaves of the delay lines, the links and the deskew values. -/
theorem qualifiedPods_frame (m : Mode) (P : Pods) :
    (qualifiedPods m P).links = P.links ∧ (qualifiedPods m P).window = P.window ∧
    (qualifiedPods m P).deskew = P.deskew := by
  cases m <;> exact ⟨rfl, rfl, rfl⟩

/-- Settles O12: the tick joins the entries of the pods, and the sample is that of the delay lines. -/
theorem everyTickDeliversOneEntryPerPod : Obligations.EveryTickDeliversOneEntryPerPod := by
  intro trigIn s
  obtain ⟨hpods, hlast⟩ := gridTick_stream trigIn s
  obtain ⟨hpend, hrst, htab, hview, hpanel, hup⟩ := gridTick_frame trigIn s
  obtain ⟨hlinks, hwindow, hdeskew⟩ := qualifiedPods_frame s.time.modeInForce (deliverTick trigIn s.pods)
  refine ⟨gridTick trigIn s, rfl, fun p => ?_, ?_, htab, hview, hpanel, hup, hpend, hrst, gridTick_dram trigIn s,
    ⟨joinEntries s.pods.links trigIn, ?_, rfl, fun p => ?_⟩, ?_, ?_, ?_, fun hm p c hc k hk look hlook q hq => ?_,
    fun hm => ?_⟩
  · simp only [hpods, hlinks]
    exact deliverTick_link _ _ p
  · rw [hpods, hdeskew]
    rfl
  · rw [hpods, hwindow]
    rfl
  · obtain ⟨hv, hl⟩ := joinEntries_pod s.pods.links trigIn p
    obtain ⟨hnone, hsome⟩ := entry_cases s.pods.links[p]
    refine ⟨fun h => ?_, fun e rest h => ?_⟩
    · rw [hnone h] at hv hl
      exact ⟨hv, hl⟩
    · rw [hsome e rest h] at hv hl
      exact ⟨hv, hl⟩
  · rw [hlast, hpods, hwindow]
    cases s.time.modeInForce <;> rfl
  · rw [hlast, hpods, hwindow]
    cases s.time.modeInForce <;> rfl
  · rw [hlast, hpods, hwindow]
    cases s.time.modeInForce <;> rfl
  · have hk32 : k < 32 := by have := p.isLt; omega
    rw [hpods, hwindow] at hlook
    have hlook : look = deskewed (deliverTick trigIn s.pods) k := funext hlook
    have hout : outputBefore (deliverTick trigIn s.pods) k = (s.pods.output.map (fun o => o.getLsbD k)).getD (look 0) := by
      rw [hlook]
      unfold outputBefore deliverTick
      cases s.pods.output <;> rfl
    have hq : q = qualify (deskewed (deliverTick trigIn s.pods) k) (widthOf (deliverTick trigIn s.pods) k)
        (outputBefore (deliverTick trigIn s.pods) k) ((deliverTick trigIn s.pods).skip.getD k 0) := by
      rw [hq, hout, ← hlook, hk, deliverTick_glitchWidth _ _ _ hc]
      rfl
    have hbit : ∀ f : Qualified → Bool, (ofBits ((qualifyAll (deliverTick trigIn s.pods)).map f)).getLsbD k = f q :=
      fun f => by rw [getLsbD_ofBits hk32, getD_qualifyAll _ _ _ hk32, hq]
    rw [hm] at hpods hlast
    rw [hpods, hlast]
    refine ⟨hbit _, hbit _, congrArg some (hbit _), (getD_qualifyAll _ _ _ hk32).trans (congrArg _ hq.symm), ?_⟩
    exact (BitVec.getLsbD_or ..).trans (congrArg _ (hbit _))
  · rw [hm] at hpods hlast
    rw [hpods, hlast]
    exact ⟨rfl, rfl, rfl, rfl, rfl⟩

end Sys2Proof.Machine
end

section
/-! Chapters 2 and 3: grid ticks while STOPPED and in MONITOR, evaluated samples and the time limit (R23 to R28, R57). -/

namespace Sys2Proof.Machine

/-! ## Nothing is due -/

theorem settlePostFill_no_segment {s : State} (h : currentSeg s = none) : settlePostFill s = s := by
  rw [settlePostFill, h]

theorem settleTimeLimit_not_due {s : State} (h : timeLimitDue s = false) : settleTimeLimit s = s := by
  rw [settleTimeLimit, h]
  rfl

theorem settleBeforeSample_none {s : State} (hoff : allLanesOff s) (hseg : currentSeg s = none)
    (hlimit : timeLimitDue s = false) : settleBeforeSample s = s := by
  rw [settleBeforeSample, settleGaps_off hoff rfl, settlePostFill_no_segment hseg, settleTimeLimit_not_due hlimit]

theorem currentSeg_eq_none {s : State} (h : ∀ i, s.capture.ctl ≠ .capturing i) : currentSeg s = none := by
  unfold currentSeg
  split
  · next i hi => exact absurd hi (h i)
  · rfl

/-- Settles O13: nothing comes due before the sample, and no consumer takes it. -/
theorem samplesAreNotStampedWhileStopped : Obligations.SamplesAreNotStampedWhileStopped := by
  intro trigIn s hs hc hoff
  have hnone : currentSeg (setTrigger { s.trigger with trigOut := false } s) = none :=
    currentSeg_eq_none fun i hi => by rcases hc with hc | hc <;> cases hc.symm.trans hi
  have hlimit : timeLimitDue (setTrigger { s.trigger with trigOut := false } s) = false := by
    simp [timeLimitDue, hs]
  have hbefore := settleBeforeSample_none (s := setTrigger { s.trigger with trigOut := false } s) hoff hnone hlimit
  show Host.Outcome.next (gridTick trigIn s) = _
  rw [gridTick, hbefore]
  exact congrArg Host.Outcome.next (if_neg (by simp [hs]))

/-! ## MONITOR -/

/-- In MONITOR only the sequencer's previous sample takes a stamped sample. -/
theorem stampedSample_monitor {s : State} (n : Nat) (m : Sample) (e : Bool) (hoff : allLanesOff s)
    (hseg : currentSeg s = none) (hidle : s.trigger.state = .idle) :
    stampedSample n m e s = if e then keepPrevious m (s.trigger.termValues m) s else s := by
  have hcap : captureSample n m e s = s := by rw [captureSample, hseg]
  have hseq : sequencerSample m e n s = if e then keepPrevious m (s.trigger.termValues m) s else s := by
    rw [sequencerSample, hidle]
  have hafter : ∀ u : State, u.capture = s.capture → u.lanes = s.lanes →
      settleAtTrigger (liveTick n m.levels (if u.startsNext then settleAtTrigger u else u)) = u := by
    intro u hu hl
    have hseg : currentSeg u = none := by
      rw [← hseg]
      unfold currentSeg
      rw [hu]
    have hnext : u.startsNext = false := by rw [State.startsNext, hseg]
    rw [hnext, if_neg Bool.false_ne_true, liveTick_off hoff hl, settleAtTrigger, settlePostFill_no_segment hseg, ite_self]
  unfold stampedSample
  dsimp only
  rw [hcap, hseq]
  cases e
  · exact hafter s rfl rfl
  · exact hafter (keepPrevious m (s.trigger.termValues m) s) rfl rfl

/-- What a grid tick in MONITOR leaves: the stamp, the sample, and the sequencer's previous sample. -/
theorem gridTick_monitor {s : State} (trigIn : Bool) (hctl : s.capture.ctl = .monitor) (hsamp : s.time.sampling = true)
    (hoff : allLanesOff s) (hidle : s.trigger.state = .idle) (hlimit : timeLimitDue s = false) :
    ∃ m e, ∃ u : State,
      u = { s with
        pods := qualifiedPods s.time.modeInForce (deliverTick trigIn s.pods)
        time := { s.time with
          last := m, tick := some (if s.time.fresh then 0 else s.time.tick.getD 0 + 1), fresh := false }
        trigger := { s.trigger with trigOut := false } } ∧
      e = evaluatedSample s.time m ∧
      gridTick trigIn s = if e then keepPrevious m (u.trigger.termValues m) u else u := by
  have hseg : ∀ u : State, u.capture = s.capture → currentSeg u = none := fun u hu =>
    currentSeg_eq_none fun i hi => by
      rw [hu, hctl] at hi
      cases hi
  have hbefore := settleBeforeSample_none (s := setTrigger { s.trigger with trigOut := false } s) hoff (hseg _ rfl) hlimit
  refine ⟨streamSample s.time.modeInForce (deliverTick trigIn s.pods), _, _, rfl, rfl, ?_⟩
  rw [gridTick, hbefore]
  dsimp only
  rw [if_pos (by exact hsamp)]
  exact stampedSample_monitor _ _ _ hoff (hseg _ rfl) hidle

/-- What `monitorStampsEveryTick` says of the state after a tick. -/
theorem gridTick_monitor_stamps {s : State} (trigIn : Bool) (hctl : s.capture.ctl = .monitor)
    (hsamp : s.time.sampling = true) (hoff : allLanesOff s) (hidle : s.trigger.state = .idle)
    (hlimit : timeLimitDue s = false) :
    ∃ t : State, exec (.levelStreamSample trigIn) s = .next t ∧
      t.time.tick = some (if s.time.fresh then 0 else s.time.tick.getD 0 + 1) ∧
      t.time.fresh = false ∧ t.time.sampling = true ∧ t.capture = s.capture ∧ t.lanes = s.lanes ∧ t.rpath = s.rpath ∧
      t.events = s.events ∧ t.trigger.state = .idle ∧ t.trigger.counters = s.trigger.counters ∧
      (evaluatedSample s.time t.time.last = true → t.trigger.prev = t.time.last) ∧
      (evaluatedSample s.time t.time.last = false → t.trigger.prev = s.trigger.prev) := by
  obtain ⟨m, e, u, hu, he, htick⟩ := gridTick_monitor trigIn hctl hsamp hoff hidle hlimit
  refine ⟨_, congrArg Host.Outcome.next htick, ?_⟩
  subst hu
  cases e
  · exact ⟨rfl, rfl, hsamp, rfl, rfl, rfl, rfl, hidle, rfl, fun h => absurd (he.trans h) nofun, fun _ => rfl⟩
  · exact ⟨rfl, rfl, hsamp, rfl, rfl, rfl, rfl, hidle, rfl, fun _ => rfl, fun h => absurd (he.trans h) nofun⟩

/-- Settles O14: the counter's stamp by whether a sample of the sampling was stamped. -/
theorem monitorStampsEveryTick : Obligations.MonitorStampsEveryTick := by
  intro trigIn n s hctl hsamp hoff hidle
  refine ⟨fun hf => ?_, fun hf ht hn => ?_⟩
  · have h := gridTick_monitor_stamps trigIn hctl hsamp hoff hidle (by simp [timeLimitDue, hf])
    rw [if_pos hf] at h
    exact h
  · have hlimit : timeLimitDue s = false := by
      simp only [timeLimitDue, hsamp, hf, ht, Option.some_inj]
      exact decide_eq_false (by simp only [Config.lastTick]; omega)
    have h := gridTick_monitor_stamps trigIn hctl hsamp hoff hidle hlimit
    rw [if_neg (by simp [hf]), ht] at h
    exact h

/-! ## Evaluated samples -/

theorem stateEdge_iff (t : Timebase) (was now : BitVec 32) :
    stateEdge t was now = true ↔
      (t.clockEdge = .rising ∧ was.getLsbD t.clockChan = false ∧ now.getLsbD t.clockChan = true) ∨
      (t.clockEdge = .falling ∧ was.getLsbD t.clockChan = true ∧ now.getLsbD t.clockChan = false) ∨
      (t.clockEdge = .both ∧ was.getLsbD t.clockChan ≠ now.getLsbD t.clockChan) := by
  unfold stateEdge
  cases t.clockEdge with
  | rising =>
    rw [getLsbD_and_not]
    simp [and_comm]
  | falling =>
    rw [getLsbD_and_not]
    simp
  | both =>
    rw [BitVec.getLsbD_xor]
    simp

theorem qualifierHolds_iff (t : Timebase) (now : BitVec 32) :
    qualifierHolds t now = true ↔ ∀ k, k < 32 → t.qMask.getLsbD k = true → now.getLsbD k = t.qValue.getLsbD k := by
  rw [qualifierHolds, beq_iff_eq, BitVec.eq_of_getLsbD_eq_iff]
  refine forall_congr' fun k => forall_congr' fun hk => ?_
  rw [BitVec.getLsbD_and, BitVec.getLsbD_xor]
  cases t.qMask.getLsbD k <;> simp

/-- Settles O15, from the clock edge and the qualifier. -/
theorem stateSampleOnAQualifiedClockEdge : Obligations.StateSampleOnAQualifiedClockEdge := by
  intro t sm
  unfold evaluatedSample
  refine ⟨fun h => by rw [h], fun h => ?_⟩
  rw [h]
  rw [Bool.and_eq_true, stateEdge_iff, qualifierHolds_iff]

end Sys2Proof.Machine
end

section
/-! Chapter 3: what closing a segment leaves, and the time limit (R44, R56, R57). -/

namespace Sys2Proof.Machine

/-! ## A segment changed in the list -/

theorem segAt_of_set {s t : State} {i : Nat} {d : Segment} (h : t.capture.segs = s.capture.segs.set i d)
    (hi : i < s.capture.segs.length) : segAt t i = d := by
  rw [segAt, h, List.getD_eq_getElem _ _ (by rwa [List.length_set]), List.getElem_set_self]

theorem segAt_of_set_ne {s t : State} {i j : Nat} {d : Segment} (h : t.capture.segs = s.capture.segs.set i d)
    (hl : t.capture.layout = s.capture.layout) (hj : j ≠ i) : segAt t j = segAt s j := by
  rw [segAt, segAt, h, hl, List.getD_eq_getElem?_getD, List.getD_eq_getElem?_getD, List.getElem?_set_ne (Ne.symm hj)]

theorem modSeg_modSeg {i : Nat} {f g : Segment → Segment} {s : State} (hi : i < s.capture.segs.length) :
    modSeg i g (modSeg i f s) = modSeg i (g ∘ f) s := by
  have hseg : segAt (modSeg i f s) i = f (segAt s i) := segAt_of_set rfl hi
  rw [modSeg, hseg]
  simp only [modSeg, List.set_set, Function.comp_apply]

/-! ## Closing -/

/-- A segment once it has been closed with its END record `r`. -/
def Segment.closedWith (d : Segment) (stopped : Bool) (r : Record) : Segment :=
  { d with produced := d.produced + 1, state := .closing, closeStopped := stopped, endTime := some r.time }

/-- With no overrun pending, closing queues the END record and marks the segment. -/
theorem closeSegment_no_overrun {i : Nat} {s : State} (stopped : Bool) (hi : i < s.capture.segs.length)
    (ho : (segAt s i).overrun = none) :
    closeSegment i stopped s = setCapture { s.capture with
      needStart := false
      queue := s.capture.queue ++ [⟨i, endRecord i s, false⟩]
      segs := s.capture.segs.set i ((segAt s i).closedWith stopped (endRecord i s)) } s := by
  unfold closeSegment
  rw [ho]
  exact modSeg_modSeg hi

/-- With every lane OFF and no overrun pending, the end of a capture leaves this. -/
theorem endCapture_no_overrun {i : Nat} {s : State} (stopped : Bool) (hoff : allLanesOff s)
    (hi : i < s.capture.segs.length) (ho : (segAt s i).overrun = none) :
    endCapture i stopped s = { s with
      time := { s.time with sampling := false, fresh := false }
      trigger := s.trigger.toIdle
      capture := { s.capture with
        ctl := .closing
        needStart := false
        queue := s.capture.queue ++ [⟨i, endRecord i s, false⟩]
        segs := s.capture.segs.set i ((segAt s i).closedWith stopped (endRecord i s)) } } := by
  rw [endCapture_off hoff rfl, closeSegment_no_overrun stopped hi ho]
  rfl

theorem stopCapture_capturing {i : Nat} {s : State} (hoff : allLanesOff s) (hc : s.capture.ctl = .capturing i) :
    stopCapture s = endCapture i true s := by
  rw [stopCapture, settleGaps_off hoff rfl, hc]

theorem stopCapture_monitor {s : State} (hoff : allLanesOff s) (hc : s.capture.ctl = .monitor) :
    stopCapture s = { s with
      time := { s.time with sampling := false, fresh := false }
      capture := { s.capture with ctl := .idle } } := by
  have hstop := stopSampling_off (t := setCapture { s.capture with ctl := .idle } s) hoff rfl none
  rw [stopCapture, settleGaps_off hoff rfl, hc]
  simp only [endMonitor, hstop]
  rfl

/-! ## The time limit -/

theorem timeLimitDue_iff (s : State) :
    timeLimitDue s = true ↔ s.time.sampling = true ∧ s.time.fresh = false ∧ s.time.tick = some 281474976710655 := by
  simp [timeLimitDue, Config.lastTick, and_assoc]

theorem lastTickNow_of_tick {s : State} {n : Nat} (hf : s.time.fresh = false) (ht : s.time.tick = some n) :
    lastTickNow s = n := by
  rw [lastTickNow, if_neg (by simp [hf]), ht]
  rfl

theorem settleTimeLimit_due {s : State} (h : timeLimitDue s = true) : settleTimeLimit s = timeLimitStop s :=
  if_pos h

/-- The current segment with its TIME_LIMIT flag (R57). -/
def flagTimeLimit (i : Nat) (s : State) : State :=
  modSeg i (fun d => { d with flags := { d.flags with timeLimit := true } }) s

theorem segAt_flagTimeLimit {i : Nat} {s : State} (hi : i < s.capture.segs.length) :
    segAt (flagTimeLimit i s) i = { segAt s i with flags := { (segAt s i).flags with timeLimit := true } } :=
  segAt_of_set rfl hi

theorem timeLimitStop_capturing {i : Nat} {s : State} (hc : s.capture.ctl = .capturing i) :
    timeLimitStop s = raise blkCapture evTimeLimit (stopCapture (flagTimeLimit i s)) := by
  rw [timeLimitStop, currentSeg_eq_some.2 hc]
  rfl

/-- Settles O16, by the controller's state. -/
theorem timeLimitStopsSampling : Obligations.TimeLimitStopsSampling := by
  intro i s hoff
  refine ⟨fun hsamp hf ht => ?_, fun h => ?_⟩
  · have hdue := settleTimeLimit_due ((timeLimitDue_iff s).2 ⟨hsamp, hf, ht⟩)
    refine ⟨fun hc => ?_, fun hc hi ho => ?_⟩
    · have hseg : currentSeg s = none := currentSeg_eq_none fun j hj => by cases (hc.symm.trans hj)
      show Host.Outcome.next (settleTimeLimit s) = _
      rw [hdue, timeLimitStop, hseg]
      exact congrArg (fun u => Host.Outcome.next (raise _ _ u)) (stopCapture_monitor hoff hc)
    · have hu := segAt_flagTimeLimit hi
      have hlen : i < (flagTimeLimit i s).capture.segs.length := by simpa [flagTimeLimit] using hi
      have hstop : stopCapture (flagTimeLimit i s) = endCapture i true (flagTimeLimit i s) :=
        stopCapture_capturing hoff hc
      have hend := endCapture_no_overrun (s := flagTimeLimit i s) true hoff hlen (by rw [hu]; exact ho)
      have hrec : endRecord i (flagTimeLimit i s) =
          ⟨.close, s.time.last.valid, 281474976710655, s.time.last.levels &&& (segAt s i).mask, 0⟩ := by
        rw [endRecord, hu, show lastTickNow (flagTimeLimit i s) = 281474976710655 from lastTickNow_of_tick hf ht]
        rfl
      refine ⟨raise blkCapture evTimeLimit (stopCapture (flagTimeLimit i s)),
        congrArg Host.Outcome.next (hdue.trans (timeLimitStop_capturing hc)), ?_⟩
      rw [hstop, hend, hrec, hu]
      refine ⟨rfl, rfl, rfl, rfl, rfl, rfl, ?_, rfl, rfl, rfl, rfl, rfl, rfl, rfl⟩
      exact segAt_of_set (s := flagTimeLimit i s) rfl hlen
  · refine congrArg Host.Outcome.next (settleTimeLimit_not_due (Bool.eq_false_iff.2 fun hdue => ?_))
    obtain ⟨hsamp, -, ht⟩ := (timeLimitDue_iff s).1 hdue
    exact h.elim (fun h => by cases (h.symm.trans hsamp)) fun h => h ht

end Sys2Proof.Machine
end

section
/-! Chapter 2: the wall clock at one reference count, and its rows (R30 to R35). -/

namespace Sys2Proof.Machine

/-! ## One reference count -/

/-- What the subsecond counts to before its carry, the correction aside (R30). -/
def Timebase.advanced (t : Timebase) : Nat := if 0 < t.withheld then t.subsecond else t.subsecond + 1

theorem count_inside {t : Timebase} (h : t.intervalCount + 1 < t.intervalLength) :
    t.count = ⟨{ t with
        subsecond := t.advanced % 32768
        seconds := if 32768 ≤ t.advanced then t.seconds + 1 else t.seconds
        intervalCount := t.intervalCount + 1
        withheld := t.withheld - 1 },
      decide (32768 ≤ t.advanced), false, decide (t.subsecond / t.rollCounts ≠ t.advanced / t.rollCounts)⟩ := by
  unfold Timebase.count
  simp only [decide_eq_false (Nat.not_le.2 h), Bool.false_and, Bool.false_eq_true, if_false, Nat.add_zero,
    decide_eq_true_eq]
  rfl

theorem div_succ_ne_iff (a b : Nat) : a / b ≠ (a + 1) / b ↔ (a + 1) % b = 0 := by
  rw [Nat.succ_div, ← Nat.dvd_iff_mod_eq_zero]
  split <;> simp [*]

/-- A count inside an interval with nothing withheld. -/
theorem count_unwithheld {t : Timebase} (h : t.intervalCount + 1 < t.intervalLength) (hw : t.withheld = 0) :
    t.count = ⟨{ t with
        subsecond := (t.subsecond + 1) % 32768
        seconds := if 32768 ≤ t.subsecond + 1 then t.seconds + 1 else t.seconds
        intervalCount := t.intervalCount + 1 },
      decide (32768 ≤ t.subsecond + 1), false, decide ((t.subsecond + 1) % t.rollCounts = 0)⟩ := by
  have hadv : t.advanced = t.subsecond + 1 := if_neg (by omega)
  rw [count_inside h, hadv, hw]
  congr 1
  exact decide_eq_decide.2 (div_succ_ne_iff _ _)

theorem count_ends {t : Timebase} (h : t.intervalLength ≤ t.intervalCount + 1) :
    t.count.ended = true ∧ t.count.time.intervalCount = 0 := by
  unfold Timebase.count
  simp only [decide_eq_true h, if_true, and_self]

/-- The end of an interval with nothing withheld: what the correction adds and withholds (R33). -/
theorem count_at_end {t : Timebase} (h : t.intervalLength ≤ t.intervalCount + 1) (hw : t.withheld = 0) {plus kept : Nat}
    (hp : (if t.corrDir = .plus then t.corrAmount else 0) = plus)
    (hm : (if t.corrDir = .minus then t.corrAmount else t.withheld) = kept) :
    t.count.time = { t with
      subsecond := (t.subsecond + 1 + plus) % 32768
      seconds := if 32768 ≤ t.subsecond + 1 + plus then t.seconds + 1 else t.seconds
      intervalCount := 0
      withheld := kept } := by
  subst hp hm
  unfold Timebase.count
  simp only [decide_eq_true h, Bool.true_and, if_true, decide_eq_true_eq, hw, Nat.lt_irrefl, if_false]

theorem secondsChanged_no_wait {s : State} (h : s.trigger.state ≠ .waitArm) : secondsChanged s = s := by
  unfold secondsChanged
  split
  · next hw _ => exact absurd hw h
  · rfl

theorem rollUpdate_none {s : State} (h : s.view.roll = false ∨ (segAt s s.view.seg).viewLimit = none) :
    rollUpdate s = s := by
  unfold rollUpdate
  split
  · next hr hl => rcases h with h | h
                  · cases h.symm.trans hr
                  · cases h.symm.trans hl
  · rfl

@[simp] theorem referenceCount_time (s : State) : (referenceCount s).time = s.time.count.time := by
  unfold referenceCount
  dsimp only
  (repeat' split) <;> simp

/-- With nobody to hear of it the count changes the timebase only. -/
theorem referenceCount_alone {s : State} (ht : s.trigger.state ≠ .waitArm)
    (hr : s.view.roll = false ∨ (segAt s s.view.seg).viewLimit = none) :
    referenceCount s = { s with time := s.time.count.time } := by
  have hseconds : secondsChanged (setTime s.time.count.time s) = setTime s.time.count.time s :=
    secondsChanged_no_wait ht
  have hroll : rollUpdate (setTime s.time.count.time s) = setTime s.time.count.time s := rollUpdate_none hr
  unfold referenceCount
  dsimp only
  rw [hseconds, ite_self, hroll, ite_self]
  rfl

/-- Settles O17: the timebase of one count, by its place in the correction interval. -/
theorem referenceCountAdvancesTheWallClock : Obligations.ReferenceCountAdvancesTheWallClock := by
  intro s hsub hamt ht hr
  have hexec : ∀ u : Timebase, s.time.count.time = u → exec .wallClockReferenceCount s = .next { s with time := u } :=
    fun u hu => by
      rw [← hu]
      exact congrArg Host.Outcome.next (referenceCount_alone ht hr)
  refine ⟨fun hin => ⟨fun hw => hexec _ ?_, fun hw hlt => hexec _ ?_, fun hw he => hexec _ ?_⟩, fun hend hw =>
    ⟨fun hd h => hexec _ ?_, fun hd h => hexec _ ?_, fun hd h => hexec _ ?_, fun hd h => hexec _ ?_,
      fun hd h => hexec _ ?_, fun hd h => hexec _ ?_⟩⟩
  · have hadv : s.time.advanced = s.time.subsecond := if_pos hw
    rw [count_inside hin, hadv, Nat.mod_eq_of_lt hsub, if_neg (by omega)]
  · rw [count_unwithheld hin hw, Nat.mod_eq_of_lt (by omega), if_neg (by omega)]
  · rw [count_unwithheld hin hw, he]
    rfl
  · rw [count_at_end hend.ge hw (if_pos hd) (if_neg (by simp [hd])), Nat.mod_eq_of_lt h, if_neg (by omega)]
  · rw [count_at_end hend.ge hw (if_pos hd) (if_neg (by simp [hd])), if_pos h, Nat.mod_eq_sub_mod h,
      Nat.mod_eq_of_lt (by omega)]
  · rw [count_at_end hend.ge hw (if_neg (by simp [hd])) (if_pos hd), Nat.mod_eq_of_lt (by omega), if_neg (by omega)]
  · rw [count_at_end hend.ge hw (if_neg (by simp [hd])) (if_pos hd), h]
    rfl
  · rw [count_at_end hend.ge hw (if_neg (by simp [hd])) (if_neg (by simp [hd])), Nat.mod_eq_of_lt (by omega),
      if_neg (by omega)]
  · rw [count_at_end hend.ge hw (if_neg (by simp [hd])) (if_neg (by simp [hd])), h]
    rfl

/-! ## The rows of the wall clock -/

/-- The roll-refresh event with roll on and a record written (R35, R165). -/
theorem rollUpdate_requested {s : State} {limit : Nat} (hr : s.view.roll = true)
    (hl : (segAt s s.view.seg).viewLimit = some limit) :
    viewRequested { s.view.snapshot with t0 := min (limit - 720 * s.view.q / 256) 281474976710655 } s
      (rollUpdate s) := by
  have ht0 : clampT0 ((limit : Int) - (Config.columns * s.view.q / 256 : Nat)) =
      min (limit - 720 * s.view.q / 256) 281474976710655 := by
    rw [clampT0, Int.toNat_sub]
  have hupdate : rollUpdate s = viewRequest (setView
      { s.view with t0 := min (limit - 720 * s.view.q / 256) 281474976710655 } s) := by
    rw [rollUpdate, hr, hl, ← ht0]
  rw [hupdate]
  exact viewRequest_requested s.view.seg _ s.view.q s.view.roll s.view.cursorA s.view.cursorB s

/-- A count that carries and refreshes, with no sequencer to hear of the seconds. -/
theorem referenceCount_refreshes {s : State} (ht : s.trigger.state ≠ .waitArm) (hr : s.time.count.roll = true) :
    referenceCount s = rollUpdate { s with time := s.time.count.time } := by
  have hseconds : secondsChanged (setTime s.time.count.time s) = setTime s.time.count.time s :=
    secondsChanged_no_wait ht
  unfold referenceCount
  dsimp only
  rw [hseconds, ite_self, if_pos hr]
  rfl

/-- A count that neither carries nor refreshes. -/
theorem referenceCount_quiet {s : State} (hc : s.time.count.carry = false) (hr : s.time.count.roll = false) :
    referenceCount s = { s with time := s.time.count.time } := by
  unfold referenceCount
  dsimp only
  rw [hc, hr]
  rfl

/-- Settles O18: which event of a count each row waits for, and what the roll-refresh event does. -/
theorem clockRowsAreTheirReferenceCount : Obligations.ClockRowsAreTheirReferenceCount := by
  intro s
  have hrefresh : s.time.count.roll = true → exec .rollRefresh s = .next (referenceCount s) := fun h =>
    congrArg Host.Outcome.next (if_pos h)
  refine ⟨fun hend => ?_, fun hin => ⟨?_, fun hw hsub => ?_, fun hw hsub => ⟨?_, fun hm => ?_, fun hm => ⟨?_, ?_⟩⟩,
    fun hw hsub ht hm u hu => ?_⟩⟩
  · obtain ⟨hended, hcount⟩ := count_ends (t := s.time) hend.ge
    have hrow : exec .correctionIntervalEnd s = .next (referenceCount s) :=
      congrArg Host.Outcome.next (if_pos hended)
    exact ⟨hrow, _, hrow, by rw [referenceCount_time, hcount]⟩
  · exact congrArg Host.Outcome.next (if_neg (by rw [count_inside hin]; simp))
  · have hcount := count_unwithheld hin hw
    have hrow : exec .secondsAdvance s = .next (referenceCount s) :=
      congrArg Host.Outcome.next (if_pos (by rw [hcount, hsub]; rfl))
    refine ⟨hrow, _, hrow, ?_, ?_⟩
    · rw [referenceCount_time, hcount, hsub]
      rfl
    · rw [referenceCount_time, hcount, hsub]
  · exact congrArg Host.Outcome.next (if_neg (by rw [count_unwithheld hin hw]; simp; omega))
  · have hcount := count_unwithheld hin hw
    have hrow := hrefresh (by rw [hcount]; exact decide_eq_true hm)
    refine ⟨hrow, _, hrow, ?_⟩
    rw [referenceCount_time, hcount]
    exact Nat.mod_eq_of_lt (by omega)
  · exact congrArg Host.Outcome.next (if_neg (by rw [count_unwithheld hin hw]; exact fun h => hm (of_decide_eq_true h)))
  · have hcount := count_unwithheld hin hw
    refine congrArg Host.Outcome.next ((referenceCount_quiet ?_ ?_).trans ?_)
    · rw [hcount]
      exact decide_eq_false (by omega)
    · rw [hcount]
      exact decide_eq_false hm
    · rw [hcount, Nat.mod_eq_of_lt (by omega), if_neg (by omega)]
  · have hcount := count_unwithheld hin hw
    have htime : s.time.count.time = u := by
      have hcarry : (if 32768 ≤ s.time.subsecond + 1 then s.time.seconds + 1 else s.time.seconds) =
          if s.time.subsecond = 32767 then s.time.seconds + 1 else s.time.seconds :=
        if_congr (by omega) rfl rfl
      rw [hcount, hcarry, hu]
    have hroll : s.time.count.roll = true := by
      rw [hcount]
      exact decide_eq_true hm
    have hrow := (hrefresh hroll).trans (congrArg Host.Outcome.next (referenceCount_refreshes ht hroll))
    rw [htime] at hrow
    refine ⟨fun hr => hrow.trans (congrArg Host.Outcome.next (rollUpdate_none hr)), fun limit hr hl => ⟨_, hrow, ?_⟩⟩
    exact rollUpdate_requested (s := { s with time := u }) hr hl

end Sys2Proof.Machine
end

section
/-! Chapters 2 and 3: the commands of the timebase and of the capture settings (R21, R31, R32, R35, R37). -/

namespace Sys2Proof.Machine

/-! ## Codes -/

theorem modeOf_eq_none {n : Nat} (h : 1 < n) : modeOf n = none :=
  match n, h with
  | _ + 2, _ => rfl

theorem edgeOf_eq_none {n : Nat} (h : 2 < n) : edgeOf n = none :=
  match n, h with
  | _ + 3, _ => rfl

theorem directionOf_eq_none {n : Nat} (h : 2 < n) : directionOf n = none :=
  match n, h with
  | _ + 3, _ => rfl

theorem switchOf_eq_none {w : Word} (h : 1 < w.toNat) : switchOf w = none := by
  unfold switchOf
  rw [if_neg (by rintro rfl; simp at h), if_neg (by rintro rfl; simp at h)]

theorem modeOf_code (m : Mode) : modeOf m.code.toNat = some m := by cases m <;> rfl

theorem edgeOf_code (e : Edge) : edgeOf e.code.toNat = some e := by cases e <;> rfl

theorem directionOf_code (d : Direction) : directionOf d.code.toNat = some d := by cases d <;> rfl

theorem switchOf_flagWord (b : Bool) : switchOf (flagWord b) = some b := by cases b <;> rfl

theorem switchOf_le_one {w : Word} (h : w.toNat ≤ 1) : switchOf w = some (decide (w = 1)) := by
  unfold switchOf
  by_cases h1 : w = 1
  · subst h1
    rfl
  · have h0 : w = 0 := BitVec.eq_of_toNat_eq (Nat.le_zero.1 (Nat.lt_succ_iff.1 (Nat.lt_of_le_of_ne h fun e =>
      h1 (BitVec.eq_of_toNat_eq e))))
    subst h0
    rfl

/-! ## The wall clock -/

theorem cmdSetCorrection_refused {dir amount interval : Word} (h : 2 < dir.toNat ∨ 1 < interval.toNat) (s : State) :
    cmdSetCorrection dir amount interval s = refuse .badArgument s := by
  unfold cmdSetCorrection
  obtain h | h := h
  · rw [directionOf_eq_none h]
  · rw [switchOf_eq_none h]
    cases directionOf dir.toNat <;> rfl

/-- Settles O19, command by command. -/
theorem wallClockCommands : Obligations.WallClockCommands := by
  intro tag seconds dir amount interval code s hs
  refine ⟨fun h => ?_, fun h => runCommand_refused tag 9 hs (cmdSetCorrection_refused h s), fun d hd hi => ?_,
    fun h => runCommand_refused tag 10 hs (if_pos h), fun h => ?_⟩
  · exact runCommand_accepted tag 8 hs (congrArg (accept []) (secondsChanged_no_wait (by exact h)))
  · refine runCommand_accepted tag 9 hs ?_
    rw [cmdSetCorrection, hd, directionOf_code, switchOf_le_one hi]
    rfl
  · exact runCommand_accepted tag 10 hs (if_neg (Nat.not_lt.2 h))

/-! ## SET_TIMEBASE -/

theorem someLaneLive_iff (s : State) :
    someLaneLive s = true ↔ ∃ l : LaneId, (s.lanes[l]).state ≠ .off ∧ (s.lanes[l]).isReplay = false := by
  rw [someLaneLive, List.any_eq_true]
  constructor
  · rintro ⟨ln, hmem, hlive⟩
    obtain ⟨k, hk, rfl⟩ := List.getElem_of_mem hmem
    rw [Vector.length_toList] at hk
    exact ⟨⟨k, hk⟩, by simpa [Lane.live] using hlive⟩
  · rintro ⟨l, hon, hlive⟩
    exact ⟨s.lanes[l], by simp, by simpa [Lane.live] using ⟨hon, hlive⟩⟩

theorem cmdSetTimebase_refused {d mode chan edge mask value : Word} {s : State} (hs : s.time.sampling = false)
    (h : 1 < mode.toNat ∨ 2 < edge.toNat ∨ 31 < chan.toNat) :
    cmdSetTimebase d mode chan edge mask value s = refuse .badArgument s := by
  unfold cmdSetTimebase
  rw [if_neg (by simp [hs])]
  obtain h | h | h := h
  · rw [modeOf_eq_none h]
  · rw [edgeOf_eq_none h]
    cases modeOf mode.toNat <;> rfl
  · split
    · rw [if_pos h]
    · rfl

/-- The settings of SET_TIMEBASE reach the lanes' test. -/
theorem cmdSetTimebase_judged {d chan mask value : Word} {m : Mode} {e : Edge} {s : State}
    (hs : s.time.sampling = false) (hc : chan.toNat ≤ 31) :
    cmdSetTimebase d m.code chan e.code mask value s =
      if m = .state ∧ someLaneLive s then refuse .laneActive s
      else
        let qMask := mask &&& ~~~bitMask chan.toNat
        accept [word (clamp 1 65536 d.toNat), qMask, value &&& qMask]
          (setTime { s.time with
            divider := clamp 1 65536 d.toNat, mode := m, clockChan := chan.toNat, clockEdge := e
            qMask := qMask, qValue := value &&& qMask } s) := by
  unfold cmdSetTimebase
  rw [if_neg (by simp [hs]), modeOf_code, edgeOf_code]
  exact if_neg (Nat.not_lt.2 hc)

/-- Settles O20: the tests in their order. -/
theorem setTimebaseJudgedInOrder : Obligations.SetTimebaseJudgedInOrder := by
  intro tag d mode chan edge mask value s hs
  refine ⟨fun h => runCommand_refused tag 6 hs (if_pos h), fun hsamp =>
    ⟨fun h => runCommand_refused tag 6 hs (cmdSetTimebase_refused hsamp h), ?_⟩⟩
  rintro m e rfl rfl hc
  refine ⟨fun hm hl => ?_, fun h => ?_⟩
  · exact runCommand_refused tag 6 hs
      ((cmdSetTimebase_judged hsamp hc).trans (if_pos ⟨hm, (someLaneLive_iff s).2 hl⟩))
  · refine runCommand_accepted tag 6 hs ((cmdSetTimebase_judged hsamp hc).trans (if_neg ?_))
    rintro ⟨rfl, hlive⟩
    obtain ⟨l, hon, hl⟩ := (someLaneLive_iff s).1 hlive
    obtain h | h := h
    · cases h
    · exact (h l).elim hon fun hr => by cases (hl.symm.trans hr)

/-! ## SET_CAPTURE -/

theorem validCount_iff (n : Nat) : validCount n = true ↔ n ∈ [1, 2, 4, 8, 16, 32, 64, 128, 256] :=
  List.contains_iff_mem

/-- The settings of SET_CAPTURE with a hold and an auto code that are listed. -/
theorem cmdSetCapture_judged {mask count prefill postfill : Word} {hold auto : Bool} {s : State}
    (hc : s.capture.ctl = .idle) :
    cmdSetCapture mask count prefill postfill (flagWord hold) (flagWord auto) s =
      if !validCount count.toNat then refuse .badArgument s
      else if Config.recordSlots / count.toNat < prefill.toNat + postfill.toNat + 1 then refuse .badArgument s
      else
        accept (CaptureSettings.words ⟨mask, count.toNat, prefill.toNat, postfill.toNat, hold, auto⟩)
          (setCapture { s.capture with
            stored := ⟨mask, count.toNat, prefill.toNat, postfill.toNat, hold, auto⟩ } s) := by
  unfold cmdSetCapture
  rw [if_neg (not_not.2 hc), switchOf_flagWord, switchOf_flagWord]

theorem word_toNat (w : Word) : word w.toNat = w := by simp [word]

/-- Settles O21: the tests in their order. -/
theorem setCaptureJudgedInOrder : Obligations.SetCaptureJudgedInOrder := by
  intro tag mask count prefill postfill hold auto s hs
  refine ⟨fun h => runCommand_refused tag 11 hs (if_pos h), fun hc => ⟨fun hn => ?_, fun hv =>
    ⟨fun hsum => ?_, fun hsum => ?_⟩, fun h a hcode => ?_⟩⟩
  · refine runCommand_refused tag 11 hs ((cmdSetCapture_judged hc).trans (if_pos ?_))
    rw [Bool.not_eq_true', Bool.eq_false_iff]
    exact fun hv => hn ((validCount_iff _).1 hv)
  · refine runCommand_refused tag 11 hs ((cmdSetCapture_judged hc).trans ((if_neg ?_).trans (if_pos hsum)))
    rw [(validCount_iff _).2 hv]
    decide
  · have hok := (cmdSetCapture_judged (mask := mask) (prefill := prefill) (postfill := postfill) (hold := hold)
      (auto := auto) hc).trans ((if_neg (by rw [(validCount_iff _).2 hv]; decide)).trans (if_neg (Nat.not_lt.2 hsum)))
    have hans := runCommand_accepted tag 11 hs hok
    simp only [CaptureSettings.words, word_toNat] at hans
    exact hans
  · refine runCommand_refused tag 11 hs ?_
    unfold cmdSetCapture
    rw [if_neg (not_not.2 hc)]
    obtain hcode | hcode := hcode
    · rw [switchOf_eq_none hcode]
    · rw [switchOf_eq_none hcode]
      cases switchOf h <;> rfl

end Sys2Proof.Machine
end

section
/-! Chapters 3, 4 and 8: what RUN leaves (R50, R72, R174). -/

namespace Sys2Proof.Machine

/-! ## Events of another block -/

theorem raise_events_ne {b c : Fin 7} (h : b ≠ c) (m : Word) (s : State) : (raise b m s).events[c] = s.events[c] := by
  show (s.events.set b _)[c] = s.events[c]
  simp [Fin.getElem_fin, Vector.getElem_set_ne, Fin.val_ne_iff.2 h]

theorem raiseIf_events_ne {b c : Fin 7} (h : b ≠ c) (w : Bool) (m : Word) (s : State) :
    (raiseIf w b m s).events[c] = s.events[c] := by
  cases w
  · rfl
  · exact raise_events_ne h m s

/-! ## Entering a stage and RUNNING -/

theorem enterStage_trigger (n : Nat) (s : State) : (enterStage n s).trigger = s.trigger.enterStage n := by
  simp [enterStage, setTrigger]

theorem enterStage_counters (t : Trigger) (n : Nat) (k : CounterId) :
    (t.enterStage n).counters[k] = (t.counters[k]).enter (t.stages.getD n Stage.cleared).actions[k] := by
  match k with
  | 0 => rfl
  | 1 => rfl
  | 2 => rfl
  | 3 => rfl

theorem enterRunning_trigger (s : State) :
    (enterRunning s).trigger = Trigger.enterStage { s.trigger.holdDividers with state := .running } 0 :=
  enterStage_trigger _ _

theorem enterStage_events_ne (n : Nat) (s : State) {c : Fin 7} (h : c ≠ blkTrigger) :
    (enterStage n s).events[c] = s.events[c] :=
  raiseIf_events_ne (Ne.symm h) _ _ _

theorem mapCounters_counters (t : Trigger) (f : Counter → Counter) (k : CounterId) :
    (t.mapCounters f).counters[k] = f t.counters[k] := by
  match k with
  | 0 => rfl
  | 1 => rfl
  | 2 => rfl
  | 3 => rfl

theorem fresh_counters (t : Trigger) (k : CounterId) : t.fresh.counters[k] = (t.counters[k]).zero :=
  mapCounters_counters t Counter.zero k

theorem zero_enter (c : Counter) (a : Action) : (c.zero.enter a).value = 0 ∧ (c.zero.enter a).matched = false := by
  cases a <;> exact ⟨rfl, rfl⟩

/-- The sequencer as RUN and the re-arm put it into RUNNING: stage 0, nothing counted, latched or forced (R72, R90). -/
theorem enterRunning_fresh {s : State} {t : Trigger} (hf : t.force = false) (hl : t.latches = Vector.replicate 4 none)
    (hc : ∀ k : CounterId, ∃ c : Counter, t.counters[k] = c.zero) :
    let u := (enterRunning (setTrigger t s)).trigger
    u.state = .running ∧ u.stage = 0 ∧ u.force = false ∧ (∀ n : Fin 4, u.latches[n] = none) ∧
      ∀ k : CounterId, (u.counters[k]).value = 0 ∧ (u.counters[k]).matched = false := by
  rw [enterRunning_trigger]
  refine ⟨rfl, rfl, hf, fun n => ?_, fun k => ?_⟩
  · show t.latches[n] = none
    rw [hl]
    exact Vector.getElem_replicate _
  · rw [enterStage_counters]
    show ((t.counters[k]).enter _).value = 0 ∧ ((t.counters[k]).enter _).matched = false
    obtain ⟨c, hc⟩ := hc k
    rw [hc]
    exact zero_enter c _

theorem startSequencer_waits {s : State} {a : Word} (ha : s.trigger.armTime = some a) (hlt : s.time.seconds < a) :
    startSequencer s = setTrigger { ({ s.trigger.fresh with stage := 0 } : Trigger).holdDividers with state := .waitArm } s := by
  unfold startSequencer
  dsimp only
  split
  · next b hb =>
    cases (hb.symm.trans ha)
    exact if_pos hlt
  · next hb => cases (hb.symm.trans ha)

theorem startSequencer_runs {s : State} (h : ∀ a, s.trigger.armTime = some a → a ≤ s.time.seconds) :
    startSequencer s = enterRunning (setTrigger { s.trigger.fresh with stage := 0 } s) := by
  unfold startSequencer
  dsimp only
  split
  · next b hb => exact if_neg fun hlt => absurd (h b hb) (BitVec.not_le.2 hlt)
  · rfl

theorem startSequencer_events_ne (s : State) {c : Fin 7} (h : c ≠ blkTrigger) :
    (startSequencer s).events[c] = s.events[c] := by
  unfold startSequencer
  dsimp only
  split
  · split
    · rfl
    · exact enterStage_events_ne _ _ h
  · exact enterStage_events_ne _ _ h

/-! ## RUN and the capture store -/

/-- What RUN hands to the sequencer when no lane takes part: segment 0 fills in the new layout (R50). -/
def layoutStarted (s : State) : State :=
  let s1 := beginSegment 0 0 (setTime { s.time with sampling := true, fresh := true, modeInForce := s.time.mode }
    (setTrigger (s.trigger.primed s.time.last) (newLayout s)))
  setCapture { s1.capture with ctl := .capturing 0 } s1

theorem captureStarted_off {s : State} (hoff : allLanesOff s) : captureStarted s = startSequencer (layoutStarted s) := by
  unfold captureStarted
  dsimp only
  rw [startSampling_off (s := s) (t := newLayout s) hoff rfl]
  rfl

/-- Segment 0 as RUN starts it. -/
def runSegment (s : State) : Segment :=
  { Segment.empty s.capture.stored.count with
    state := .filling, wallStart := s.time.seconds, mask := s.capture.stored.mask, mode := s.time.mode
    divider := s.time.divider }

theorem layoutStarted_segs {s : State} (h : 0 < s.capture.stored.count) :
    (layoutStarted s).capture.segs =
      (List.replicate s.capture.stored.count (Segment.empty s.capture.stored.count)).set 0 (runSegment s) := by
  have hseg : segAt (setTime { s.time with sampling := true, fresh := true, modeInForce := s.time.mode }
      (setTrigger (s.trigger.primed s.time.last) (newLayout s))) 0 = Segment.empty s.capture.stored.count := by
    show (List.replicate s.capture.stored.count (Segment.empty s.capture.stored.count)).getD 0 _ = _
    rw [List.getD_eq_getElem _ _ (by simpa using h), List.getElem_replicate]
  show List.set _ 0 _ = _
  rw [hseg]
  rfl

theorem segAt_layoutStarted {s t : State} (h : 0 < s.capture.stored.count)
    (ht : t.capture.segs = (layoutStarted s).capture.segs) : segAt t 0 = runSegment s := by
  rw [segAt, ht, layoutStarted_segs h, List.getD_eq_getElem _ _ (by simpa using h), List.getElem_set_self]

theorem segAt_layoutStarted_ne {s t : State} (h : 0 < s.capture.stored.count)
    (ht : t.capture.segs = (layoutStarted s).capture.segs) {i : Nat} (h0 : 0 < i) (hi : i < s.capture.stored.count) :
    segAt t i = Segment.empty s.capture.stored.count := by
  rw [segAt, ht, layoutStarted_segs h, List.getD_eq_getElem _ _ (by simpa using hi),
    List.getElem_set_ne (Nat.ne_of_lt h0), List.getElem_replicate]

/-! ## RUN and the view engine -/

/-- The view engine gives up its pass, its ready mark and its pending request (R174). -/
def viewCleared (s : State) : State := setView { s.view with pass := none, ready := false, pending := none } s

/-- What RUN makes of a measurement: a running one waits with its result marked OVERTAKEN (R177). -/
def Measurement.ended : Measurement → Measurement
  | .running m => .waiting m.tag { m.result with overtaken := true }
  | .none => .none
  | .waiting tag r => .waiting tag r

theorem endMeasure_cleared (s : State) :
    endMeasure (viewCleared s) = { s with
      view := { s.view with pass := none, ready := false, pending := none, meas := s.view.meas.ended }
      events := if s.view.measuring then s.events.set blkView (s.events[blkView].raise evMeasureDone) else s.events } := by
  unfold endMeasure
  split
  · next m hm =>
    have hm : s.view.meas = .running m := hm
    rw [hm, View.measuring, hm]
    rfl
  · next hm =>
    have hm : s.view.meas = .none := hm
    simp [hm, View.measuring, viewCleared, setView, Measurement.ended]
  · next tag r hm =>
    have hm : s.view.meas = .waiting tag r := hm
    simp [hm, View.measuring, viewCleared, setView, Measurement.ended]

theorem Measurement.ended_waits (s : State) (v : View) (h : v.meas = s.view.meas.ended) : v.measuring = false := by
  unfold View.measuring
  rw [h]
  cases s.view.meas <;> rfl

/-- The viewport's segment in the new layout. -/
def runViewSeg (s : State) : Nat := if s.view.seg < s.capture.layout then s.view.seg else 0

theorem viewAtRun_requested (s : State) :
    viewRequested ⟨runViewSeg s, s.view.t0, s.view.q, s.view.roll, s.view.cursorA, s.view.cursorB⟩
      (endMeasure (viewCleared s)) (viewAtRun s) := by
  have hreq := viewRequest_requested (runViewSeg s) s.view.t0 s.view.q s.view.roll s.view.cursorA s.view.cursorB
    (endMeasure (viewCleared s))
  have hrun : viewAtRun s = viewRequest (setView { (endMeasure (viewCleared s)).view with
      seg := runViewSeg s, t0 := s.view.t0, q := s.view.q, roll := s.view.roll
      cursorA := s.view.cursorA, cursorB := s.view.cursorB } (endMeasure (viewCleared s))) := by
    unfold viewAtRun
    change viewRequest (setView { (endMeasure (viewCleared s)).view with
      seg := if (endMeasure (viewCleared s)).view.seg < (endMeasure (viewCleared s)).capture.layout
        then (endMeasure (viewCleared s)).view.seg else 0 } (endMeasure (viewCleared s))) = _
    rw [endMeasure_cleared]
    rfl
  rw [hrun]
  exact hreq

theorem someLaneReplays_iff (s : State) :
    someLaneReplays s = true ↔ ∃ l : LaneId, (s.lanes[l]).state ≠ .off ∧ (s.lanes[l]).isReplay = true := by
  rw [someLaneReplays, List.any_eq_true]
  constructor
  · rintro ⟨ln, hmem, hrep⟩
    obtain ⟨k, hk, rfl⟩ := List.getElem_of_mem hmem
    rw [Vector.length_toList] at hk
    exact ⟨⟨k, hk⟩, by simpa [Lane.replays] using hrep⟩
  · rintro ⟨l, hon, hrep⟩
    exact ⟨s.lanes[l], by simp, by simpa [Lane.replays] using ⟨hon, hrep⟩⟩

theorem someLaneReplays_off {s : State} (hoff : allLanesOff s) : ¬ someLaneReplays s = true := fun h => by
  obtain ⟨l, hon, -⟩ := (someLaneReplays_iff s).1 h
  exact hon (hoff l)

theorem cmdRun_taken {s : State} (hc : s.capture.ctl = .idle) (hoff : allLanesOff s) (hr : s.capture.readout = none)
    (hf : s.rpath.readout = none) : cmdRun s = accept [] (viewAtRun (startSequencer (layoutStarted s))) := by
  unfold cmdRun
  rw [if_neg (not_not_intro hc), if_neg (someLaneReplays_off hoff),
    if_neg (by simp [hr, hf]), startCapture_eq, captureStarted_off hoff]

end Sys2Proof.Machine
end

section
/-! Chapter 3: RUN, MONITOR and STOP (R50, R51, R56), and records that are lost (R45, R46). -/

namespace Sys2Proof.Machine

/-! ## RUN -/

/-- What the view engine holds after RUN, by the segment of its viewport (R174). -/
theorem viewAtRun_view (s : State) :
    let t := viewAtRun s
    t.view.seg = runViewSeg s ∧ t.view.t0 = s.view.t0 ∧ t.view.q = s.view.q ∧ t.view.roll = s.view.roll ∧
    t.view.cursorA = s.view.cursorA ∧ t.view.cursorB = s.view.cursorB ∧ t.view.front = s.view.front ∧
    t.view.columns = s.view.columns ∧ t.view.passCount = s.view.passCount ∧ t.view.pending = none ∧
    t.view.ready = false ∧
    ((segAt s (runViewSeg s)).state = .empty → t.view.pass = none) ∧
    ((segAt s (runViewSeg s)).state ≠ .empty → ∃ p : Pass, t.view.pass = some p ∧ p.snap = t.view.snapshot ∧
      p.rows = s.panel.rowMap ∧ p.col = 0 ∧ p.reader = .idle) ∧
    t.view.meas = s.view.meas.ended ∧
    t.events = (if s.view.measuring then s.events.set blkView (s.events[blkView].raise evMeasureDone) else s.events) := by
  obtain ⟨hsnap, hempty, hfull, hfront, hcount, hmeas, hcols, -, -, -, -, -, -, -, -, -, -, hev⟩ := viewAtRun_requested s
  rw [endMeasure_cleared] at hempty hfull hfront hcount hmeas hcols hev
  have hwait := Measurement.ended_waits s { s.view with pass := none, ready := false, pending := none, meas := s.view.meas.ended } rfl
  have hfield : ∀ {α : Type} (f : Snapshot → α), f (viewAtRun s).view.snapshot =
      f ⟨runViewSeg s, s.view.t0, s.view.q, s.view.roll, s.view.cursorA, s.view.cursorB⟩ := fun f => congrArg f hsnap
  refine ⟨hfield Snapshot.seg, hfield Snapshot.t0, hfield Snapshot.q, hfield Snapshot.roll, hfield Snapshot.cursorA,
    hfield Snapshot.cursorB, hfront, hcols, hcount, ?_, ?_, fun he => (hempty he).2.1, fun he => ?_, hmeas, hev⟩
  · by_cases he : (segAt s (runViewSeg s)).state = .empty
    · exact (hempty he).1
    · exact ((hfull he).2 rfl hwait).1
  · by_cases he : (segAt s (runViewSeg s)).state = .empty
    · exact (hempty he).2.2.1
    · exact ((hfull he).2 rfl hwait).2.1
  · exact ⟨_, ((hfull he).2 rfl hwait).2.2.2, hsnap.symm, rfl, rfl, rfl⟩

/-- The sequencer after RUN (R72): waiting below a present arm time, else running. -/
theorem startSequencer_at_run (s : State) :
    let t := (startSequencer (layoutStarted s)).trigger
    (∀ a, s.trigger.armTime = some a → s.time.seconds < a →
      t.state = .waitArm ∧ ∀ k : CounterId, (t.counters[k]).value = 0 ∧ (t.counters[k]).running = false) ∧
    ((∀ a, s.trigger.armTime = some a → a ≤ s.time.seconds) →
      t.state = .running ∧ t.stage = 0 ∧ t.force = false ∧ (∀ n : Fin 4, t.latches[n] = none) ∧
      ∀ k : CounterId, (t.counters[k]).value = 0 ∧ (t.counters[k]).matched = false) := by
  have hfresh := fresh_counters (layoutStarted s).trigger
  refine ⟨fun a ha hlt => ?_, fun h => ?_⟩
  · rw [startSequencer_waits (s := layoutStarted s) ha hlt]
    refine ⟨rfl, fun k => ?_⟩
    show ((layoutStarted s).trigger.fresh.counters[k]).value = 0 ∧ ((layoutStarted s).trigger.fresh.counters[k]).running = false
    rw [hfresh k]
    exact ⟨rfl, rfl⟩
  · rw [startSequencer_runs (s := layoutStarted s) h]
    exact enterRunning_fresh rfl rfl fun k => ⟨_, hfresh k⟩

/-- Segment 0 fills and every other segment of the new layout is EMPTY, so the viewport's segment is EMPTY unless it is 0. -/
theorem runViewSeg_state {s u : State} (hpos : 0 < s.capture.stored.count) (hu : u.capture = (layoutStarted s).capture) :
    (runViewSeg u = 0 → (segAt u (runViewSeg u)).state ≠ .empty) ∧
    (runViewSeg u ≠ 0 → (segAt u (runViewSeg u)).state = .empty) := by
  have hsegs := congrArg Capture.segs hu
  refine ⟨fun h => ?_, fun h => ?_⟩
  · rw [h, segAt_layoutStarted hpos hsegs]
    nofun
  · have hlt : runViewSeg u < s.capture.stored.count := by
      rw [show s.capture.stored.count = u.capture.layout from (congrArg Capture.layout hu).symm]
      unfold runViewSeg at h ⊢
      split
      · assumption
      · rw [if_neg ‹_›] at h
        exact absurd rfl h
    rw [segAt_layoutStarted_ne hpos hsegs (Nat.pos_of_ne_zero h) hlt]
    rfl

/-- Settles O22: the refusals in order, then the layout, the sequencer and the view engine one after the other. -/
theorem runStartsACapture : Obligations.RunStartsACapture := by
  intro tag s hs
  refine ⟨fun hc => runCommand_refused tag 12 hs (if_pos hc), fun hc => ⟨fun hl => ?_, fun hoff => ⟨fun hr => ?_, ?_⟩⟩⟩
  · refine runCommand_refused tag 12 hs ?_
    unfold cmdRun
    rw [if_neg (not_not_intro hc), if_pos ((someLaneReplays_iff s).2 hl)]
  · refine runCommand_refused tag 12 hs ?_
    unfold cmdRun
    rw [if_neg (not_not_intro hc), if_neg (someLaneReplays_off hoff), if_pos hr]
  intro hr hf hpos
  refine ⟨_, runCommand_accepted tag 12 hs (cmdRun_taken hc hoff hr hf), ?_⟩
  have hseq := startSequencer_at_run s
  have hev := startSequencer_events_ne (layoutStarted s) (c := blkView) (by decide)
  obtain ⟨-, -, hpods, htime, hcap, htab, hlanes, hpath, hview, hpanel, hup⟩ := startSequencer_frame (layoutStarted s)
  generalize startSequencer (layoutStarted s) = u at *
  have hvseg := runViewSeg_state hpos hcap
  have hseg : runViewSeg u = if s.view.seg < s.capture.stored.count then s.view.seg else 0 := by
    unfold runViewSeg
    rw [hview, hcap]
    rfl
  obtain ⟨vseg, vt0, vq, vroll, va, vb, vfront, vcols, vcount, vpend, vready, vempty, vfull, vmeas, vev⟩ := viewAtRun_view u
  obtain ⟨-, -, tpods, ttime, tcap, ttrig, ttab, tlanes, tpath, tpanel, tup⟩ := viewAtRun_frame u
  rw [hview] at vt0 vq vroll va vb vfront vcols vcount vmeas
  rw [hpanel] at vfull
  generalize viewAtRun u = t at *
  have htc : t.capture = (layoutStarted s).capture := tcap.trans hcap
  have htt : t.time = (layoutStarted s).time := ttime.trans htime
  have htp : t.rpath = (layoutStarted s).rpath := tpath.trans hpath
  have hsegs := congrArg Capture.segs htc
  refine ⟨congrArg Capture.ctl htc, congrArg Capture.inForce htc, (congrArg Capture.stored htc).trans rfl, congrArg Capture.layout htc,
    ?_, segAt_layoutStarted hpos hsegs, fun i => segAt_layoutStarted_ne hpos hsegs, congrArg RecordPath.logs htp,
    congrArg RecordPath.logQueue htp, congrArg Timebase.sampling htt, congrArg Timebase.fresh htt,
    congrArg Timebase.modeInForce htt, (congrArg Timebase.seconds htt).trans rfl, ?_, ?_, vseg.trans hseg, vt0, vq, vroll, va, vb,
    vfront, vcols, vcount, vpend, vready, fun h => vfull (hvseg.1 (vseg.symm.trans h)),
    fun h => vempty (hvseg.2 fun h0 => h (vseg.trans h0)), fun m hm => ?_, fun hm => ?_, tpods.trans hpods,
    ttab.trans htab, tlanes.trans hlanes, tpanel.trans hpanel, tup.trans hup, (congrArg Capture.dram htc).trans rfl⟩
  · rw [hsegs, layoutStarted_segs hpos]
    simp
  · exact fun a ha hlt => by rw [ttrig]; exact hseq.1 a ha hlt
  · exact fun h => by rw [ttrig]; exact hseq.2 h
  · have hrun : u.view.measuring = true := by rw [hview]; simp [View.measuring, layoutStarted, hm]
    refine ⟨vmeas.trans (congrArg Measurement.ended hm), ?_⟩
    rw [if_pos hrun] at vev
    show t.events[blkView] = _
    rw [vev, hev]
    exact Vector.getElem_set_self _
  · have hrun : ¬ u.view.measuring = true := by rw [hview]; exact Bool.eq_false_iff.1 hm
    refine ⟨vmeas.trans ?_, ?_⟩
    · show s.view.meas.ended = s.view.meas
      cases hmeas : s.view.meas with
      | running m => simp [View.measuring, hmeas] at hm
      | none => rfl
      | waiting => rfl
    · rw [if_neg hrun] at vev
      show t.events[blkView] = _
      rw [vev, hev]
      rfl

/-! ## MONITOR and STOP -/

theorem stopCapture_stopped {s : State} (h : s.capture.ctl = .idle ∨ s.capture.ctl = .closing) : stopCapture s = s := by
  unfold stopCapture
  dsimp only
  split
  · rfl
  · rfl
  · next hc => rw [(settleGaps_controller s).1] at hc; simp [hc] at h
  · next hc => rw [(settleGaps_controller s).1] at hc; simp [hc] at h

theorem timeLimitDue_stopped {s : State} (h : s.time.sampling = false) : timeLimitDue s = false :=
  Bool.eq_false_iff.2 fun hdue => by cases (h.symm.trans ((timeLimitDue_iff s).1 hdue).1)

theorem timeLimitDue_below {s : State} (h : s.time.tick ≠ some 281474976710655) : timeLimitDue s = false :=
  Bool.eq_false_iff.2 fun hdue => h ((timeLimitDue_iff s).1 hdue).2.2

theorem cmdStop_not_due {s : State} (h : timeLimitDue s = false) : cmdStop s = accept [s.capture.ctl.code] (stopCapture s) := by
  unfold cmdStop
  rw [settleTimeLimit_not_due h]

/-- Settles O23, by the controller's state. -/
theorem monitorAndStop : Obligations.MonitorAndStop := by
  intro tag i n s hs hoff
  refine ⟨fun hc => runCommand_refused tag 13 hs (if_pos hc), fun hc => ?_, fun hsamp hc => ?_, fun hc ht => ?_,
    fun hc hi ho hf ht hn => ?_⟩
  · have hstart := startSampling_off (t := setCapture { s.capture with ctl := .monitor } s) hoff rfl
    refine ⟨_, runCommand_accepted tag 13 hs (if_neg (not_not_intro hc)), ?_⟩
    rw [hstart]
    exact ⟨rfl, rfl, rfl, rfl, rfl, rfl, rfl, rfl, rfl, rfl, rfl, rfl, rfl⟩
  · refine runCommand_accepted tag 14 hs ?_
    rw [cmdStop_not_due (timeLimitDue_stopped hsamp), stopCapture_stopped hc]
  · refine runCommand_accepted tag 14 hs ?_
    rw [cmdStop_not_due (timeLimitDue_below ht), stopCapture_monitor hoff hc, hc]
    rfl
  · have hlimit : timeLimitDue s = false := timeLimitDue_below fun h => hn (Option.some.inj (ht.symm.trans h))
    have hrec : endRecord i s = ⟨.close, s.time.last.valid, n, s.time.last.levels &&& (segAt s i).mask, 0⟩ := by
      rw [endRecord, lastTickNow_of_tick hf ht]
    have hcmd : cmdStop s = accept [2] (endCapture i true s) := by
      rw [cmdStop_not_due hlimit, stopCapture_capturing hoff hc, hc]
      rfl
    have hend := endCapture_no_overrun true hoff hi ho
    refine ⟨_, runCommand_accepted tag 14 hs hcmd, ?_⟩
    rw [hend, hrec]
    exact ⟨rfl, rfl, rfl, rfl, segAt_of_set (s := s) rfl hi, fun j hj => segAt_of_set_ne (s := s) rfl rfl hj,
      rfl, rfl, rfl, rfl, rfl, rfl, rfl, rfl, rfl⟩

/-! ## Records lost -/

theorem segs_length_takeReference (i : Nat) (r : Record) (s : State) :
    (takeReference i r s).capture.segs.length = s.capture.segs.length := List.length_set

/-- A record that finds no room is lost; the segment's reference is taken from it all the same. -/
theorem loseRecord_after_reference {i : Nat} {r : Record} {s : State} {o : Overrun} (hi : i < s.capture.segs.length)
    (ho : o = match (segAt s i).overrun with
      | none => ⟨r.time, 1⟩
      | some o => ⟨o.first, o.lost + 1⟩) :
    segAt (loseRecord i r (takeReference i r s)) i = { segAt s i with
      produced := (segAt s i).produced + 1, lost := (segAt s i).lost + 1
      flags := { (segAt s i).flags with overrun := true }
      overrun := some o, refLevels := r.levels, refPods := r.pods } := by
  unfold loseRecord
  rw [show ∀ u : State, segAt (raise blkCapture evOverrun u) i = segAt u i from fun _ => rfl,
    segAt_modSeg i i _ _ (by rwa [segs_length_takeReference]), if_pos rfl, segAt_takeReference i i r s hi, if_pos rfl, ho]
  cases (segAt s i).overrun <;> rfl

/-- Settles O25, by whether an overrun is pending and whether there is room. -/
theorem lossAndOverrunOfRecords : Obligations.LossAndOverrunOfRecords := by
  intro i r post s hi
  refine ⟨fun ho hfull => ?_, fun o ho => ⟨fun hfull => ?_, fun hroom => ?_⟩⟩
  · have hlost : produce i r post s = loseRecord i r (takeReference i r s) := by
      rw [produce, ho]
      exact if_neg (Nat.not_lt.2 hfull)
    rw [hlost]
    exact ⟨rfl, rfl, loseRecord_after_reference hi (by rw [ho])⟩
  · have hlost : produce i r post s = loseRecord i r (takeReference i r s) := by
      rw [produce, ho]
      exact if_neg (Nat.not_le.2 hfull)
    rw [hlost]
    exact ⟨rfl, rfl, loseRecord_after_reference hi (by rw [ho])⟩
  · have hplaced : produce i r post s = enqueue i r post (placeOverrun i o r post (takeReference i r s)) := by
      rw [produce, ho]
      exact if_pos hroom
    have hlen : i < (takeReference i r s).capture.segs.length := by rwa [segs_length_takeReference]
    have hlen' : i < (enqueue i (overrunRecord o r) post (takeReference i r s)).capture.segs.length :=
      Nat.lt_of_lt_of_eq hlen List.length_set.symm
    have hlen'' : i < (placeOverrun i o r post (takeReference i r s)).capture.segs.length :=
      Nat.lt_of_lt_of_eq hlen' List.length_set.symm
    rw [hplaced]
    refine ⟨List.append_assoc .., rfl, ?_⟩
    rw [segAt_enqueue _ _ _ _ _ hlen'', if_pos rfl, placeOverrun, segAt_modSeg _ _ _ _ hlen', if_pos rfl,
      segAt_enqueue _ _ _ _ _ hlen, if_pos rfl, segAt_takeReference _ _ _ _ hi, if_pos rfl]

end Sys2Proof.Machine
end

section
/-! Chapter 3: post-fill completion (R54), and the records of a stamped sample (R40 to R43). -/

namespace Sys2Proof.Machine

/-! ## Post-fill completion -/

theorem postFillDue_iff {i : Nat} {s : State} (hc : s.capture.ctl = .capturing i) :
    postFillDue s = true ↔ (segAt s i).state = .postFill ∧ s.capture.inForce.postfill ≤ (segAt s i).postCount := by
  rw [postFillDue, currentSeg_eq_some.2 hc]
  simp

theorem settlePostFill_due {i : Nat} {s : State} (hc : s.capture.ctl = .capturing i) (h : postFillDue s = true) :
    settlePostFill s = completePostFill i s := by
  rw [settlePostFill, currentSeg_eq_some.2 hc]
  exact if_pos h

theorem settlePostFill_not_due {s : State} (h : postFillDue s = false) : settlePostFill s = s := by
  unfold settlePostFill
  split
  · rfl
  · rw [if_neg (Bool.eq_false_iff.1 h)]

/-- The segment after the one that completes, as auto-continue starts it (R54). -/
def nextSegment (s : State) (i n : Nat) : Segment :=
  { Segment.empty s.capture.layout with
    size := (segAt s (i + 1)).size, state := .filling, startTime := n + 1, wallStart := s.time.seconds
    mask := s.capture.inForce.mask, mode := s.time.modeInForce, divider := s.time.divider }

/-- Auto-continue, before the sequencer re-arms: segment `i` closed as DONE, the next one current and filling. -/
def continued (s : State) (i n : Nat) : State :=
  setCapture { s.capture with
    ctl := .capturing (i + 1), needStart := true
    queue := s.capture.queue ++ [⟨i, endRecord i s, false⟩]
    segs := (s.capture.segs.set i ((segAt s i).closedWith false (endRecord i s))).set (i + 1) (nextSegment s i n) } s

theorem completePostFill_continues {i n : Nat} {s : State} (hoff : allLanesOff s) (hi : i < s.capture.segs.length)
    (ho : (segAt s i).overrun = none) (ht : s.time.tick = some n) (hauto : s.capture.inForce.auto = true)
    (hnext : i + 1 < s.capture.layout) : completePostFill i s = rearm (continued s i n) := by
  have hsize : segAt (setCapture { s.capture with
      needStart := false
      queue := s.capture.queue ++ [⟨i, endRecord i s, false⟩]
      segs := s.capture.segs.set i ((segAt s i).closedWith false (endRecord i s)) } s) (i + 1) = segAt s (i + 1) :=
    segAt_of_set_ne rfl rfl (Nat.succ_ne_self i)
  unfold completePostFill
  dsimp only
  rw [settleGaps_off hoff rfl, if_pos ⟨hauto, hnext⟩, closeSegment_no_overrun false hi ho, ht, beginSegment, modSeg, hsize]
  rfl

theorem completePostFill_ends {i : Nat} {s : State} (hoff : allLanesOff s)
    (h : s.capture.inForce.auto = false ∨ s.capture.layout ≤ i + 1) : completePostFill i s = endCapture i false s := by
  unfold completePostFill
  dsimp only
  rw [settleGaps_off hoff rfl, if_neg]
  rintro ⟨hauto, hnext⟩
  exact h.elim (fun h => by cases (h.symm.trans hauto)) (Nat.not_le.2 hnext)

theorem rearm_trigger (s : State) :
    let u := (rearm s).trigger
    u.state = .running ∧ u.stage = 0 ∧ u.force = false ∧ (∀ n : Fin 4, u.latches[n] = none) ∧
      ∀ k : CounterId, (u.counters[k]).value = 0 ∧ (u.counters[k]).matched = false :=
  enterRunning_fresh rfl rfl fun k => ⟨_, fresh_counters s.trigger k⟩

theorem toIdle_values (t : Trigger) (k : CounterId) : (t.toIdle.counters[k]).value = (t.counters[k]).value :=
  (congrArg Counter.value (mapCounters_counters t.emptyField (fun c => { c with latch := false }) k)).trans rfl

/-- What both ways on from a completion share. -/
theorem completePostFill_closes {i n : Nat} {s : State} (hoff : allLanesOff s) (hi : i < s.capture.segs.length)
    (ho : (segAt s i).overrun = none) (ht : s.time.tick = some n) :
    let t := completePostFill i s
    t.capture.queue = s.capture.queue ++ [⟨i, endRecord i s, false⟩] ∧
    segAt t i = (segAt s i).closedWith false (endRecord i s) ∧
    t.capture.dram = s.capture.dram ∧ t.pods = s.pods ∧ t.tables = s.tables ∧ t.lanes = s.lanes ∧
    t.rpath = s.rpath ∧ t.view = s.view ∧ t.panel = s.panel ∧ t.uplink = s.uplink := by
  by_cases h : s.capture.inForce.auto = true ∧ i + 1 < s.capture.layout
  · rw [completePostFill_continues hoff hi ho ht h.1 h.2]
    obtain ⟨-, -, hpods, -, hcap, htab, hlanes, hpath, hview, hpanel, hup⟩ := rearm_frame (continued s i n)
    refine ⟨congrArg Capture.queue hcap, ?_, (congrArg Capture.dram hcap).trans rfl, hpods, htab, hlanes, hpath, hview, hpanel, hup⟩
    have hlen : i < (s.capture.segs.set i ((segAt s i).closedWith false (endRecord i s))).length := by simpa using hi
    rw [segAt, hcap]
    show List.getD (List.set _ _ _) _ _ = _
    rw [List.getD_eq_getElem _ _ (by simpa using hi), List.getElem_set_ne (Nat.succ_ne_self i), List.getElem_set_self]
  · have h : s.capture.inForce.auto = false ∨ s.capture.layout ≤ i + 1 := by
      rw [not_and_or] at h
      exact h.imp Bool.eq_false_iff.2 Nat.le_of_not_lt
    rw [completePostFill_ends hoff h, endCapture_no_overrun false hoff hi ho]
    exact ⟨rfl, segAt_of_set (s := s) rfl hi, rfl, rfl, rfl, rfl, rfl, rfl, rfl, rfl⟩

/-- Settles O26: what closing leaves, then what follows it by the auto-continue setting. -/
theorem postFillCompletionClosesAndContinues : Obligations.PostFillCompletionClosesAndContinues := by
  intro i n s hoff hc hi ho hf ht
  have hrec : endRecord i s = ⟨.close, s.time.last.valid, n, s.time.last.levels &&& (segAt s i).mask, 0⟩ := by
    rw [endRecord, lastTickNow_of_tick hf ht]
  refine ⟨fun hp hle => ⟨_, congrArg Host.Outcome.next (settlePostFill_due hc ((postFillDue_iff hc).2 ⟨hp, hle⟩)), ?_⟩,
    fun h => congrArg Host.Outcome.next (settlePostFill_not_due (Bool.eq_false_iff.2 fun hdue => ?_))⟩
  · obtain ⟨hq, hseg, hdram, hpods, htab, hlanes, hpath, hview, hpanel, hup⟩ := completePostFill_closes hoff hi ho ht
    rw [hrec] at hq hseg
    refine ⟨hq, hseg, hdram, hpods, htab, hlanes, hpath, hview, hpanel, hup, fun hauto hnext hlen => ?_, fun h => ?_⟩
    · obtain ⟨-, -, -, htime, hcap, -⟩ := rearm_frame (continued s i n)
      obtain ⟨hrun, hstage, hforce, -, hcount⟩ := rearm_trigger (continued s i n)
      rw [completePostFill_continues hoff hi ho ht hauto hnext]
      refine ⟨congrArg Capture.ctl hcap, congrArg Capture.needStart hcap, htime, ?_, hrun, hstage, hforce, hcount⟩
      rw [segAt, hcap]
      show List.getD (List.set _ _ _) _ _ = _
      rw [List.getD_eq_getElem _ _ (by simpa using hlen), List.getElem_set_self]
      rfl
    · rw [completePostFill_ends hoff h, endCapture_no_overrun false hoff hi ho]
      exact ⟨rfl, rfl, rfl, rfl, fun k => toIdle_values s.trigger k, rfl⟩
  · obtain ⟨hp, hle⟩ := (postFillDue_iff hc).1 hdue
    exact h.elim (fun h => h hp) (Nat.not_lt.2 hle)

end Sys2Proof.Machine
end

section
/-! Chapter 3: the records of a stamped sample (R40 to R43). -/

namespace Sys2Proof.Machine

/-! ## Records entering the queue -/

/-- `t` is `s` after the records `rs` have entered the writer queue, which left segment `i` as `d`. -/
structure Captured (i : Nat) (rs : List Queued) (d : Segment) (s t : State) : Prop where
  rest : ∃ segs, t = setCapture { s.capture with
    needStart := false, queue := s.capture.queue ++ rs, segs := segs } s
  here : segAt t i = d
  others : ∀ j, j ≠ i → segAt t j = segAt s j
  length : t.capture.segs.length = s.capture.segs.length

variable {i : Nat} {rs : List Queued} {d : Segment} {s t : State}

theorem Captured.nothing (h : s.capture.needStart = false) : Captured i [] (segAt s i) s s where
  rest := ⟨s.capture.segs, by rw [← h, List.append_nil]; rfl⟩
  here := rfl
  others := fun _ _ => rfl
  length := rfl

/-- The reference to a START record given up, as its production begins. -/
theorem Captured.started : Captured i [] (segAt s i) s (setCapture { s.capture with needStart := false } s) where
  rest := ⟨s.capture.segs, by rw [List.append_nil]⟩
  here := rfl
  others := fun _ _ => rfl
  length := rfl

theorem Captured.modSeg (h : Captured i rs d s t) (hi : i < s.capture.segs.length) (f : Segment → Segment) :
    Captured i rs (f d) s (modSeg i f t) where
  rest := by
    obtain ⟨segs, rfl⟩ := h.rest
    exact ⟨_, rfl⟩
  here := by rw [segAt_of_set rfl (h.length ▸ hi), h.here]
  others := fun j hj => (segAt_of_set_ne (s := t) (t := Machine.modSeg i f t) rfl rfl hj).trans (h.others j hj)
  length := by rw [← h.length]; exact List.length_set

theorem Captured.enqueue (h : Captured i rs d s t) (hi : i < s.capture.segs.length) (r : Record) (post : Bool) :
    Captured i (rs ++ [⟨i, r, post⟩]) { d with produced := d.produced + 1 } s (enqueue i r post t) where
  rest := by
    obtain ⟨segs, rfl⟩ := h.rest
    rw [← List.append_assoc]
    exact ⟨_, rfl⟩
  here := by rw [segAt_enqueue _ _ _ _ _ (h.length ▸ hi), if_pos rfl, h.here]
  others := fun j hj => by rw [segAt_enqueue _ _ _ _ _ (h.length ▸ hi), if_neg hj, h.others j hj]
  length := by rw [← h.length]; exact List.length_set

theorem Captured.queue (h : Captured i rs d s t) : t.capture.queue = s.capture.queue ++ rs := by
  obtain ⟨segs, rfl⟩ := h.rest
  rfl

/-- A record that finds room is queued and becomes the reference. -/
theorem Captured.produce (h : Captured i rs d s t) (hi : i < s.capture.segs.length) (ho : d.overrun = none)
    (hroom : s.capture.queue.length + rs.length < 4096) (r : Record) (post : Bool) :
    Captured i (rs ++ [⟨i, r, post⟩])
      { d with produced := d.produced + 1, refLevels := r.levels, refPods := r.pods } s (produce i r post t) := by
  have hlt : t.capture.queue.length < 4096 := by rw [h.queue, List.length_append]; exact hroom
  have heq : Machine.produce i r post t = Machine.enqueue i r post (takeReference i r t) := by
    rw [Machine.produce, h.here, ho]
    exact if_pos hlt
  rw [heq]
  exact (h.modSeg hi fun d => { d with refLevels := r.levels, refPods := r.pods }).enqueue hi r post

/-! ## The records of one sample -/

variable {now : Nat} {sm : Sample}

theorem captured_start (hi : i < s.capture.segs.length) :
    Captured i [⟨i, sampleRecord .start (segAt s i) now sm, false⟩]
      { segAt s i with
        produced := (segAt s i).produced + 1, refLevels := sm.levels &&& (segAt s i).mask, refPods := sm.valid } s
      (produceStart i now sm s) :=
  (Captured.started.enqueue hi (sampleRecord .start (segAt s i) now sm) false).modSeg hi fun d =>
    { d with refLevels := sm.levels &&& (segAt s i).mask, refPods := sm.valid }

/-- The segment with POD_FAULT set where a bit of the mask has fallen (R43). -/
def Segment.podChange (d : Segment) (valid : BitVec 4) : Segment :=
  { d with flags := { d.flags with podFault := d.flags.podFault || (d.refPods &&& ~~~valid) != 0 } }

theorem captured_pod (hs : s.capture.needStart = false) (hi : i < s.capture.segs.length) (ho : (segAt s i).overrun = none)
    (hroom : s.capture.queue.length < 4096) (post : Bool) :
    Captured i [⟨i, sampleRecord .pod (segAt s i) now sm, post⟩]
      { (segAt s i).podChange sm.valid with
        produced := (segAt s i).produced + 1, refLevels := sm.levels &&& (segAt s i).mask, refPods := sm.valid } s
      (producePod i now sm post s) :=
  ((Captured.nothing hs).modSeg hi fun d =>
    { d with flags := { d.flags with podFault := d.flags.podFault || (segAt s i).refPods &&& ~~~sm.valid != 0 } }).produce
      hi ho hroom _ post

theorem Captured.change (h : Captured i rs d s t) (hi : i < s.capture.segs.length) (ho : d.overrun = none)
    (hroom : s.capture.queue.length + rs.length < 4096) (post : Bool) :
    Captured i (rs ++ [⟨i, sampleRecord .change d now sm, post⟩])
      { d with produced := d.produced + 1, refLevels := sm.levels &&& d.mask, refPods := sm.valid } s
      (produceChange i now sm post t) := by
  unfold produceChange
  rw [h.here]
  exact h.produce hi ho hroom _ post

theorem sampleRecord_eq (k : RecordKind) (m : Mode) (p : Pods) (d : Segment) (now : Nat) :
    sampleRecord k d now (streamSample m p) =
      ⟨k, (streamSample m p).valid, now, (streamSample m p).levels &&& d.mask,
        if m = .state then 0 else (streamSample m p).glitch &&& d.mask⟩ := by
  cases m
  · rfl
  · simp [sampleRecord, streamSample]

/-- The segment after a record of kind CHANGE or START of the sample (R40). -/
def Segment.counted (d : Segment) (sm : Sample) (n : Nat) : Segment :=
  { d with produced := d.produced + n, refLevels := sm.levels &&& d.mask, refPods := sm.valid }

/-- A sample is a CHANGE in timing mode when an enabled level differs from the reference or an enabled channel has a glitch
(R41). -/
def Segment.differs (d : Segment) (sm : Sample) : Bool :=
  decide (sm.levels &&& d.mask ≠ d.refLevels ∨ sm.glitch &&& d.mask ≠ 0)

/-- The kinds of the records a stamped sample produces, in order, and the segment after them (R40 to R43). -/
def recordsOf (d : Segment) (sm : Sample) (ev need : Bool) : List RecordKind × Segment :=
  if need then
    if d.mode = .state ∧ ev = true then ([.start, .change], d.counted sm 2) else ([.start], d.counted sm 1)
  else if sm.valid ≠ d.refPods then
    if d.mode = .state ∧ ev = true then ([.pod, .change], (d.podChange sm.valid).counted sm 2)
    else ([.pod], (d.podChange sm.valid).counted sm 1)
  else if (d.mode = .timing ∧ d.differs sm = true) ∨ (d.mode = .state ∧ ev = true) then ([.change], d.counted sm 1)
  else ([], d)

theorem recordsOf_later (d : Segment) (sm : Sample) (ev : Bool) :
    recordsOf d sm ev false =
      if sm.valid ≠ d.refPods then
        if d.mode = .state ∧ ev = true then ([.pod, .change], (d.podChange sm.valid).counted sm 2)
        else ([.pod], (d.podChange sm.valid).counted sm 1)
      else if (d.mode = .timing ∧ d.differs sm = true) ∨ (d.mode = .state ∧ ev = true) then ([.change], d.counted sm 1)
      else ([], d) :=
  if_neg Bool.false_ne_true

/-- A record of the sample as it is queued; a START record never carries the post-trigger mark. -/
def queuedRecord (i now : Nat) (sm : Sample) (d : Segment) (post : Bool) (k : RecordKind) : Queued :=
  ⟨i, sampleRecord k d now sm, post⟩

theorem captureSample_captured {ev : Bool} (hc : s.capture.ctl = .capturing i) (hi : i < s.capture.segs.length)
    (ho : (segAt s i).overrun = none) (hroom : s.capture.queue.length + 2 ≤ 4096) {post : Bool}
    (hpost : post = if s.capture.needStart then false else decide ((segAt s i).state = .postFill)) :
    let r := recordsOf (segAt s i) sm ev s.capture.needStart
    Captured i (r.1.map (queuedRecord i now sm (segAt s i) post)) r.2 s (captureSample now sm ev s) := by
  have hq : s.capture.queue.length < 4096 := by omega
  dsimp only
  unfold captureSample
  rw [currentSeg_eq_some.2 hc]
  dsimp only
  cases hneed : s.capture.needStart
  · rw [hneed, if_neg Bool.false_ne_true] at hpost
    rw [if_neg Bool.false_ne_true, recordsOf, if_neg Bool.false_ne_true, produceSample, ← hpost]
    have hpod := captured_pod (now := now) (sm := sm) hneed hi ho hq post
    have hchange := (Captured.nothing hneed).change (now := now) (sm := sm) hi ho hq post
    by_cases hv : sm.valid = (segAt s i).refPods
    · rw [if_neg (not_not_intro hv), decide_eq_false (not_not_intro hv), if_neg Bool.false_ne_true,
        if_neg Bool.false_ne_true]
      cases hm : (segAt s i).mode
      · by_cases hd : (segAt s i).differs sm = true
        · rw [if_pos (.inl ⟨rfl, hd⟩), if_pos (of_decide_eq_true hd)]
          exact hchange
        · rw [if_neg (by simp [hd]), if_neg fun h => hd (decide_eq_true h)]
          exact Captured.nothing hneed
      · cases ev
        · rw [if_neg (by simp), if_neg Bool.false_ne_true]
          exact Captured.nothing hneed
        · rw [if_pos (.inr ⟨rfl, rfl⟩), if_pos rfl]
          exact hchange
    · rw [if_pos hv, decide_eq_true hv, if_pos rfl, if_pos rfl]
      cases hm : (segAt s i).mode
      · rw [if_neg (by simp)]
        exact hpod
      · cases ev
        · rw [if_neg (by simp), if_neg Bool.false_ne_true]
          exact hpod
        · rw [if_pos ⟨rfl, rfl⟩, if_pos rfl]
          exact hpod.change hi ho hroom post
  · rw [hneed, if_pos rfl] at hpost
    have hstart := captured_start (now := now) (sm := sm) hi
    subst hpost
    rw [if_pos rfl, recordsOf, if_pos rfl]
    by_cases h : (segAt s i).mode = .state ∧ ev = true
    · rw [if_pos h, if_pos (by simp [h])]
      exact hstart.change hi ho hroom false
    · rw [if_neg h, if_neg (by simpa [and_comm] using h)]
      exact hstart

/-- Producing records keeps what closes a segment. -/
theorem recordsOf_keeps (d : Segment) (sm : Sample) (ev need : Bool) :
    (recordsOf d sm ev need).2.state = d.state ∧ (recordsOf d sm ev need).2.postCount = d.postCount := by
  unfold recordsOf
  split
  · split <;> exact ⟨rfl, rfl⟩
  · split
    · split <;> exact ⟨rfl, rfl⟩
    · split <;> exact ⟨rfl, rfl⟩

/-! ## What follows the records in a tick -/

/-- A condition with no terms lets no transition be taken. -/
theorem judge_no_terms (v : TermValues) (tick : Nat) {u : State}
    (hadv : (u.trigger.stages.getD u.trigger.stage Stage.cleared).advance.terms = [])
    (halt : (u.trigger.stages.getD u.trigger.stage Stage.cleared).alternate = none) : judge v tick u = u := by
  have hno : ∀ w, mayTake v (u.trigger.stages.getD u.trigger.stage Stage.cleared).advance w u = false := fun w => by
    rw [mayTake, (conditionTrue_spec _ v _).1 hadv, Bool.false_and]
  rw [judge, hno, if_neg Bool.false_ne_true, halt]

/-- A sample at which no transition can be taken changes the sequencer alone. -/
theorem sequencerSample_no_transition (sm : Sample) (ev : Bool) (tick : Nat) {u : State}
    (h : (u.trigger.state = .running ∧ u.trigger.force = false ∧
        (u.trigger.stages.getD u.trigger.stage Stage.cleared).advance.terms = [] ∧
        (u.trigger.stages.getD u.trigger.stage Stage.cleared).alternate = none) ∨
      u.trigger.state = .triggered) :
    ∃ tr, sequencerSample sm ev tick u = setTrigger tr u := by
  obtain ⟨hrun, hforce, hadv, halt⟩ | htrig := h
  · rw [sequencerSample, hrun]
    cases ev
    · exact ⟨_, rfl⟩
    · refine ⟨{ (u.trigger.tickSteps true (u.trigger.termValues sm)).emptyLatches with
        prev := sm, prevTerms := u.trigger.termValues sm }, ?_⟩
      show keepPrevious sm _ (judgeSample _ tick (setTrigger (u.trigger.tickSteps true _) u)) = _
      rw [judgeSample, if_neg (by exact Bool.eq_false_iff.1 hforce),
        judge_no_terms _ tick (by exact hadv) (by exact halt)]
      rfl
  · rw [sequencerSample, htrig]
    cases ev
    · exact ⟨u.trigger, rfl⟩
    · exact ⟨_, rfl⟩

/-- With no completion and no transition due, a stamped sample changes only what the capture store makes of it, and the
sequencer. -/
theorem stampedSample_records (tick : Nat) (sm : Sample) (ev : Bool) {u v : State} (hoff : allLanesOff s)
    (hv : v = captureSample tick sm ev u) (hl : v.lanes = s.lanes) (hdue : postFillDue v = false)
    (hseq : ∃ tr, sequencerSample sm ev tick v = setTrigger tr v) :
    ∃ tr, stampedSample tick sm ev u = setTrigger tr v := by
  obtain ⟨tr, hseq⟩ := hseq
  have hsettle : settleAtTrigger (setTrigger tr v) = setTrigger tr v := by
    rw [settleAtTrigger, settlePostFill_not_due (by exact hdue), ite_self]
  refine ⟨tr, ?_⟩
  unfold stampedSample
  dsimp only
  rw [← hv, hseq, hsettle, ite_self, liveTick_off hoff (by exact hl), hsettle]

theorem settleBeforeSample_not_due (hoff : allLanesOff s) (hpost : postFillDue s = false) (hlimit : timeLimitDue s = false) :
    settleBeforeSample s = s := by
  rw [settleBeforeSample, settleGaps_off hoff rfl, settlePostFill_not_due hpost, settleTimeLimit_not_due hlimit]

/-- A grid tick of a running sampling with nothing due before it. -/
theorem gridTick_stamps (trigIn : Bool) (hoff : allLanesOff s) (hsamp : s.time.sampling = true)
    (hpost : postFillDue s = false) (hlimit : timeLimitDue s = false) {sm : Sample}
    (hsm : sm = streamSample s.time.modeInForce (deliverTick trigIn s.pods)) :
    gridTick trigIn s = stampedSample (if s.time.fresh then 0 else s.time.tick.getD 0 + 1) sm (evaluatedSample s.time sm) { s with
      pods := qualifiedPods s.time.modeInForce (deliverTick trigIn s.pods)
      time := { s.time with
        last := sm, tick := some (if s.time.fresh then 0 else s.time.tick.getD 0 + 1), fresh := false }
      trigger := { s.trigger with trigOut := false } } := by
  have hbefore := settleBeforeSample_not_due (s := setTrigger { s.trigger with trigOut := false } s) hoff hpost hlimit
  subst hsm
  rw [gridTick, hbefore]
  exact if_pos hsamp

/-- A grid tick of a segment in which neither a transition nor a completion is due leaves the records of its sample. -/
theorem gridTick_records {trigIn post ev : Bool} {now : Nat} (hoff : allLanesOff s) (hsamp : s.time.sampling = true)
    (htick : (s.time.fresh = true ∧ now = 0) ∨
      (s.time.fresh = false ∧ ∃ n, s.time.tick = some n ∧ n < 281474976710655 ∧ now = n + 1))
    (hc : s.capture.ctl = .capturing i) (hi : i < s.capture.segs.length) (ho : (segAt s i).overrun = none)
    (hroom : s.capture.queue.length + 2 ≤ 4096)
    (hstate : (post = false ∧ (segAt s i).state = .filling ∧ s.trigger.state = .running ∧ s.trigger.force = false ∧
        (s.trigger.stages.getD s.trigger.stage Stage.cleared).advance.terms = [] ∧
        (s.trigger.stages.getD s.trigger.stage Stage.cleared).alternate = none) ∨
      (post = true ∧ (segAt s i).state = .postFill ∧ s.trigger.state = .triggered ∧
        (segAt s i).postCount < s.capture.inForce.postfill))
    (hsm : sm = streamSample s.time.modeInForce (deliverTick trigIn s.pods)) (hev : ev = evaluatedSample s.time sm) :
    let r := recordsOf (segAt s i) sm ev s.capture.needStart
    let t := gridTick trigIn s
    t.time.tick = some now ∧ t.time.fresh = false ∧ t.events = s.events ∧ t.rpath = s.rpath ∧
    Captured i (r.1.map (queuedRecord i now sm (segAt s i) (!s.capture.needStart && post))) r.2 s { s with capture := t.capture } := by
  have hpostfill : post = decide ((segAt s i).state = .postFill) := by
    obtain ⟨hp, hf, -⟩ | ⟨hp, hf, -⟩ := hstate <;> rw [hp, hf] <;> rfl
  have hnow : (if s.time.fresh then 0 else s.time.tick.getD 0 + 1) = now := by
    obtain ⟨hf, rfl⟩ | ⟨hf, n, ht, -, rfl⟩ := htick
    · rw [if_pos hf]
    · rw [if_neg (Bool.eq_false_iff.1 hf), ht]
      rfl
  have hlimit : timeLimitDue s = false := Bool.eq_false_iff.2 fun hdue => by
    obtain ⟨-, hf, ht⟩ := (timeLimitDue_iff s).1 hdue
    obtain ⟨hf', -⟩ | ⟨-, n, ht', hlt, -⟩ := htick
    · cases (hf.symm.trans hf')
    · cases (ht.symm.trans ht')
      exact absurd hlt (Nat.lt_irrefl _)
  have hnotdue : ∀ {v : State}, v.capture.ctl = s.capture.ctl → v.capture.inForce = s.capture.inForce →
      (segAt v i).state = (segAt s i).state → (segAt v i).postCount = (segAt s i).postCount → postFillDue v = false := by
    intro v hvc hvf hvs hvp
    refine Bool.eq_false_iff.2 fun hdue => ?_
    obtain ⟨hst, hle⟩ := (postFillDue_iff (hvc.trans hc)).1 hdue
    rw [hvs] at hst
    obtain ⟨-, hf, -⟩ | ⟨-, -, -, hlt⟩ := hstate
    · cases (hf.symm.trans hst)
    · rw [hvf, hvp] at hle
      exact absurd hlt (Nat.not_lt.2 hle)
  have hgrid := gridTick_stamps trigIn hoff hsamp (hnotdue rfl rfl rfl rfl) hlimit hsm
  rw [hnow, ← hev] at hgrid
  have hrec := captureSample_captured (i := i) (now := now) (sm := sm) (ev := ev) (post := !s.capture.needStart && post)
    (s := { s with
      pods := qualifiedPods s.time.modeInForce (deliverTick trigIn s.pods)
      time := { s.time with last := sm, tick := some now, fresh := false }
      trigger := { s.trigger with trigOut := false } }) hc hi ho hroom (by
        rw [hpostfill]
        show (!s.capture.needStart && _) = if s.capture.needStart then _ else _
        cases s.capture.needStart <;> rfl)
  obtain ⟨hst, hpc⟩ := recordsOf_keeps (segAt s i) sm ev s.capture.needStart
  obtain ⟨segs, hv⟩ := hrec.rest
  have hvc := congrArg State.capture hv
  obtain ⟨tr, hstamp⟩ := stampedSample_records (s := s) now sm ev hoff rfl ((congrArg State.lanes hv).trans rfl)
    (hnotdue ((congrArg Capture.ctl hvc).trans rfl) ((congrArg Capture.inForce hvc).trans rfl)
      ((congrArg Segment.state hrec.here).trans hst) ((congrArg Segment.postCount hrec.here).trans hpc))
    (sequencerSample_no_transition sm ev now (by
      rw [hv]
      exact hstate.imp (fun ⟨_, _, hrun, hforce, hadv, halt⟩ => ⟨hrun, hforce, hadv, halt⟩) fun ⟨_, _, ht, _⟩ => ht))
  rw [hstamp] at hgrid
  dsimp only
  rw [hgrid]
  refine ⟨?_, ?_, ?_, ?_, ⟨⟨segs, ?_⟩, hrec.here, hrec.others, hrec.length⟩⟩ <;> rw [hv] <;> rfl

/-- Settles O24: the records of the sample by the segment's mode, then each case of the table read off. -/
theorem recordsOfASample : Obligations.RecordsOfASample := by
  intro trigIn post ev m i now sm s hoff hsamp htick hm hc hi hmode ho hroom hstate hsm hev rec hrec
  subst hm
  obtain ⟨htime, hfresh, hevents, hpath, hcap⟩ := gridTick_records hoff hsamp htick hc hi ho hroom hstate hsm hev
  have hexec : exec (.levelStreamSample trigIn) s = .next (gridTick trigIn s) := rfl
  generalize gridTick trigIn s = t at *
  have hrec : ∀ k, sampleRecord k (segAt s i) now sm = rec k := fun k => by
    rw [hrec k, hsm]
    exact sampleRecord_eq k s.time.modeInForce _ _ _
  obtain ⟨segs, hrest⟩ := hcap.rest
  have hcapture := congrArg State.capture hrest
  have hout : ∀ ks d, recordsOf (segAt s i) sm ev s.capture.needStart = (ks, d) →
      t.capture.queue = s.capture.queue ++ ks.map (fun k => ⟨i, rec k, !s.capture.needStart && post⟩) ∧
      segAt t i = d := fun ks d h => by
    have hq := congrArg Capture.queue hcapture
    have hseg := hcap.here
    rw [h] at hq hseg
    refine ⟨hq.trans (congrArg (s.capture.queue ++ ·) (List.map_congr_left fun k _ => ?_)), hseg⟩
    rw [queuedRecord, hrec k]
  have hplain : s.time.modeInForce = .timing ∨ ev = false → ¬ ((segAt s i).mode = .state ∧ ev = true) := fun h ⟨hm, he⟩ =>
    h.elim (fun h => by cases (h.symm.trans (hmode.symm.trans hm))) fun h => by cases (h.symm.trans he)
  refine ⟨t, hexec, htime, hfresh, (congrArg Capture.ctl hcapture).trans rfl, hcap.others, hevents, hpath,
    (congrArg Capture.needStart hcapture).trans rfl, ?_, ?_⟩
  · intro hneed
    rw [hneed] at hout
    refine ⟨fun h => hout [.start] _ ((if_pos rfl).trans (if_neg (hplain h))), fun h he =>
      hout [.start, .change] _ ((if_pos rfl).trans (if_pos ⟨hmode.trans h, he⟩))⟩
  · intro hneed
    rw [hneed] at hout
    have hlater := recordsOf_later (segAt s i) sm ev
    refine ⟨fun hv => ⟨fun h => hout [.pod] _ (hlater.trans <| (if_pos hv).trans (if_neg (hplain h))),
        fun h he => hout [.pod, .change] _ (hlater.trans <| (if_pos hv).trans (if_pos ⟨hmode.trans h, he⟩))⟩,
      fun hv => ⟨fun h => hout [.change] _ (hlater.trans <| (if_neg (not_not_intro hv)).trans (if_pos ?_)), fun h => ?_⟩⟩
    · rw [hmode]
      exact h.imp_left fun h => ⟨h.1, decide_eq_true h.2⟩
    · have hout := hout [] _ (hlater.trans <| (if_neg (not_not_intro hv)).trans (if_neg ?_))
      · rw [List.map_nil, List.append_nil] at hout
        exact hout
      · rw [hmode, Segment.differs, decide_eq_true_iff]
        rintro (⟨hm, hd⟩ | ⟨hm, he⟩)
        · rw [hm] at h
          obtain ⟨-, hl, hg⟩ | ⟨hm', -⟩ := h
          · exact hd.elim (fun hd => hd hl) fun hd => hd hg
          · cases hm'
        · rw [hm, he] at h
          obtain ⟨hm', -⟩ | ⟨-, he'⟩ := h
          · cases hm'
          · cases he'

end Sys2Proof.Machine
end

section
/-! Chapter 3: the ring of a segment and the writer's grant (R48, R55, R58). -/

namespace Sys2Proof.Machine

/-! ## The writer's grant -/

/-- The pointer of the rotation, changed alone. -/
def setRotation (r : Requester) (s : State) : State := setCapture { s.capture with rotation := r } s

theorem setRotation_self (s : State) : setRotation s.capture.rotation s = s := rfl

theorem nextRequester_after_lane5 {s : State} (h : s.capture.rotation = .lane 5) (hw : requesterWaits s .writer = true) :
    nextRequester s = some .writer := by
  rw [nextRequester, h]
  exact List.find?_cons_of_pos hw

/-- With a completion not due and the writer first, a grant writes the head of the writer queue into its ring. -/
theorem arbiterGrant_writes {q : Queued} {rest : List Queued} {s : State} (hq : s.capture.queue = q :: rest)
    (hdue : postFillDue s = false) (hfirst : 1024 ≤ s.capture.queue.length ∨ s.capture.rotation = .lane 5)
    (hslot : ringSlot q.seg (segAt s q.seg) (segAt s q.seg).written < 16777216) :
    ∃ r, exec .arbiterGrant s = .next (ringWrite q rest (setRotation r s)) := by
  have hwrite : ∀ r, writerAccess (setRotation r s) = .next (ringWrite q rest (setRotation r s)) := fun r => by
    unfold writerAccess
    rw [show (setRotation r s).capture.queue = q :: rest from hq]
    exact if_neg (Nat.not_le.2 hslot)
  have hgrant : exec .arbiterGrant s = arbitrate s := congrArg arbitrate (settlePostFill_not_due hdue)
  rw [hgrant, arbitrate]
  by_cases hmark : Config.watermark ≤ s.capture.queue.length
  · exact ⟨s.capture.rotation, (if_pos hmark).trans (hwrite s.capture.rotation)⟩
  · have hlane := hfirst.resolve_left hmark
    have hnext := nextRequester_after_lane5 hlane (by simp [requesterWaits, hq])
    rw [if_neg hmark, hnext]
    exact ⟨.writer, hwrite .writer⟩

/-! ## The write -/

/-- The record's slot. -/
def headSlot (q : Queued) (s : State) : Nat := ringSlot q.seg (segAt s q.seg) (segAt s q.seg).written

/-- The DRAM after the write. -/
def dramWritten (q : Queued) (s : State) : Mem Record := Mem.write Record.blank s.capture.dram (headSlot q s) q.record

/-- The time of the record that is oldest once a full ring has taken one more. -/
def nextOldest (q : Queued) (s : State) : Nat :=
  (Mem.read Record.blank (dramWritten q s)
    (ringSlot q.seg (segAt s q.seg) ((segAt s q.seg).written + 1 - (segAt s q.seg).retained))).time

/-- The state once the record stands in the ring and the descriptor counts it. -/
def ringStored (q : Queued) (rest : List Queued) (s : State) : State :=
  modSeg q.seg (fun d => d.wrote q (nextOldest q s)) (setCapture { s.capture with dram := dramWritten q s, queue := rest } s)

/-- The state once the frame log has lost what starts before the oldest record of a full ring (R145). -/
def ringTrimmed (q : Queued) (rest : List Queued) (s : State) : State :=
  if (segAt s q.seg).size ≤ (segAt s q.seg).retained then trimLog q.seg (nextOldest q s) (ringStored q rest s)
  else ringStored q rest s

theorem ringWrite_eq (q : Queued) (rest : List Queued) (s : State) :
    ringWrite q rest s = measureAfterWrite q.seg
      (if q.record.kind = .close then closeWritten q.seg (ringTrimmed q rest s) else ringTrimmed q rest s) := by
  unfold ringWrite ringTrimmed
  dsimp only
  simp only [decide_eq_true_eq]
  rfl

variable {q : Queued} {rest : List Queued} {s : State}

theorem ringTrimmed_capture : (ringTrimmed q rest s).capture = (ringStored q rest s).capture := by
  unfold ringTrimmed
  split
  · simp
  · rfl

theorem segAt_ringTrimmed (hi : q.seg < s.capture.segs.length) :
    segAt (ringTrimmed q rest s) q.seg = (segAt s q.seg).wrote q (nextOldest q s) := by
  refine segAt_of_set (s := s) ?_ hi
  rw [ringTrimmed_capture]
  rfl

theorem segAt_ringTrimmed_ne {j : Nat} (hj : j ≠ q.seg) : segAt (ringTrimmed q rest s) j = segAt s j :=
  segAt_of_set_ne (s := s) (by rw [ringTrimmed_capture]; rfl) (by rw [ringTrimmed_capture]; rfl) hj

theorem ringTrimmed_rpath_below (h : (segAt s q.seg).retained < (segAt s q.seg).size) :
    (ringTrimmed q rest s).rpath = s.rpath := by
  rw [ringTrimmed, if_neg (Nat.not_le.2 h)]
  rfl

/-- In a full ring of more than one record the oldest record after the write is one that stood there before. -/
theorem nextOldest_full (hret : (segAt s q.seg).retained = (segAt s q.seg).size) (h1 : 1 < (segAt s q.seg).size)
    (hw : (segAt s q.seg).size ≤ (segAt s q.seg).written) :
    nextOldest q s = (recordNumber s q.seg ((segAt s q.seg).written + 1 - (segAt s q.seg).retained)).time := by
  have hne : ringSlot q.seg (segAt s q.seg) ((segAt s q.seg).written + 1 - (segAt s q.seg).retained) ≠ headSlot q s := by
    intro h
    have hmod : ((segAt s q.seg).written + 1 - (segAt s q.seg).size) % (segAt s q.seg).size =
        (segAt s q.seg).written % (segAt s q.seg).size := by
      rw [headSlot, ringSlot, ringSlot, hret] at h
      exact Nat.add_left_cancel h
    generalize (segAt s q.seg).written = w at *
    generalize (segAt s q.seg).size = n at *
    have hsub : (w + 1 - n) % n = (w + 1) % n := (Nat.mod_eq_sub_mod (by omega)).symm
    rw [hsub, Nat.add_mod, Nat.mod_eq_of_lt h1] at hmod
    have hlt := Nat.mod_lt w (show 0 < n by omega)
    by_cases hlast : w % n + 1 = n
    · rw [hlast, Nat.mod_self] at hmod
      omega
    · rw [Nat.mod_eq_of_lt (by omega)] at hmod
      omega
  rw [nextOldest, dramWritten, Mem.read_write_ne _ _ hne]
  rfl

/-- What a full ring's write takes from the frame logs (R145). -/
theorem ringTrimmed_logs (hret : (segAt s q.seg).retained = (segAt s q.seg).size) :
    logAt (ringTrimmed q rest s) q.seg = (logAt s q.seg).filter (fun e => decide (nextOldest q s ≤ e.start)) ∧
    (ringTrimmed q rest s).rpath.logQueue =
      s.rpath.logQueue.filter (fun e => decide (e.1 ≠ q.seg) || decide (nextOldest q s ≤ e.2.start)) ∧
    ∀ j, j ≠ q.seg → logAt (ringTrimmed q rest s) j = logAt s j := by
  obtain ⟨hlog, hqueue⟩ := trimLog_drops q.seg (nextOldest q s) (ringStored q rest s)
  rw [ringTrimmed, if_pos (Nat.le_of_eq hret.symm)]
  exact ⟨(hlog q.seg).trans (if_pos rfl), hqueue, fun j hj => (hlog j).trans (if_neg hj)⟩

theorem ringTrimmed_dram : (ringTrimmed q rest s).capture.dram = dramWritten q s := by
  rw [ringTrimmed_capture]
  rfl

/-- The written record reads back, and no other slot changes. -/
theorem dramWritten_reads (hwf : Mem.wf Record.blank s.capture.dram = true) :
    Mem.read Record.blank (dramWritten q s) (headSlot q s) = q.record ∧
    ∀ a, a ≠ headSlot q s → Mem.read Record.blank (dramWritten q s) a = Mem.read Record.blank s.capture.dram a :=
  ⟨Mem.read_write_self _ _ hwf, fun _ ha => Mem.read_write_ne _ _ ha⟩

theorem countsPost_eq (d : Segment) : countsPost d q = true ↔
    q.post = true ∧ (d.state = .postFill ∨ (d.state = .closing ∧ d.closeStopped = false)) := by
  simp [countsPost]

theorem wrote_below {d : Segment} (n : Nat) (h : d.retained < d.size) :
    d.wrote q n = { d with
      written := d.written + 1, retained := d.retained + 1, newest := some q.record.time
      oldest := some (d.oldest.getD q.record.time), postCount := if countsPost d q then d.postCount + 1 else d.postCount } := by
  simp [Segment.wrote, Nat.not_le.2 h]

theorem wrote_full {d : Segment} (n : Nat) (h : d.retained = d.size) :
    d.wrote q n = { d with
      written := d.written + 1, newest := some q.record.time, oldest := some n
      postCount := if countsPost d q then d.postCount + 1 else d.postCount
      flags := { d.flags with wrapped := true } } := by
  simp [Segment.wrote, h]

/-- Settles O27: the write, then the ring below its size and at it. -/
theorem ringWriteKeepsTheOtherSlots : Obligations.RingWriteKeepsTheOtherSlots := by
  intro q rest slot s hq hkind hwf hi hdue hfirst hslot hlt
  obtain ⟨r, hgrant⟩ := arbiterGrant_writes hq hdue hfirst (hslot.symm.trans_lt hlt)
  have hwrite := ringWrite_eq q rest (setRotation r s)
  rw [if_neg hkind] at hwrite
  obtain ⟨-, -, hpods, htime, htrig, htab, hlanes, hpanel, hup⟩ := ringWrite_frame q rest (setRotation r s)
  obtain ⟨-, -, -, -, hcap, -, -, -, hpath, -⟩ := measureAfterWrite_frame q.seg (ringTrimmed q rest (setRotation r s))
  rw [← hwrite] at hcap hpath
  generalize ringWrite q rest (setRotation r s) = t at *
  have hseg : ∀ j, segAt t j = segAt (ringTrimmed q rest (setRotation r s)) j := fun j => by rw [segAt, hcap]; rfl
  have hlog : ∀ j, logAt t j = logAt (ringTrimmed q rest (setRotation r s)) j := fun j => by rw [logAt, hpath]; rfl
  have hhere := (hseg q.seg).trans (segAt_ringTrimmed (rest := rest) (s := setRotation r s) hi)
  have hdram : t.capture.dram = dramWritten q (setRotation r s) := (congrArg Capture.dram hcap).trans ringTrimmed_dram
  obtain ⟨hread, hother⟩ := dramWritten_reads (q := q) (s := setRotation r s) hwf
  rw [← hdram] at hread hother
  have hc : t.capture = (ringStored q rest (setRotation r s)).capture := hcap.trans ringTrimmed_capture
  have hslot : slot = headSlot q (setRotation r s) := hslot
  refine ⟨t, hgrant, by rw [hslot]; exact hread, fun a ha => hother a (by rw [← hslot]; exact ha),
    congrArg Capture.queue hc, (congrArg Capture.ctl hc).trans rfl, ?_, ?_, ?_, ?_, fun hlow => ?_,
    fun hret h1 hw => ?_, ?_, fun j hj => (hseg j).trans (segAt_ringTrimmed_ne hj), hpods, htime, htrig, htab, hlanes,
    hpanel, hup⟩
  · rw [hhere]; rfl
  · rw [hhere]; rfl
  · rw [hhere]; rfl
  · rw [hhere]; rfl
  · have hbelow := hhere.trans (wrote_below _ hlow)
    rw [hbelow]
    exact ⟨rfl, rfl, rfl, hpath.trans (ringTrimmed_rpath_below hlow)⟩
  · have hfull := hhere.trans (wrote_full _ hret)
    have hold := nextOldest_full (q := q) (s := setRotation r s) hret h1 hw
    have hlogs := ringTrimmed_logs (rest := rest) (s := setRotation r s) hret
    rw [hold] at hfull hlogs
    rw [hfull, hpath]
    refine ⟨rfl, rfl, rfl, rfl, fun oldest ho => ?_⟩
    cases ho
    simp only [hlog]
    exact hlogs
  · rw [hhere]
    exact ite_congr (propext (countsPost_eq _)) (fun _ => rfl) fun _ => rfl

end Sys2Proof.Machine
end

section
/-! Chapter 3: the END record of a segment (R48, R55). -/

namespace Sys2Proof.Machine

/-- The trigger record index and TRIGGER_TRIMMED as closing settles them (R55); `k` is the index of a time. -/
def Segment.settled (d : Segment) (k : Nat → Nat) : Segment :=
  match d.trigger with
  | none => d
  | some f =>
    if f.time < d.oldest.getD 0 then { d with trigIndex := some 0, flags := { d.flags with triggerTrimmed := true } }
    else { d with trigIndex := some (k f.time) }

theorem segAt_settleIndex {i : Nat} {s : State} (hi : i < s.capture.segs.length) :
    segAt (settleIndex i s) i = (segAt s i).settled (indexAtOrAfter s i) := by
  unfold settleIndex
  split
  · next h => rw [Segment.settled, h]
  · next f h =>
    rw [segAt_of_set (s := s) rfl hi]
    unfold Segment.settled
    split
    · next h' => cases (h.symm.trans h')
    · next f' h' =>
      cases (h.symm.trans h')
      rfl

theorem settleIndex_segs (i : Nat) (s : State) : ∃ d, (settleIndex i s).capture.segs = s.capture.segs.set i d := by
  unfold settleIndex
  split
  · next h =>
    refine ⟨segAt s i, ?_⟩
    by_cases hi : i < s.capture.segs.length
    · rw [segAt, List.getD_eq_getElem _ _ hi, List.set_getElem_self]
    · rw [List.set_eq_of_length_le (Nat.le_of_not_lt hi)]
  · exact ⟨_, rfl⟩

theorem settleIndex_capture (i : Nat) (s : State) :
    (settleIndex i s).capture = { s.capture with segs := (settleIndex i s).capture.segs } := by
  unfold settleIndex
  split
  · rfl
  · rfl

/-- Settling touches the index and the flag alone. -/
theorem settled_keeps (d : Segment) (k : Nat → Nat) :
    d.settled k = { d with
      trigIndex := (d.settled k).trigIndex
      flags := { d.flags with triggerTrimmed := (d.settled k).flags.triggerTrimmed } } := by
  unfold Segment.settled
  split
  · rfl
  · split <;> rfl

theorem settled_no_trigger {d : Segment} (k : Nat → Nat) (h : d.trigger = none) : d.settled k = d := by
  rw [Segment.settled, h]

theorem settled_before {d : Segment} {f : TriggerFacts} {n : Nat} (k : Nat → Nat) (h : d.trigger = some f)
    (ho : d.oldest = some n) (hlt : f.time < n) :
    d.settled k = { d with trigIndex := some 0, flags := { d.flags with triggerTrimmed := true } } := by
  rw [Segment.settled, h]
  exact if_pos (by rw [ho]; exact hlt)

theorem settled_retained {d : Segment} {f : TriggerFacts} {n : Nat} (k : Nat → Nat) (h : d.trigger = some f)
    (ho : d.oldest = some n) (hle : n ≤ f.time) : d.settled k = { d with trigIndex := some (k f.time) } := by
  rw [Segment.settled, h]
  exact if_neg (by rw [ho]; exact Nat.not_lt.2 hle)

/-- A retained record depends on the DRAM and on three counts of its segment. -/
theorem recordAt_congr {s t : State} {i : Nat} (hd : t.capture.dram = s.capture.dram)
    (hs : (segAt t i).size = (segAt s i).size) (hw : (segAt t i).written = (segAt s i).written)
    (hr : (segAt t i).retained = (segAt s i).retained) (j : Nat) : recordAt t i j = recordAt s i j := by
  simp only [recordAt, recordNumber, ringSlot, Segment.base, hd, hs, hw, hr]

theorem measureAfterWrite_events_ne (i : Nat) (s : State) {c : Fin 7} (h : c ≠ blkView) :
    (measureAfterWrite i s).events[c] = s.events[c] := by
  have hfinish : ∀ m r u, (finishMeasure m r u).events[c] = u.events[c] := fun m r u => by
    rw [finishMeasure, show ∀ w, (startPass w).events = w.events from fun w => by simp]
    exact raise_events_ne (Ne.symm h) _ _
  unfold measureAfterWrite
  split
  · split
    · rfl
    · split
      · exact hfinish _ _ _
      · unfold settleMeasure
        split
        · exact hfinish _ _ _
        · rfl
  · rfl
  · rfl

theorem ringTrimmed_events {q : Queued} {rest : List Queued} {s : State} : (ringTrimmed q rest s).events = s.events := by
  unfold ringTrimmed
  split
  · simp [ringStored, setCapture]
  · rfl

/-- The descriptor once its END record has been written (R55). -/
def Segment.ended (d : Segment) (k : Nat → Nat) : Segment :=
  { d.settled k with state := if (d.settled k).closeStopped then .stopped else .done }

theorem ended_eq (d : Segment) (k : Nat → Nat) :
    d.ended k = { d with
      state := if d.closeStopped then .stopped else .done
      trigIndex := (d.settled k).trigIndex
      flags := { d.flags with triggerTrimmed := (d.settled k).flags.triggerTrimmed } } := by
  conv_lhs => rw [Segment.ended, settled_keeps]

variable {q : Queued} {rest : List Queued} {s : State}

theorem closeWritten_segs {i : Nat} (hi : i < s.capture.segs.length) :
    segAt (closeWritten i s) i = (segAt s i).ended (indexAtOrAfter s i) ∧
    ∀ j, j ≠ i → segAt (closeWritten i s) j = segAt s j := by
  obtain ⟨hcap, -⟩ := closeWritten_spec i s _ rfl
  obtain ⟨d, hsegs⟩ := settleIndex_segs i s
  have hset := segAt_settleIndex hi
  refine ⟨?_, fun j hj => ?_⟩
  · rw [segAt_of_set (s := settleIndex i s) (congrArg Capture.segs hcap) (by rw [hsegs]; simpa using hi), hset, Segment.ended]
  · refine (segAt_of_set_ne (s := settleIndex i s) (congrArg Capture.segs hcap) ((congrArg Capture.layout hcap).trans rfl) hj).trans ?_
    exact segAt_of_set_ne (s := s) hsegs ((congrArg Capture.layout (settleIndex_capture i s)).trans rfl) hj

/-- A write counts one more record and settles the fields that follow from it. -/
theorem wrote_eq (d : Segment) (n : Nat) :
    d.wrote q n = { d with
      written := d.written + 1, newest := some q.record.time
      retained := if d.retained < d.size then d.retained + 1 else d.retained
      oldest := (d.wrote q n).oldest, postCount := (d.wrote q n).postCount
      flags := { d.flags with wrapped := d.flags.wrapped || decide (d.size ≤ d.retained) } } := by
  have h : (if decide (d.size ≤ d.retained) = true then d.retained else d.retained + 1) =
      if d.retained < d.size then d.retained + 1 else d.retained := by
    simp only [decide_eq_true_eq]
    split <;> split <;> omega
  unfold Segment.wrote
  dsimp only
  rw [h]

/-- What the record of a segment's end leaves in its descriptor and in the controller. -/
theorem ringWrite_end (hi : q.seg < s.capture.segs.length) (hkind : q.record.kind = .close) :
    let u := ringTrimmed q rest s
    let t := ringWrite q rest s
    segAt t q.seg = ((segAt s q.seg).wrote q (nextOldest q s)).ended (indexAtOrAfter u q.seg) ∧
    (∀ j, j ≠ q.seg → segAt t j = segAt s j) ∧ t.capture.queue = rest ∧ t.rpath = u.rpath ∧
    t.capture.dram = dramWritten q s ∧
    (s.capture.ctl = .closing → rest = [] → t.capture.ctl = .idle ∧
      t.events[blkCapture] = ((s.events[blkCapture]).raise evSegmentDone).raise evCaptureComplete) ∧
    (s.capture.ctl ≠ .closing ∨ rest ≠ [] → t.capture.ctl = s.capture.ctl ∧
      t.events[blkCapture] = (s.events[blkCapture]).raise evSegmentDone) := by
  have hwrite := ringWrite_eq q rest s
  rw [if_pos hkind] at hwrite
  obtain ⟨-, -, -, -, hcap, -, -, -, hpath, -⟩ := measureAfterWrite_frame q.seg (closeWritten q.seg (ringTrimmed q rest s))
  have hev := measureAfterWrite_events_ne q.seg (closeWritten q.seg (ringTrimmed q rest s)) (c := blkCapture) (by decide)
  rw [← hwrite] at hcap hpath hev
  obtain ⟨hccap, hcpath, hcdone, hcmore⟩ := closeWritten_spec q.seg (ringTrimmed q rest s) _ rfl
  have hucap : (settleIndex q.seg (ringTrimmed q rest s)).capture = { (ringStored q rest s).capture with
      segs := (settleIndex q.seg (ringTrimmed q rest s)).capture.segs } := by
    rw [settleIndex_capture, ringTrimmed_capture]
  have huctl : (settleIndex q.seg (ringTrimmed q rest s)).capture.ctl = s.capture.ctl :=
    (congrArg Capture.ctl hucap).trans rfl
  have huq : (settleIndex q.seg (ringTrimmed q rest s)).capture.queue = rest := (congrArg Capture.queue hucap).trans rfl
  have huev : (settleIndex q.seg (ringTrimmed q rest s)).events = s.events := by
    rw [show ∀ i u, (settleIndex i u).events = u.events from fun i u => by simp, ringTrimmed_events]
  have hupath : (settleIndex q.seg (ringTrimmed q rest s)).rpath = (ringTrimmed q rest s).rpath := by simp
  have hlen : q.seg < (ringTrimmed q rest s).capture.segs.length := by
    rw [ringTrimmed_capture]
    exact Nat.lt_of_lt_of_eq hi List.length_set.symm
  obtain ⟨hend, hothers⟩ := closeWritten_segs hlen
  rw [segAt_ringTrimmed hi] at hend
  rw [huctl, huq] at hccap hcdone hcmore
  rw [huev, ← hev] at hcdone hcmore
  have hc := hcap.trans hccap
  have hseg : ∀ j, segAt (ringWrite q rest s) j = segAt (closeWritten q.seg (ringTrimmed q rest s)) j := fun j => by
    rw [segAt, hcap]; rfl
  refine ⟨(hseg _).trans hend, fun j hj => (hseg j).trans ((hothers j hj).trans (segAt_ringTrimmed_ne hj)),
    (congrArg Capture.queue hc).trans huq, hpath.trans (hcpath.trans hupath), ringWrite_dram q rest s,
    fun hctl hr => ⟨(congrArg Capture.ctl hc).trans (if_pos ⟨hctl, hr⟩), hcdone hctl hr⟩,
    fun h => ⟨(congrArg Capture.ctl hc).trans (if_neg fun ⟨hctl, hr⟩ => h.elim (· hctl) (· hr)), hcmore h⟩⟩

theorem oldest_wrote_below {d : Segment} (n : Nat) (h : d.retained < d.size) :
    (d.wrote q n).oldest = some (d.oldest.getD q.record.time) := by rw [wrote_below n h]

theorem oldest_wrote_full {d : Segment} (n : Nat) (h : d.size ≤ d.retained) : (d.wrote q n).oldest = some n := by
  simp [Segment.wrote, h]

theorem oldest_wrote_isSome (d : Segment) (n : Nat) : (d.wrote q n).oldest.isSome = true := by
  by_cases h : d.size ≤ d.retained
  · rw [oldest_wrote_full n h]
    rfl
  · rw [oldest_wrote_below n (Nat.lt_of_not_le h)]
    rfl

/-- Settles O28: the write of the END record, then what closing settles. -/
theorem segmentClosesAtItsEndRecord : Obligations.SegmentClosesAtItsEndRecord := by
  intro q rest slot d s hq hkind hwf hi hdue hfirst hd hslot hlt
  subst hd
  obtain ⟨r, hgrant⟩ := arbiterGrant_writes hq hdue hfirst (hslot.symm.trans_lt hlt)
  obtain ⟨-, -, hpods, htime, htrig, htab, hlanes, hpanel, hup⟩ := ringWrite_frame q rest (setRotation r s)
  obtain ⟨hhere, hothers, hqueue, hpath, hdram, hlast, hmore⟩ := ringWrite_end (rest := rest) (s := setRotation r s) hi hkind
  obtain ⟨hread, hother⟩ := dramWritten_reads (q := q) (s := setRotation r s) hwf
  have hslot : slot = headSlot q (setRotation r s) := hslot
  have hu := segAt_ringTrimmed (rest := rest) (s := setRotation r s) hi
  rw [← hdram, ← hslot] at hread hother
  rw [show segAt (setRotation r s) q.seg = segAt s q.seg from rfl] at hhere hu
  generalize ringWrite q rest (setRotation r s) = t at *
  have hold : (segAt t q.seg).oldest = ((segAt s q.seg).wrote q (nextOldest q (setRotation r s))).oldest := by
    rw [hhere, ended_eq]
  have hpost : (segAt t q.seg).postCount = ((segAt s q.seg).wrote q (nextOldest q (setRotation r s))).postCount := by
    rw [hhere, ended_eq]
  refine ⟨t, hgrant, hqueue, hread, hother, ?_, fun hp => ?_, fun hlow => ⟨?_, ?_⟩, fun hret h1 hw => ?_, fun hn => ?_,
    fun f oldest hf ho => ?_, ?_, hlast, hmore, hothers, hpods, htime, htrig, htab, hlanes, hpanel, hup⟩
  · rw [hhere, ended_eq]
    congr 1
    exact (congrArg Segment.retained (wrote_eq _ _)).trans rfl
  · rw [hpost]
    exact if_neg fun h => by cases (((countsPost_eq _).1 h).1.symm.trans hp)
  · rw [hold, oldest_wrote_below _ hlow]
  · exact hpath.trans (ringTrimmed_rpath_below hlow)
  · have hfull := nextOldest_full (q := q) (s := setRotation r s) hret h1 hw
    have hlogs := ringTrimmed_logs (rest := rest) (s := setRotation r s) hret
    rw [oldest_wrote_full _ (Nat.le_of_eq hret.symm)] at hold
    rw [hfull] at hold hlogs
    refine ⟨hold, fun oldest ho => ?_⟩
    cases (hold.symm.trans ho)
    simp only [logAt, hpath]
    exact hlogs
  · rw [hhere, ended_eq, settled_no_trigger _ (by exact hn)]
    rfl
  · have htrig : ((segAt s q.seg).wrote q (nextOldest q (setRotation r s))).trigger = some f := hf
    have hwold := hold.symm.trans ho
    refine ⟨fun hlt => ?_, fun hle => ?_⟩
    · rw [hhere, ended_eq, settled_before _ htrig hwold hlt]
      exact ⟨rfl, rfl⟩
    · have hend := hhere.trans (ended_eq _ _)
      rw [settled_retained _ htrig hwold hle] at hend
      have hrec : ∀ j, recordAt t q.seg j = recordAt (ringTrimmed q rest (setRotation r s)) q.seg j :=
        recordAt_congr (hdram.trans ringTrimmed_dram.symm) (by rw [hend, hu]) (by rw [hend, hu]) (by rw [hend, hu])
      obtain ⟨hmax, hbefore, hafter⟩ := indexAtOrAfter_spec (ringTrimmed q rest (setRotation r s)) q.seg f.time
      have hret : (segAt t q.seg).retained = (segAt (ringTrimmed q rest (setRotation r s)) q.seg).retained := by
        rw [hend, hu]
      refine ⟨by rw [hend]; rfl, _, by rw [hend], by rw [hret]; exact hmax, fun j hj => ?_, fun hj => ?_⟩
      · rw [hrec]
        exact hbefore j hj
      · rw [hrec]
        exact hafter (by rw [← hret]; exact hj)
  · rw [hold]
    exact oldest_wrote_isSome _ _

end Sys2Proof.Machine
end

section
/-! Chapter 3: the arbiter and the record readout (R58 to R62). -/

namespace Sys2Proof.Machine

/-! ## Operations that change nothing of the capture store but segments -/

/-- Of the capture store, `t` differs from `s` in descriptors at most. -/
def SegsOnly (s t : State) : Prop := ∃ segs, t.capture = { s.capture with segs := segs }

variable {s t u : State}

theorem SegsOnly.of_eq (h : t.capture = s.capture) : SegsOnly s t := ⟨s.capture.segs, h⟩

theorem SegsOnly.trans (h : SegsOnly s t) (g : SegsOnly t u) : SegsOnly s u := by
  obtain ⟨a, ha⟩ := h
  obtain ⟨b, hb⟩ := g
  exact ⟨b, by rw [hb, ha]⟩

theorem SegsOnly.rotation (h : SegsOnly s t) : t.capture.rotation = s.capture.rotation := by
  obtain ⟨_, h⟩ := h
  rw [h]

theorem SegsOnly.queue (h : SegsOnly s t) : t.capture.queue = s.capture.queue := by
  obtain ⟨_, h⟩ := h
  rw [h]

theorem segsOnly_ite {c : Prop} [Decidable c] (h : SegsOnly s t) (g : SegsOnly s u) : SegsOnly s (if c then t else u) := by
  split
  · exact h
  · exact g

theorem segsOnly_logOverflow (i : Nat) (s : State) : SegsOnly s (logOverflow i s) := ⟨_, rfl⟩

theorem segsOnly_placeInLog (i : Nat) (r : FrameRecord) (s : State) : SegsOnly s (placeInLog i r s) :=
  segsOnly_ite (.of_eq rfl) (segsOnly_ite (.of_eq rfl) (segsOnly_logOverflow i s))

theorem segsOnly_takeFrame (g : Option Nat) (e : Ended) (s : State) : SegsOnly s (takeFrame g e s) := by
  have hstream : ∀ r v, SegsOnly v (streamFrame r v) := fun r v => segsOnly_ite (.of_eq rfl) (.of_eq rfl)
  cases g with
  | none => exact segsOnly_ite (hstream _ (setTrigger _ s)) (.of_eq rfl)
  | some i =>
    have hlog := segsOnly_placeInLog i e.record (setTrigger (s.trigger.offer e.record e.address) s)
    exact segsOnly_ite (SegsOnly.trans hlog (hstream _ _)) hlog

theorem segsOnly_raiseIf (c : Bool) (b : Fin 7) (m : Word) (s : State) : SegsOnly s (raiseIf c b m s) := .of_eq (by simp)

theorem segsOnly_setLane (l : LaneId) (ln : Lane) (s : State) : SegsOnly s (setLane l ln s) := .of_eq rfl

theorem segsOnly_applyLane (l : LaneId) (g : Option Nat) (o : LaneOut) (s : State) : SegsOnly s (applyLane l g o s) := by
  unfold applyLane
  cases o.frame with
  | none => exact ((segsOnly_setLane l o.lane s).trans (segsOnly_raiseIf _ _ _ _)).trans (segsOnly_raiseIf _ _ _ _)
  | some e =>
    exact (((segsOnly_setLane l o.lane s).trans (segsOnly_takeFrame g e (setLane l o.lane s))).trans (segsOnly_raiseIf _ _ _ _)).trans
      (segsOnly_raiseIf _ _ _ _)

theorem segsOnly_replayTick (tb : FrameTable) (l : LaneId) (s : State) : SegsOnly s (replayTick tb l s) := by
  unfold replayTick
  split
  · exact .of_eq rfl
  · next r _ =>
    have hover : SegsOnly s (if r.overrunAt = some r.nextTick then replayOverrun tb l r.nextTick s else s) :=
      segsOnly_ite (segsOnly_applyLane _ _ _ _) (.of_eq rfl)
    have hgap : ∀ v, SegsOnly v (replayGap tb l v) := fun v => segsOnly_ite (segsOnly_applyLane _ _ _ _) (.of_eq rfl)
    refine hover.trans (segsOnly_ite ?_ (.of_eq rfl))
    refine ((segsOnly_applyLane _ _ _ _).trans (hgap _)).trans (segsOnly_ite (.of_eq rfl) (.of_eq rfl))

theorem segsOnly_replayTicks (tb : FrameTable) (l : LaneId) (n : Nat) (s : State) : SegsOnly s (replayTicks tb l n s) := by
  induction n generalizing s with
  | zero => exact .of_eq rfl
  | succ n ih => exact segsOnly_ite ((segsOnly_replayTick tb l s).trans (ih _)) (.of_eq rfl)

theorem segsOnly_replayEnd (tb : FrameTable) (l : LaneId) (tick : Nat) (s : State) : SegsOnly s (replayEnd tb l tick s) :=
  segsOnly_ite (segsOnly_applyLane _ _ _ _) (.of_eq rfl)

theorem segsOnly_replayRead (l : LaneId) (s : State) : SegsOnly s (replayRead l s) := by
  unfold replayRead
  split
  · next tb r _ _ =>
    dsimp only
    split
    · exact (segsOnly_replayTicks _ _ _ _).trans (segsOnly_replayEnd _ _ _ _)
    · split
      · split
        · refine SegsOnly.trans (SegsOnly.trans ?_ (segsOnly_replayTicks _ _ _ _)) (segsOnly_replayEnd _ _ _ _)
          exact (segsOnly_replayTicks _ _ _ _).trans (segsOnly_setLane _ _ _)
        · exact (segsOnly_replayTicks _ _ _ _).trans (segsOnly_setLane _ _ _)
      · exact segsOnly_replayTicks _ _ _ _
  · exact .of_eq rfl

theorem segsOnly_writeLogEntry (s : State) : SegsOnly s (writeLogEntry s) := by
  have hdrop : ∀ i v, SegsOnly v (dropOldestEntry i v) := fun i v => SegsOnly.trans (.of_eq rfl) (segsOnly_logOverflow i _)
  have hjoin : ∀ i r v, SegsOnly v (joinLog i r v) := fun i r v =>
    (segsOnly_ite (hdrop i v) (.of_eq rfl)).trans (.of_eq rfl)
  unfold writeLogEntry
  split
  · exact .of_eq rfl
  · exact segsOnly_ite (SegsOnly.trans (.of_eq rfl) (hjoin _ _ _)) (.of_eq rfl)

/-! ## What an access leaves of the arbiter -/

theorem ringWrite_rotation_queue (q : Queued) (rest : List Queued) (s : State) :
    (ringWrite q rest s).capture.rotation = s.capture.rotation ∧ (ringWrite q rest s).capture.queue = rest := by
  rw [ringWrite_eq, show ∀ i v, (measureAfterWrite i v).capture = v.capture from fun i v => by simp]
  have htrim := ringTrimmed_capture (q := q) (rest := rest) (s := s)
  split
  · obtain ⟨hclose, -⟩ := closeWritten_spec q.seg (ringTrimmed q rest s) _ rfl
    have hsettle := settleIndex_capture q.seg (ringTrimmed q rest s)
    rw [hclose]
    dsimp only
    rw [hsettle, htrim]
    exact ⟨rfl, rfl⟩
  · rw [htrim]
    exact ⟨rfl, rfl⟩

theorem writerAccess_rotation_queue {s t : State} (h : writerAccess s = .next t) :
    t.capture.rotation = s.capture.rotation ∧ t.capture.queue = s.capture.queue.tail := by
  unfold writerAccess at h
  split at h
  · next hq =>
    cases h
    have hlog := segsOnly_writeLogEntry s
    exact ⟨hlog.rotation, by rw [hlog.queue, hq]; rfl⟩
  · next q rest hq =>
    split at h
    · cases h
    · cases h
      rw [hq]
      exact ringWrite_rotation_queue q rest s

theorem readoutAccess_rotation (s : State) : (readoutAccess s).capture.rotation = s.capture.rotation := by
  unfold readoutAccess
  split
  · simp [setCapture]
  · split
    · rfl
    · split <;> rfl

/-- An access leaves the rotation pointer where the grant has put it. -/
theorem serve_rotation {r : Requester} {s t : State} (h : serve r s = .next t) :
    t.capture.rotation = s.capture.rotation := by
  cases r with
  | writer => exact (writerAccess_rotation_queue h).1
  | readout =>
    cases h
    exact readoutAccess_rotation s
  | view =>
    cases h
    simp
  | lane l =>
    cases h
    exact (segsOnly_replayRead l s).rotation

/-! ## The rotation -/

/-- The place of a requester in the order that begins after the pointer. -/
def Requester.place (p r : Requester) : Nat := (r.code + 8 - p.code) % 9

theorem afterPointer_lane (p : LaneId) (r : Requester) : (afterPointer (.lane p))[Requester.place (.lane p) r]? = some r := by
  cases r with
  | lane l => revert p l; decide
  | writer => revert p; decide
  | readout => revert p; decide
  | view => revert p; decide

theorem afterPointer_place (p r : Requester) : (afterPointer p)[p.place r]? = some r := by
  cases p with
  | lane p => exact afterPointer_lane p r
  | writer =>
    cases r with
    | lane l => revert l; decide
    | writer => rfl
    | readout => rfl
    | view => rfl
  | readout =>
    cases r with
    | lane l => revert l; decide
    | writer => rfl
    | readout => rfl
    | view => rfl
  | view =>
    cases r with
    | lane l => revert l; decide
    | writer => rfl
    | readout => rfl
    | view => rfl

theorem afterPointer_nodup (p : Requester) : (afterPointer p).Nodup := by
  cases p with
  | lane p => revert p; decide
  | writer => decide
  | readout => decide
  | view => decide

/-- The waiting requester of the first place is the next one. -/
theorem nextRequester_eq_some {s : State} {r : Requester} (hw : requesterWaits s r = true)
    (hfirst : ∀ r', requesterWaits s r' = true → s.capture.rotation.place r ≤ s.capture.rotation.place r') :
    nextRequester s = some r := by
  obtain ⟨hlt, hr⟩ := List.getElem?_eq_some_iff.1 (afterPointer_place s.capture.rotation r)
  refine List.find?_eq_some_iff_getElem.2 ⟨hw, _, hlt, hr, fun j hj => ?_⟩
  have hjlen := hj.trans hlt
  obtain ⟨hlt', hr'⟩ := List.getElem?_eq_some_iff.1
    (afterPointer_place s.capture.rotation (afterPointer s.capture.rotation)[j])
  have hplace : s.capture.rotation.place (afterPointer s.capture.rotation)[j] = j :=
    (afterPointer_nodup s.capture.rotation).getElem_inj_iff.1 hr'
  rw [Bool.not_eq_true']
  refine Bool.eq_false_iff.2 fun hwj => ?_
  exact absurd hj (Nat.not_lt.2 ((hfirst _ hwj).trans (Nat.le_of_eq hplace)))

theorem nextRequester_eq_none {s : State} (h : ∀ r, requesterWaits s r = false) : nextRequester s = none :=
  List.find?_eq_none.2 fun r _ => Bool.eq_false_iff.1 (h r)

/-- Settles O29: the grant by the watermark, by no requester waiting, and by the first that waits. -/
theorem arbiterRotatesAmongTheWaiting : Obligations.ArbiterRotatesAmongTheWaiting := by
  intro s hdue
  have hgrant : exec .arbiterGrant s = arbitrate s := congrArg arbitrate (settlePostFill_not_due hdue)
  rw [hgrant]
  refine ⟨fun hnone => ?_, fun hlow r hw hfirst => ?_, fun hmark t ht => ?_⟩
  · have hq : s.capture.queue = [] := by
      have hwriter := hnone .writer
      simp only [requesterWaits, Bool.or_eq_false_iff, Bool.not_eq_false', List.isEmpty_iff] at hwriter
      exact hwriter.1
    rw [arbitrate, if_neg (by rw [hq]; decide), nextRequester_eq_none hnone]
  · have hserve : arbitrate s = serve r (setRotation r s) := by
      rw [arbitrate, if_neg (Nat.not_le.2 hlow), nextRequester_eq_some hw hfirst]
      rfl
    rw [hserve]
    refine ⟨fun t ht => serve_rotation ht, fun hr => ?_⟩
    cases r with
    | writer => exact absurd rfl hr
    | readout => exact ⟨_, rfl⟩
    | view => exact ⟨_, rfl⟩
    | lane l => exact ⟨_, rfl⟩
  · rw [arbitrate, if_pos hmark] at ht
    exact writerAccess_rotation_queue ht

end Sys2Proof.Machine
end

section
/-! Chapters 3 and 4: the record readout (R60 to R62) and the commands of the sequencer (R73, R80, R88). -/

namespace Sys2Proof.Machine

/-! ## Record readout -/

theorem segIndexOf_none {seg : Word} {s : State} (h : s.capture.layout ≤ seg.toNat) : segIndexOf seg s = none :=
  if_neg (Nat.not_lt.2 h)

theorem segIndexOf_some {seg : Word} {s : State} (h : seg.toNat < s.capture.layout) :
    segIndexOf seg s = some seg.toNat := if_pos h

theorem closed_iff (d : Segment) : d.closed = true ↔ d.state = .done ∨ d.state = .stopped := by
  simp [Segment.closed]

theorem cmdReadRecords_segment {tag : Tag} {seg start count : Word} {s : State} (h : seg.toNat < s.capture.layout) :
    cmdReadRecords tag seg start count s =
      if s.capture.readout.isSome then refuse .busy s
      else if !(segAt s seg.toNat).closed then refuse .wrongState s
      else
        let first := min start.toNat (segAt s seg.toNat).retained
        let n := recordsToSend (segAt s seg.toNat).retained first count.toNat
        accept [word first, word n]
          (setCapture { s.capture with readout := some ⟨tag, seg.toNat, first, n, first, [], false⟩ } s) := by
  rw [cmdReadRecords, segIndexOf_some h]

/-- A grant that finds only the record readout waiting reads its next record. -/
theorem arbiterGrant_reads {r : RecordReadout} {s : State} (hr : s.capture.readout = some r) (hf : s.rpath.readout = none)
    (hmore : 0 < r.remaining) (hheld : r.held.length < 255) (hq : s.capture.queue = [])
    (hp : s.capture.rotation = .writer) (hdue : postFillDue s = false) :
    exec .arbiterGrant s = .next { s with capture := { s.capture with
        rotation := .readout, turnFrames := true
        readout := some { r with
          next := r.next + 1, remaining := r.remaining - 1, held := r.held ++ [recordAt s r.seg r.next] } } } := by
  have hwaits : r.readWaiting = true := by simp [RecordReadout.readWaiting, Config.recordsPerPacket, hmore, hheld]
  have hrecords : recordsWait s = true := by rw [recordsWait, hr]; exact hwaits
  have hframes : framesWait s = false := by rw [framesWait, hf]
  have hnext : nextRequester s = some .readout := by
    rw [nextRequester, hp]
    exact List.find?_cons_of_pos (by rw [requesterWaits, hrecords]; rfl)
  have hgrant : exec .arbiterGrant s = arbitrate s := congrArg arbitrate (settlePostFill_not_due hdue)
  have hserve : arbitrate s = .next (readoutAccess (setRotation .readout s)) := by
    rw [arbitrate, if_neg (by rw [hq]; decide), hnext]
    rfl
  have hnone : framesWait (setRotation .readout s) = false := hframes
  have hsome : (setRotation .readout s).capture.readout = some r := hr
  rw [hgrant, hserve, readoutAccess, hnone, Bool.false_and, if_neg Bool.false_ne_true, hsome]
  exact congrArg Host.Outcome.next (if_pos hwaits)

/-- Settles O30, by the order of the refusals. -/
theorem recordReadoutLifecycle : Obligations.RecordReadoutLifecycle := by
  intro tag seg start count s hs
  refine ⟨fun h => ?_, fun h => ⟨fun hr => ?_, fun hr => ⟨fun hd hst => ?_, fun first n hd hfirst hn => ?_⟩⟩, ?_,
    fun r hr hf hmore hheld hq _ hp hdue => arbiterGrant_reads hr hf hmore hheld hq hp hdue⟩
  · exact runCommand_refused tag 16 hs (by rw [cmdReadRecords, segIndexOf_none h])
  · exact runCommand_refused tag 16 hs ((cmdReadRecords_segment h).trans (if_pos hr))
  · have hopen : ¬ (segAt s seg.toNat).closed = true := fun hc => ((closed_iff _).1 hc).elim hd hst
    refine runCommand_refused tag 16 hs ((cmdReadRecords_segment h).trans ?_)
    rw [if_neg (by simp [hr]), if_pos (by simpa using hopen)]
  · have hclosed : (segAt s seg.toNat).closed = true := (closed_iff _).2 hd
    subst hfirst
    have hcount : n = recordsToSend (segAt s seg.toNat).retained (min start.toNat (segAt s seg.toNat).retained) count.toNat := by
      rw [hn]
      exact ite_congr (propext BitVec.toNat_eq) (fun _ => rfl) fun _ => rfl
    refine runCommand_accepted tag 16 hs ((cmdReadRecords_segment h).trans ?_)
    rw [if_neg (by simp [hr]), if_neg (by simp [hclosed]), hcount]
    rfl
  · exact runCommand_accepted tag 18 hs rfl

/-! ## Commands of the sequencer -/

/-- The seconds that a SET_CLOCK taken in WAIT_ARM brings to the arm time start the sequencer (R73). -/
theorem secondsChanged_arms {a : Word} {s : State} (hw : s.trigger.state = .waitArm) (ha : s.trigger.armTime = some a) :
    secondsChanged s = if a ≤ s.time.seconds then raise blkTrigger evArmTimeReached (enterRunning s) else s := by
  rw [secondsChanged, hw, ha]

theorem cmdSetCompare_counter {k value : Word} {i : CounterId} {s : State} (hk : k.toNat = i.val) :
    cmdSetCompare k value s =
      accept [((s.trigger.counters[i]).compare (s.trigger.state == .idle) value).active, value]
        (setTrigger { s.trigger with
          counters := s.trigger.counters.set i ((s.trigger.counters[i]).compare (s.trigger.state == .idle) value) } s) := by
  rw [cmdSetCompare, counterOf_eq_some hk]
  rfl

theorem enterRunning_eq {s : State} {st : Stage} {cs : Vector Counter 4} (hst : st = s.trigger.stages.getD 0 Stage.cleared)
    (hcs : ∀ c : CounterId, cs[c] = (s.trigger.counters[c]).enter st.actions[c]) :
    enterRunning s = { s with
      trigger := { s.trigger with
        state := .running, stage := 0, counters := cs
        divX := { s.trigger.divX with phase := 0 }, divY := { s.trigger.divY with phase := 0 } }
      events := if st.watch then s.events.set blkTrigger ((s.events[blkTrigger]).raise evStageWatch) else s.events } := by
  have h := enterStage_spec 0 (setTrigger { s.trigger.holdDividers with state := .running } s) st cs hst hcs
  refine h.trans ?_
  simp only [setTrigger, Trigger.holdDividers, ite_self]

/-- Settles O32, command by command and by the sequencer's state. -/
theorem sequencerCommands : Obligations.SequencerCommands := by
  intro tag pres seconds k value s hs
  refine ⟨fun h => runCommand_refused tag 19 hs (if_pos h), fun h => runCommand_accepted tag 19 hs (if_neg (not_not_intro h)),
    fun hk => runCommand_refused tag 21 hs (by rw [cmdSetCompare, counterOf_eq_none hk]),
    fun i hk => ⟨fun h => runCommand_accepted tag 21 hs ?_, fun h => runCommand_accepted tag 21 hs ?_⟩, fun h => ?_,
    fun h => ?_, fun a hw ha => ⟨fun hlt => ?_, fun hle st cs e hst hcs he => ?_⟩⟩
  · rw [cmdSetCompare_counter hk, beq_iff_eq.2 h]
    rfl
  · rw [cmdSetCompare_counter hk, beq_false_of_ne h]
    rfl
  · refine runCommand_accepted tag 22 hs ?_
    obtain h | h := h <;> rw [cmdForceTrigger, h] <;> rfl
  · refine runCommand_refused tag 22 hs ?_
    obtain h | h := h <;> rw [cmdForceTrigger, h]
  · refine runCommand_accepted tag 8 hs ?_
    have harms := secondsChanged_arms
      (s := setTime { s.time with seconds := seconds, subsecond := 0, intervalCount := 0, withheld := 0 } s) hw ha
    rw [cmdSetClock, harms, if_neg (by exact BitVec.not_le.2 (BitVec.lt_def.2 hlt))]
    rfl
  · refine runCommand_accepted tag 8 hs ?_
    have harms := secondsChanged_arms
      (s := setTime { s.time with seconds := seconds, subsecond := 0, intervalCount := 0, withheld := 0 } s) hw ha
    have henter := enterRunning_eq
      (s := setTime { s.time with seconds := seconds, subsecond := 0, intervalCount := 0, withheld := 0 } s)
      hst fun c => (hcs c).trans (enter_spec _ _).symm
    rw [cmdSetClock, harms, if_pos (by exact BitVec.le_def.2 hle), henter]
    subst he
    cases st.watch
    · rfl
    · simp only [raise, accept, if_true, Vector.set_set, Vector.getElem_set_self, Fin.getElem_fin]
      rfl

end Sys2Proof.Machine
end

section
/-! Chapter 4: counters and dividers (R76 to R78, R82). -/

namespace Sys2Proof.Machine

theorem add_one_mod {c : Nat} (n : Nat) (hc : 0 < c) : (n + 1) % c = if n % c + 1 = c then 0 else n % c + 1 := by
  have hlt := Nat.mod_lt n hc
  rw [← Nat.mod_add_mod]
  split
  · next h => rw [h, Nat.mod_self]
  · exact Nat.mod_eq_of_lt (by omega)

/-- The value steps through 0 to the compare value less 1, and the latch is set once that has been reached. -/
theorem repeat_step_wrap (k : Counter) (h0 : k.value = 0) (hs : k.suppress = false) (hh : k.hold = false)
    (hc : 0 < k.active.toNat) (n : Nat) :
    ∃ (x : Word) (l : Bool), Nat.repeat Counter.step n k = { k with value := x, latch := l } ∧
      x.toNat = n % k.active.toNat ∧ (l = true ↔ k.latch = true ∨ k.active.toNat ≤ n) := by
  induction n with
  | zero =>
    refine ⟨0, k.latch, ?_, (Nat.zero_mod _).symm, by simp [hc.ne']⟩
    rw [← h0]
    rfl
  | succ n ih =>
    obtain ⟨x, l, hrep, hx, hl⟩ := ih
    have hmod := add_one_mod n hc
    have hlt := Nat.mod_lt n hc
    have hmax := k.active.isLt
    have hx1 : (x + 1).toNat = n % k.active.toNat + 1 := by
      rw [BitVec.toNat_add, hx, Nat.mod_eq_of_lt]
      · rfl
      · exact Nat.lt_of_le_of_lt hlt hmax
    obtain ⟨-, hstep, hmatch⟩ := step_spec { k with value := x, latch := l }
    show ∃ x l, Counter.step (Nat.repeat Counter.step n k) = _ ∧ _
    rw [hrep, hmod]
    by_cases hlast : n % k.active.toNat + 1 = k.active.toNat
    · refine ⟨0, true, (hmatch hs (BitVec.eq_of_toNat_eq (hx1.trans hlast))).2 hh, by rw [if_pos hlast]; rfl, ?_⟩
      have := Nat.mod_le n k.active.toNat
      exact iff_of_true rfl (.inr (by omega))
    · refine ⟨x + 1, l, hstep hs fun h => hlast (hx1.symm.trans (congrArg BitVec.toNat h)), by rw [if_neg hlast]; exact hx1, ?_⟩
      have hne : n + 1 ≠ k.active.toNat := fun h => by
        rw [Nat.mod_eq_of_lt (by omega)] at hlast
        exact hlast h
      rw [hl]
      exact or_congr_right (by omega)

theorem tick_eq (d : DividerUnit) :
    d.tick = if d.ratio ≤ d.phase + 1 then ({ d with phase := 0 }, true) else ({ d with phase := d.phase + 1 }, false) := rfl

theorem tick_output (d : DividerUnit) : d.tick.2 = true ↔ d.ratio ≤ d.phase + 1 := by
  rw [tick_eq]
  split
  · exact iff_of_true rfl ‹_›
  · exact iff_of_false Bool.false_ne_true ‹_›

theorem repeat_tick (d : DividerUnit) (h0 : d.phase = 0) (hr : 0 < d.ratio) (n : Nat) :
    Nat.repeat (fun u => u.tick.1) n d = { d with phase := n % d.ratio } := by
  induction n with
  | zero =>
    rw [Nat.zero_mod]
    exact congrArg (DividerUnit.mk d.ratio) h0
  | succ n ih =>
    show (Nat.repeat (fun u => u.tick.1) n d).tick.1 = _
    have hlt := Nat.mod_lt n hr
    rw [ih, tick_eq, add_one_mod n hr]
    dsimp only
    by_cases h : n % d.ratio + 1 = d.ratio
    · rw [if_pos (Nat.le_of_eq h.symm), if_pos h]
    · rw [if_neg (by omega), if_neg h]

theorem stepSource_counters (t : Trigger) (src : CounterSource) (k : CounterId) :
    (t.stepSource src).counters[k] =
      if (t.counters[k]).running = true ∧ (t.counters[k]).source = src then (t.counters[k]).step else t.counters[k] := by
  refine (mapCounters_counters t _ k).trans ?_
  simp only [Bool.and_eq_true, decide_eq_true_eq]

/-- What fires a counter's source, item by item (R77). -/
def sourceFires (tr : Trigger) (ev : Bool) (v : TermValues) (src : CounterSource) : Prop :=
  match src with
  | .sample => ev = true
  | .divX => tr.divX.ratio ≤ tr.divX.phase + 1
  | .divY => tr.divY.ratio ≤ tr.divY.phase + 1
  | .term (.pattern n) => ev = true ∧ v.pattern.getLsbD n = true ∧ tr.prevTerms.pattern.getLsbD n = false
  | .term (.edge n) => ev = true ∧ v.edge.getLsbD n = true ∧ tr.prevTerms.edge.getLsbD n = false
  | .term .glitch => ev = true ∧ v.glitch = true ∧ tr.prevTerms.glitch = false
  | .term .external => ev = true ∧ v.external = true ∧ tr.prevTerms.external = false
  | .term (.field _) => False
  | .term (.counter _) => False
  | .term .always => False

theorem fires_iff (tr : Trigger) (ev : Bool) (v : TermValues) (c : Counter) :
    c.fires ev tr.divX.tick.2 tr.divY.tick.2 v tr.prevTerms = true ↔ c.running = true ∧ sourceFires tr ev v c.source := by
  rw [Counter.fires, Bool.and_eq_true]
  refine and_congr_right fun _ => ?_
  cases c.source with
  | sample => exact Iff.rfl
  | divX => exact tick_output tr.divX
  | divY => exact tick_output tr.divY
  | term src =>
    cases src <;> simp [sourceFires, TermValues.unit, and_assoc]

theorem sequencerSample_not_evaluated (sm : Sample) (n : Nat) (s : State) :
    sequencerSample sm false n s =
      if s.trigger.state = .running then { s with trigger := s.trigger.tickSteps false (s.trigger.termValues sm) } else s := by
  unfold sequencerSample
  split
  · next h => exact (if_pos h).symm
  · next h => exact (if_neg (by simp [h])).symm
  · next h => exact (if_neg (by simp [h])).symm
  · next h => exact (if_neg (by simp [h])).symm

/-- Settles O34: the repeated steps by induction, the rest by the equations of the operations. -/
theorem countersAndDividersRepeat : Obligations.CountersAndDividersRepeat := by
  refine ⟨fun k n h0 hs hh hc => ?_, fun d n h0 hr => ?_, fun k s => ⟨fun hrun hm => ?_, fun h => ?_, fun hrun hd => ?_,
    fun hrun hd => ?_, fun hd => ?_, fun hd => ?_, fun hrun => ?_⟩, step_spec,
    fun tr ev v k fires cs hcs hf => ?_, sequencerSample_not_evaluated, fun n s st cs hst hcs => ?_⟩
  · obtain ⟨x, l, hrep, hx, hl⟩ := repeat_step_wrap k h0 hs hh hc n
    obtain ⟨y, m, hrep', hy, -⟩ := repeat_step_wrap { k with running := true } h0 hs hh hc n
    have hlt := Nat.mod_lt n hc
    have hmax := k.active.isLt
    rw [hrep, hrep']
    refine ⟨hx, ?_, hl⟩
    rw [add_one_mod n hc, Counter.matchDue]
    simp only [hs, Bool.not_false, Bool.and_self, Bool.true_and, beq_iff_eq]
    have hy1 : (y + 1).toNat = n % k.active.toNat + 1 := by
      rw [BitVec.toNat_add, hy, Nat.mod_eq_of_lt]
      · rfl
      · exact Nat.lt_of_le_of_lt hlt hmax
    rw [← BitVec.toNat_inj, hy1]
    split <;> simp_all
  · have hlt := Nat.mod_lt n hr
    rw [repeat_tick d h0 hr n, tick_output, add_one_mod n hr]
    refine ⟨rfl, ?_⟩
    dsimp only
    split <;> omega
  · exact congrArg Host.Outcome.next (if_pos ⟨hrun, hm⟩)
  · exact congrArg Host.Outcome.next (if_neg fun ⟨hrun, hm⟩ => h.elim (· hrun) fun h => by cases (h.symm.trans hm))
  · exact ⟨_, congrArg Host.Outcome.next (if_pos ⟨hrun, hd⟩), stepSource_counters _ _ _⟩
  · exact ⟨_, congrArg Host.Outcome.next (if_pos ⟨hrun, hd⟩), stepSource_counters _ _ _⟩
  · exact congrArg Host.Outcome.next (if_neg fun h => Nat.not_lt.2 h.2 hd)
  · exact congrArg Host.Outcome.next (if_neg fun h => Nat.not_lt.2 h.2 hd)
  · exact ⟨congrArg Host.Outcome.next (if_neg fun h => hrun h.1), congrArg Host.Outcome.next (if_neg fun h => hrun h.1)⟩
  · have hiff : fires ↔ sourceFires tr ev v (tr.counters[k]).source := hf
    subst hcs
    have hcount := tickSteps_counters tr ev v k
    refine ⟨tickSteps_keeps tr ev v, fun hrun hfires => ?_, fun h => ?_⟩
    · exact hcount.trans (if_pos ((fires_iff ..).2 ⟨hrun, hiff.1 hfires⟩))
    · refine hcount.trans (if_neg fun hall => ?_)
      obtain ⟨hrun, hfires⟩ := (fires_iff ..).1 hall
      exact h.elim (fun h => by cases (h.symm.trans hrun)) (· (hiff.2 hfires))
  · exact enterStage_spec n s st cs hst fun c => (hcs c).trans (enter_spec _ _).symm

end Sys2Proof.Machine
end

section
/-! Chapter 4: the sequencer's work at an evaluated sample (R74, R75, R85 to R88). -/

namespace Sys2Proof.Machine

/-! ## The end of a sample -/

/-- Steps 6 of R74 and what is kept for the next sample: latches emptied, sample and term values kept. -/
def sampleEnd (sm : Sample) (v : TermValues) (s : State) : State :=
  keepPrevious sm v (setTrigger s.trigger.emptyLatches s)

theorem sampleEnd_eq (sm : Sample) (v : TermValues) (s : State) :
    sampleEnd sm v s = { s with trigger := { s.trigger with
      latches := Vector.replicate 4 none
      counters := s.trigger.counters.map fun c => { c with latch := false }
      prev := sm, prevTerms := v } } := by
  rw [vector4_map]
  rfl

/-- The four counter values as a trigger records them (R52). -/
def counterValues (t : Trigger) : Vector Word 4 :=
  #v[(t.counters[0]).value, (t.counters[1]).value, (t.counters[2]).value, (t.counters[3]).value]

theorem counterValues_sampleEnd (sm : Sample) (v : TermValues) (s : State) :
    counterValues (sampleEnd sm v s).trigger = counterValues s.trigger := rfl

/-! ## The sample's work by the sequencer's state -/

/-- The state in which a RUNNING sequencer judges an evaluated sample: its count steps made (R74). -/
def stepped (sm : Sample) (s : State) : State :=
  { s with trigger := s.trigger.tickSteps true (s.trigger.termValues sm) }

theorem sequencerSample_running {s : State} (sm : Sample) (n : Nat) (h : s.trigger.state = .running)
    (hf : s.trigger.force = false) :
    sequencerSample sm true n s = sampleEnd sm (s.trigger.termValues sm) (judge (s.trigger.termValues sm) n (stepped sm s)) := by
  rw [sequencerSample, h]
  show keepPrevious sm _ (judgeSample _ n _) = _
  rw [judgeSample, if_neg (by exact Bool.eq_false_iff.1 hf)]
  rfl

/-- The state in which a force is taken: in RUNNING the sample's count steps have been made (R88). -/
def beforeForce (sm : Sample) (s : State) : State := if s.trigger.state = .running then stepped sm s else s

theorem sequencerSample_forced {s : State} (sm : Sample) (n : Nat) (hf : s.trigger.force = true)
    (h : s.trigger.state = .running ∨ s.trigger.state = .waitArm) :
    sequencerSample sm true n s = sampleEnd sm (s.trigger.termValues sm) (takeTrigger n .force (beforeForce sm s)) := by
  obtain h | h := h
  · rw [sequencerSample, h, beforeForce, if_pos h]
    show keepPrevious sm _ (judgeSample _ n _) = _
    rw [judgeSample, if_pos (by exact hf)]
    rfl
  · have hb : beforeForce sm s = s := if_neg (by rw [h]; nofun)
    rw [hb, sequencerSample, h]
    show keepPrevious sm _ (if s.trigger.force then judgeSample _ n s else s) = _
    rw [judgeSample, if_pos hf, if_pos hf]
    rfl

theorem sequencerSample_kept {s : State} (sm : Sample) (n : Nat)
    (h : s.trigger.state = .idle ∨ s.trigger.state = .triggered ∨
      (s.trigger.state = .waitArm ∧ s.trigger.force = false)) :
    sequencerSample sm true n s = keepPrevious sm (s.trigger.termValues sm) s := by
  obtain h | h | ⟨h, hf⟩ := h
  · rw [sequencerSample, h]; rfl
  · rw [sequencerSample, h]; rfl
  · rw [sequencerSample, h, hf]; rfl

/-! ## The trigger -/

/-- The current segment once a trigger has been taken (R52). -/
def Segment.triggered (d : Segment) (time : Nat) (cause : Cause) (wall : Word) (values : Vector Word 4) : Segment :=
  { d with state := .postFill, postCount := 0, trigger := some ⟨time, cause, wall, values⟩ }

/-- What taking the trigger leaves at the end of its sample (R86, R52). -/
theorem takeTrigger_leaves {i : Nat} {s : State} (sm : Sample) (v : TermValues) (time : Nat) (cause : Cause)
    (hc : s.capture.ctl = .capturing i) (hi : i < s.capture.segs.length) :
    let t := sampleEnd sm v (takeTrigger time cause s)
    t.trigger.state = .triggered ∧ t.trigger.force = false ∧ t.trigger.trigOut = true ∧
    t.trigger.divX.phase = 0 ∧ t.trigger.divY.phase = 0 ∧ t.trigger.latches = Vector.replicate 4 none ∧
    t.events = s.events.set blkTrigger ((s.events[blkTrigger]).raise evTriggered) ∧
    counterValues t.trigger = counterValues s.trigger ∧
    segAt t i = (segAt s i).triggered time cause s.time.seconds (counterValues s.trigger) := by
  have hvalues := counterValues_sampleEnd sm v (takeTrigger time cause s)
  have htake : takeTrigger time cause s = raise blkTrigger evTriggered
      (setTrigger { s.trigger.holdDividers with state := .triggered, trigOut := true, force := false }
        (modSeg i (fun d => d.triggered time cause s.time.seconds (counterValues s.trigger)) s)) := by
    rw [takeTrigger, currentSeg_eq_some.2 hc]
    rfl
  rw [htake] at hvalues ⊢
  exact ⟨rfl, rfl, rfl, rfl, rfl, rfl, rfl, hvalues, segAt_of_set (s := s) rfl hi⟩

/-! ## Conditions and prefill hold -/

theorem holdBlocks_stage (s : State) (k : Nat) : holdBlocks s (.stage k) = false := rfl

theorem holdBlocks_trigger {i : Nat} {s : State} (hc : s.capture.ctl = .capturing i) :
    holdBlocks s .trigger = true ↔ s.capture.inForce.hold = true ∧ (segAt s i).written < s.capture.inForce.prefill := by
  simp [holdBlocks, prefillSatisfied, currentSeg_eq_some.2 hc]

theorem holdBlocks_trigger_not {i : Nat} {s : State} (hc : s.capture.ctl = .capturing i)
    (h : s.capture.inForce.hold = false ∨ s.capture.inForce.prefill ≤ (segAt s i).written) :
    holdBlocks s .trigger = false :=
  Bool.eq_false_iff.2 fun hb => by
    obtain ⟨hh, hlt⟩ := (holdBlocks_trigger hc).1 hb
    exact h.elim (fun h => by cases (h.symm.trans hh)) (Nat.not_le.2 hlt)

theorem mayTake_stage (v : TermValues) (c : Condition) (k : Nat) (s : State) :
    mayTake v c (.stage k) s = s.trigger.conditionTrue v c := by
  rw [mayTake, holdBlocks_stage, Bool.not_false, Bool.and_true]

theorem mayTake_trigger {v : TermValues} {c : Condition} {s : State} (h : holdBlocks s .trigger = false) :
    mayTake v c .trigger s = s.trigger.conditionTrue v c := by
  rw [mayTake, h, Bool.not_false, Bool.and_true]

theorem mayTake_blocked {v : TermValues} {c : Condition} {s : State} (h : holdBlocks s .trigger = true) :
    mayTake v c .trigger s = false := by
  rw [mayTake, h, Bool.not_true, Bool.and_false]

theorem mayTake_false {v : TermValues} {c : Condition} {s : State} (h : s.trigger.conditionTrue v c = false) (g : Target) :
    mayTake v c g s = false := by
  rw [mayTake, h, Bool.false_and]

theorem conditionTrue_always (t : Trigger) (v : TermValues) {c : Condition} (h : c.terms = [⟨.always, false⟩]) :
    t.conditionTrue v c = true := by
  simp [Trigger.conditionTrue, h, Trigger.sourceTrue]

/-! ## Judging -/

section
variable {s : State} {st : Stage} (v : TermValues) (n : Nat)
  (hst : s.trigger.stages.getD s.trigger.stage Stage.cleared = st)
include hst

theorem judge_advances (h : mayTake v st.advance st.advanceTo s = true) :
    judge v n s = transition st.advance st.advanceTo n s := by
  rw [judge, hst]
  exact if_pos h

theorem judge_stays (h : mayTake v st.advance st.advanceTo s = false) (ha : st.alternate = none) : judge v n s = s := by
  rw [judge, hst, h, if_neg Bool.false_ne_true, ha]

theorem judge_alternate {c : Condition} {g : Target} (h : mayTake v st.advance st.advanceTo s = false)
    (ha : st.alternate = some (c, g)) :
    judge v n s = if mayTake v c g s then transition c g n s else s := by
  rw [judge, hst, h, if_neg Bool.false_ne_true, ha]

/-- A true condition to TRIGGER that is not blocked takes the trigger, from the advance or from the alternate. -/
theorem judge_triggers {c : Condition} (hc : s.trigger.conditionTrue v c = true) (hb : holdBlocks s .trigger = false)
    (h : (st.advanceTo = .trigger ∧ st.advance = c) ∨
      (s.trigger.conditionTrue v st.advance = false ∧ st.alternate = some (c, .trigger))) :
    judge v n s = takeTrigger (s.trigger.timeAndCause c n).1 (s.trigger.timeAndCause c n).2 s := by
  obtain ⟨hto, rfl⟩ | ⟨hadv, halt⟩ := h
  · rw [judge_advances v n hst (by rw [hto, mayTake_trigger hb, hc]), hto]
    rfl
  · rw [judge_alternate v n hst (mayTake_false hadv _) halt, mayTake_trigger hb, hc]
    rfl

/-- With the trigger blocked, no transition leaves RUNNING or touches the capture store. -/
theorem judge_blocked (hb : holdBlocks s .trigger = true) (hto : st.advanceTo = .trigger) :
    judge v n s = s ∨ ∃ k, judge v n s = enterStage k s := by
  have hadv : mayTake v st.advance st.advanceTo s = false := by rw [hto, mayTake_blocked hb]
  cases ha : st.alternate with
  | none => exact .inl (judge_stays v n hst hadv ha)
  | some a =>
    obtain ⟨c, g⟩ := a
    rw [judge_alternate v n hst hadv ha]
    cases g with
    | trigger =>
      rw [mayTake_blocked hb]
      exact .inl rfl
    | stage k =>
      cases mayTake v c (.stage k) s
      · exact .inl rfl
      · exact .inr ⟨k, rfl⟩

/-- Transitions to a stage: a true advance, else a true alternate, else none (R75). -/
theorem judge_enters {e : State}
    (h : (∃ k, st.advanceTo = .stage k ∧ s.trigger.conditionTrue v st.advance = true ∧ e = enterStage k s) ∨
      (s.trigger.conditionTrue v st.advance = false ∧
        ∃ c k, st.alternate = some (c, .stage k) ∧ s.trigger.conditionTrue v c = true ∧ e = enterStage k s) ∨
      (s.trigger.conditionTrue v st.advance = false ∧
        (∀ c g, st.alternate = some (c, g) → s.trigger.conditionTrue v c = false) ∧ e = s)) :
    judge v n s = e := by
  obtain ⟨k, hto, hcond, rfl⟩ | ⟨hadv, c, k, halt, hcond, rfl⟩ | ⟨hadv, halt, rfl⟩ := h
  · rw [judge_advances v n hst (by rw [hto, mayTake_stage, hcond]), hto]
    rfl
  · rw [judge_alternate v n hst (mayTake_false hadv _) halt, mayTake_stage, hcond]
    rfl
  · cases ha : st.alternate with
    | none => exact judge_stays v n hst (mayTake_false hadv _) ha
    | some a =>
      obtain ⟨c, g⟩ := a
      rw [judge_alternate v n hst (mayTake_false hadv _) ha, mayTake_false (halt c g ha)]
      rfl

end

end Sys2Proof.Machine
end

section
/-! Chapter 4: the trigger at an evaluated sample (R75, R85 to R88). -/

namespace Sys2Proof.Machine

section
variable {s : State} {i : Nat} {st : Stage} {c : Condition} (sm : Sample) (n : Nat)
  (hc : s.capture.ctl = .capturing i) (hi : i < s.capture.segs.length)
  (hrun : s.trigger.state = .running) (hf : s.trigger.force = false)
  (hst : s.trigger.stages.getD s.trigger.stage Stage.cleared = st)
include hc hi hrun hf hst

/-- A sample at which a true condition to TRIGGER is not blocked (R86, R87). -/
theorem sample_triggers (hcond : (stepped sm s).trigger.conditionTrue (s.trigger.termValues sm) c = true)
    (hopen : s.capture.inForce.hold = false ∨ s.capture.inForce.prefill ≤ (segAt s i).written)
    (h : (st.advanceTo = .trigger ∧ st.advance = c) ∨
      ((stepped sm s).trigger.conditionTrue (s.trigger.termValues sm) st.advance = false ∧
        st.alternate = some (c, .trigger))) :
    let t := sequencerSample sm true n s
    let tc := s.trigger.timeAndCause c n
    t.trigger.state = .triggered ∧ t.trigger.trigOut = true ∧
    t.events = s.events.set blkTrigger ((s.events[blkTrigger]).raise evTriggered) ∧
    counterValues t.trigger = counterValues (stepped sm s).trigger ∧
    segAt t i = (segAt s i).triggered tc.1 tc.2 s.time.seconds (counterValues (stepped sm s).trigger) := by
  have hjudge := judge_triggers (s := stepped sm s) (s.trigger.termValues sm) n hst hcond
    (holdBlocks_trigger_not hc hopen) h
  obtain ⟨htrig, -, hout, -, -, -, hev, hvalues, hseg⟩ := takeTrigger_leaves (s := stepped sm s) sm (s.trigger.termValues sm)
    (s.trigger.timeAndCause c n).1 (s.trigger.timeAndCause c n).2 hc hi
  have hsample : sequencerSample sm true n s = sampleEnd sm (s.trigger.termValues sm)
      (takeTrigger (s.trigger.timeAndCause c n).1 (s.trigger.timeAndCause c n).2 (stepped sm s)) :=
    (sequencerSample_running sm n hrun hf).trans (congrArg (sampleEnd sm _) hjudge)
  dsimp only
  rw [hsample]
  exact ⟨htrig, hout, hev, hvalues, hseg⟩

omit hi in
/-- A sample at which prefill hold blocks the advance to TRIGGER (R75). -/
theorem sample_blocked (hto : st.advanceTo = .trigger) (hhold : s.capture.inForce.hold = true)
    (hlow : (segAt s i).written < s.capture.inForce.prefill) :
    let t := sequencerSample sm true n s
    segAt t i = segAt s i ∧ t.trigger.state = .running ∧
    (st.alternate = none → t.trigger.stage = s.trigger.stage ∧ t.events = s.events) ∧
    (∀ (c : Condition) (k : Nat), st.alternate = some (c, .stage k) → c.terms = [⟨.always, false⟩] →
      t.trigger.stage = k) := by
  have hblock : holdBlocks (stepped sm s) .trigger = true := (holdBlocks_trigger hc).2 ⟨hhold, hlow⟩
  have hsample := sequencerSample_running sm n hrun hf
  have hjudge := judge_blocked (s := stepped sm s) (s.trigger.termValues sm) n hst hblock hto
  have hadv : mayTake (s.trigger.termValues sm) st.advance st.advanceTo (stepped sm s) = false := by
    rw [hto, mayTake_blocked hblock]
  have hseg : segAt (judge (s.trigger.termValues sm) n (stepped sm s)) i = segAt s i ∧
      (judge (s.trigger.termValues sm) n (stepped sm s)).trigger.state = .running := by
    obtain hj | ⟨k, hj⟩ := hjudge
    · rw [hj]
      exact ⟨rfl, hrun⟩
    · rw [hj, enterStage_trigger]
      refine ⟨?_, hrun⟩
      rw [segAt, show ∀ u, (enterStage k u).capture = u.capture from fun u => by simp]
      rfl
  dsimp only
  rw [hsample]
  refine ⟨hseg.1, hseg.2, fun ha => ?_, fun c k ha hall => ?_⟩
  · have hstay := judge_stays (s := stepped sm s) (s.trigger.termValues sm) n hst hadv ha
    rw [hstay]
    exact ⟨rfl, rfl⟩
  · have halt := judge_alternate (s := stepped sm s) (s.trigger.termValues sm) n hst hadv ha
    rw [mayTake_stage, conditionTrue_always _ _ hall, if_pos rfl] at halt
    rw [halt]
    show (enterStage k (stepped sm s)).trigger.stage = k
    rw [enterStage_trigger]
    rfl

end

/-- A FIELD term alone that is false triggers nothing. -/
theorem conditionTrue_field_alone (t : Trigger) (v : TermValues) {c : Condition} {f : Fin 4}
    (h : c.terms = [⟨.field f, false⟩]) : t.conditionTrue v c = (t.latches[f]).isSome := by
  simp [Trigger.conditionTrue, h, Trigger.sourceTrue]

theorem timeAndCause_none {t : Trigger} {c : Condition} (n : Nat) (h : t.fieldTicks c = []) :
    t.timeAndCause c n = (n, .sequencer) := by
  rw [Trigger.timeAndCause, h]

theorem timeAndCause_cons {t : Trigger} {c : Condition} {e : Nat} {rest : List Nat} (n : Nat)
    (h : t.fieldTicks c = e :: rest) : t.timeAndCause c n = (rest.foldl min e, .field) := by
  rw [Trigger.timeAndCause, h]

/-- The cases of one and of two FIELD terms, under OR, and negated: the condition is true, with the time and the cause that
belong to it (R87). -/
theorem field_condition (t u : Trigger) (v : TermValues) (c : Condition) (f g : Fin 4) (n time : Nat) (cause : Cause)
    (hl : u.latches = t.latches)
    (h : (∃ e, c.terms = [⟨.field f, false⟩] ∧ t.latches[f] = some e ∧ time = e ∧ cause = .field) ∨
        (∃ e e', c.terms = [⟨.field f, false⟩, ⟨.field g, false⟩] ∧ t.latches[f] = some e ∧
          t.latches[g] = some e' ∧ time = min e e' ∧ cause = .field) ∨
        (∃ e, c.any = true ∧ c.terms = [⟨.field f, false⟩, ⟨.always, false⟩] ∧
          t.latches[f] = some e ∧ time = e ∧ cause = .field) ∨
        (c.any = true ∧ c.terms = [⟨.field f, false⟩, ⟨.always, false⟩] ∧
          t.latches[f] = none ∧ time = n ∧ cause = .sequencer) ∨
        (c.terms = [⟨.field f, true⟩] ∧ t.latches[f] = none ∧ time = n ∧ cause = .sequencer)) :
    u.conditionTrue v c = true ∧ t.timeAndCause c n = (time, cause) := by
  have hu : ∀ k : Fin 4, u.latches[k] = t.latches[k] := fun k => by rw [hl]
  obtain ⟨e, ht, hf, rfl, rfl⟩ | ⟨e, e', ht, hf, hg, rfl, rfl⟩ | ⟨e, hany, ht, hf, rfl, rfl⟩ |
    ⟨hany, ht, hf, rfl, rfl⟩ | ⟨ht, hf, rfl, rfl⟩ := h
  · refine ⟨?_, timeAndCause_cons n (rest := []) ?_⟩
    · rw [conditionTrue_field_alone u v ht, hu, hf]
      rfl
    · simp only [Trigger.fieldTicks, ht, List.filterMap, hf]
      rfl
  · refine ⟨?_, timeAndCause_cons n (rest := [e']) ?_⟩
    · have hf' : u.latches[f.val] = some e := (hu f).trans hf
      have hg' : u.latches[g.val] = some e' := (hu g).trans hg
      simp [Trigger.conditionTrue, ht, Trigger.sourceTrue, hf', hg']
    · simp only [Trigger.fieldTicks, ht, List.filterMap, hf, hg]
      rfl
  · refine ⟨?_, timeAndCause_cons n (rest := []) ?_⟩
    · simp [Trigger.conditionTrue, ht, Trigger.sourceTrue, hany]
    · simp only [Trigger.fieldTicks, ht, List.filterMap, hf]
      rfl
  · refine ⟨?_, timeAndCause_none _ ?_⟩
    · simp [Trigger.conditionTrue, ht, Trigger.sourceTrue, hany]
    · simp only [Trigger.fieldTicks, ht, List.filterMap, hf]
      rfl
  · refine ⟨?_, timeAndCause_none _ ?_⟩
    · have hf' : u.latches[f.val] = none := (hu f).trans hf
      simp [Trigger.conditionTrue, ht, Trigger.sourceTrue, hf']
    · simp only [Trigger.fieldTicks, ht, List.filterMap]
      rfl

/-- Settles O35: the force, the trigger on ALWAYS and on FIELD terms, any condition to TRIGGER, the values of the terms, and
the transitions to a stage. -/
theorem sequencerTakesTheTrigger : Obligations.SequencerTakesTheTrigger := by
  refine ⟨fun sm n i s t hc hi ht => ?_, fun tr sm v hv => ?_, fun sm n s r e st u v hst hv hu hr => ⟨fun hrun hf h => ?_, fun h => ?_⟩⟩
  · subst ht
    refine ⟨fun hf hrun => ?_, fun st hrun hf hst hall hto => ⟨fun hopen => ?_, fun hhold hlow => ?_⟩,
      fun st f g time cause hrun hf hst hto halt hopen => ⟨fun h => ?_, fun hterms hl => ?_⟩,
      fun st c u v hrun hf hst hv hu hcond hopen h => ?_⟩
    · have hbc : (beforeForce sm s).capture = s.capture ∧ (beforeForce sm s).events = s.events ∧
          (beforeForce sm s).time = s.time := by
        unfold beforeForce
        split <;> exact ⟨rfl, rfl, rfl⟩
      obtain ⟨hcap, hev, htime⟩ := hbc
      obtain ⟨htrig, hforce, hout, hx, hy, hlatch, hevents, hvalues, hseg⟩ := takeTrigger_leaves (s := beforeForce sm s) sm
        (s.trigger.termValues sm) n .force (by rw [hcap]; exact hc) (by rw [hcap]; exact hi)
      rw [sequencerSample_forced sm n hf hrun]
      rw [hev] at hevents
      rw [← hvalues, htime, show segAt (beforeForce sm s) i = segAt s i by rw [segAt, hcap]; rfl] at hseg
      exact ⟨htrig, hforce, hout, hx, hy, hlatch, hevents, hseg⟩
    · obtain ⟨htrig, hout, -, hvalues, hseg⟩ := sample_triggers sm n hc hi hrun hf hst (conditionTrue_always _ _ hall)
        hopen (.inl ⟨hto, rfl⟩)
      rw [timeAndCause_none n (by simp [Trigger.fieldTicks, hall]), ← hvalues] at hseg
      exact ⟨htrig, hout, hseg⟩
    · exact sample_blocked sm n hc hrun hf hst hto hhold hlow
    · obtain ⟨hcond, htc⟩ := field_condition s.trigger (stepped sm s).trigger (s.trigger.termValues sm) st.advance f g n time
        cause rfl h
      obtain ⟨htrig, -, -, -, hseg⟩ := sample_triggers sm n hc hi hrun hf hst hcond hopen (.inl ⟨hto, rfl⟩)
      rw [hseg, htc]
      exact ⟨htrig, rfl, rfl⟩
    · have hcond : (stepped sm s).trigger.conditionTrue (s.trigger.termValues sm) st.advance = false := by
        rw [conditionTrue_field_alone _ _ hterms]
        show (s.trigger.latches[f]).isSome = false
        rw [hl]
        rfl
      rw [sequencerSample_running sm n hrun hf, judge_stays (s := stepped sm s) _ n hst (mayTake_false hcond _) halt]
      exact ⟨hrun, rfl⟩
    · subst hst hv hu
      obtain ⟨htrig, hout, hev, -, hseg⟩ := sample_triggers sm n hc hi hrun hf rfl hcond hopen h
      obtain ⟨hfield, hnone⟩ := timeAndCause_spec s.trigger c n
      exact ⟨htrig, hout, hev, _, _, hseg, hfield, hnone⟩
  · subst hv
    refine ⟨fun n => ⟨fun h => ?_, fun u now before h hnow hbefore => ?_, fun h => ?_, fun u h => ?_⟩, fun h => ?_,
      fun m h => ?_, rfl, rfl, fun n => rfl, fun n => rfl, conditionTrue_spec tr _⟩
    · rw [sourceTrue_pattern, h]
      rfl
    · rw [sourceTrue_pattern, h, hnow, hbefore]
      exact patternTerm_spec u _ _
    · rw [sourceTrue_edge, h]
      rfl
    · rw [sourceTrue_edge, h]
      exact edgeTerm_spec u _ _
    · show glitchTerm tr.glitchUnit sm.glitch = false
      rw [h]
      rfl
    · show glitchTerm tr.glitchUnit sm.glitch = true ↔ _
      rw [h]
      exact glitchTerm_spec m _
  · subst hst hv hu hr
    have hjudge := judge_enters (s := stepped sm s) (s.trigger.termValues sm) n rfl h
    rw [sequencerSample_running sm n hrun hf, hjudge]
    exact sampleEnd_eq sm _ e
  · subst hv
    exact sequencerSample_kept sm n h

end Sys2Proof.Machine
end

section
/-! Chapter 4: the field comparators (R83 to R85). -/

namespace Sys2Proof.Machine

/-- A comparator that names the frame's lane and whose enabled items all match (R84). -/
def Trigger.hears (t : Trigger) (n : Fin 4) (r : FrameRecord) (a : Option Word) : Bool :=
  match t.comps[n] with
  | none => false
  | some c => decide (c.lane = r.lane) && c.accepts r a

/-- A latch that keeps the earliest tick. -/
def earliest (l : Option Nat) (tick : Nat) : Nat :=
  match l with
  | none => tick
  | some e => min e tick

/-- A counter at a match of comparator `n`: one step when it runs and counts that comparator. -/
def Counter.atField (c : Counter) (n : Fin 4) (heard : Bool) : Counter :=
  if heard = true ∧ c.running = true ∧ c.source = .term (.field n) then c.step else c

theorem step_source (c : Counter) : c.step.source = c.source := by
  unfold Counter.step
  split
  · rfl
  · split
    · split <;> rfl
    · rfl

theorem atField_source (c : Counter) (n : Fin 4) (h : Bool) : (c.atField n h).source = c.source := by
  unfold Counter.atField
  split
  · exact step_source c
  · rfl

theorem atField_other {c : Counter} {n : Fin 4} (h : Bool) (hc : c.source ≠ .term (.field n)) : c.atField n h = c :=
  if_neg fun h => hc h.2.2

theorem atField_halted {c : Counter} (n : Fin 4) (h : Bool) (hc : c.running = false) : c.atField n h = c :=
  if_neg fun h => by cases (hc.symm.trans h.2.1)

variable (t : Trigger) (r : FrameRecord) (a : Option Word)

theorem hears_some {n : Fin 4} {c : Comparator} (h : t.comps[n] = some c) :
    t.hears n r a = (decide (c.lane = r.lane) && c.accepts r a) := by
  rw [Trigger.hears, h]

theorem hears_none {n : Fin 4} (h : t.comps[n] = none) : t.hears n r a = false := by
  rw [Trigger.hears, h]

theorem offerTo_eq (n : Fin 4) : t.offerTo n r a = if t.hears n r a then t.fieldMatch n r.endTick else t := by
  unfold Trigger.offerTo
  split
  · next h => rw [hears_none t r a h, if_neg Bool.false_ne_true]
  · next c h =>
    rw [hears_some t r a h]
    exact ite_congr (by simp only [Bool.and_eq_true, decide_eq_true_eq]) (fun _ => rfl) fun _ => rfl

theorem fieldMatch_eq (n : Fin 4) (tick : Nat) :
    t.fieldMatch n tick = { t with latches := t.latches.set n (some (earliest t.latches[n] tick)) }.stepSource (.term (.field n)) :=
  rfl

theorem offerTo_keeps (n : Fin 4) :
    t.offerTo n r a = { t with latches := (t.offerTo n r a).latches, counters := (t.offerTo n r a).counters } := by
  rw [offerTo_eq]
  split <;> rfl

theorem offerTo_hears (n m : Fin 4) : (t.offerTo n r a).hears m r a = t.hears m r a := by
  rw [offerTo_keeps]
  rfl

theorem offerTo_latches (n m : Fin 4) : (t.offerTo n r a).latches[m] =
    if m = n ∧ t.hears n r a = true then some (earliest t.latches[n] r.endTick) else t.latches[m] := by
  rw [offerTo_eq]
  by_cases h : t.hears n r a = true
  · rw [if_pos h]
    show (t.latches.set n _)[m] = _
    by_cases hm : m = n
    · subst hm
      rw [if_pos ⟨rfl, h⟩]
      exact Vector.getElem_set_self _
    · rw [if_neg fun h => hm h.1]
      exact Vector.getElem_set_ne _ _ fun he => hm (Fin.ext he.symm)
  · rw [if_neg h, if_neg fun hh => h hh.2]

theorem offerTo_counters (n : Fin 4) (k : CounterId) :
    (t.offerTo n r a).counters[k] = (t.counters[k]).atField n (t.hears n r a) := by
  rw [offerTo_eq, Counter.atField]
  by_cases h : t.hears n r a = true
  · rw [if_pos h, fieldMatch_eq, stepSource_counters]
    exact ite_congr (propext ⟨fun hc => ⟨h, hc⟩, fun hc => hc.2⟩) (fun _ => rfl) fun _ => rfl
  · rw [if_neg h, if_neg fun hh => h hh.1]

/-! ## The four comparators in turn -/

theorem offer_not (h : t.state ≠ .running ∨ r.isReplay = true) : t.offer r a = t :=
  if_neg fun ⟨hrun, hlive⟩ => h.elim (· hrun) fun h => by cases (hlive.symm.trans h)

theorem offer_keeps :
    t.offer r a = { t with latches := (t.offer r a).latches, counters := (t.offer r a).counters } := by
  have hk := fun t n => offerTo_keeps t r a n
  unfold Trigger.offer
  split
  · rw [hk _ 3, hk _ 2, hk _ 1, hk t 0]
  · rfl

variable {t r}

theorem offer_running (hrun : t.state = .running) (hlive : r.isReplay = false) :
    t.offer r a = (((t.offerTo 0 r a).offerTo 1 r a).offerTo 2 r a).offerTo 3 r a := if_pos ⟨hrun, hlive⟩

theorem offer_latches (hrun : t.state = .running) (hlive : r.isReplay = false) (n : Fin 4) :
    (t.offer r a).latches[n] = if t.hears n r a = true then some (earliest t.latches[n] r.endTick) else t.latches[n] := by
  rw [offer_running a hrun hlive]
  simp only [offerTo_latches, offerTo_hears]
  match n with
  | 0 => simp
  | 1 => simp
  | 2 => simp
  | 3 => simp

theorem offer_counters (hrun : t.state = .running) (hlive : r.isReplay = false) (k : CounterId) :
    (t.offer r a).counters[k] = ((((t.counters[k]).atField 0 (t.hears 0 r a)).atField 1 (t.hears 1 r a)).atField 2
      (t.hears 2 r a)).atField 3 (t.hears 3 r a) := by
  rw [offer_running a hrun hlive]
  simp only [offerTo_counters, offerTo_hears]

/-- Of the four comparators only the one that a counter counts can step it. -/
theorem offer_counter_of_source (hrun : t.state = .running) (hlive : r.isReplay = false) {k : CounterId} {f : Fin 4}
    (hs : (t.counters[k]).source = .term (.field f)) :
    (t.offer r a).counters[k] = (t.counters[k]).atField f (t.hears f r a) := by
  have hother : ∀ (c : Counter) (n : Fin 4) h, c.source = .term (.field f) → n ≠ f → c.atField n h = c :=
    fun c n h hc hn => atField_other h (by rw [hc]; simpa using Ne.symm hn)
  rw [offer_counters a hrun hlive]
  match f with
  | 0 => rw [hother _ 3 _ (by simp only [atField_source, hs]) (by decide), hother _ 2 _ (by simp only [atField_source, hs]) (by decide),
      hother _ 1 _ (by simp only [atField_source, hs]) (by decide)]
  | 1 => rw [hother _ 3 _ (by simp only [atField_source, hs]) (by decide), hother _ 2 _ (by simp only [atField_source, hs]) (by decide),
      hother _ 0 _ hs (by decide)]
  | 2 => rw [hother _ 3 _ (by simp only [atField_source, hs]) (by decide), hother _ 0 _ hs (by decide), hother _ 1 _ hs (by decide)]
  | 3 => rw [hother _ 0 _ hs (by decide), hother _ 1 _ hs (by decide), hother _ 2 _ hs (by decide)]

theorem offer_counter_idle (hrun : t.state = .running) (hlive : r.isReplay = false) {k : CounterId}
    (h : (t.counters[k]).running = false ∨ ∀ f : Fin 4, (t.counters[k]).source ≠ .term (.field f)) :
    (t.offer r a).counters[k] = t.counters[k] := by
  have hidle : ∀ n b, (t.counters[k]).atField n b = t.counters[k] := fun n b =>
    h.elim (atField_halted n b) fun h => atField_other b (h n)
  rw [offer_counters a hrun hlive]
  simp only [hidle]

/-! ## What a comparator accepts -/

theorem accepts_iff (c : Comparator) (r : FrameRecord) (address : Option Word) : c.accepts r address = true ↔
    (∀ k, c.kindTag = some k → r.tag = k.toNat) ∧
    (∀ set, c.codes = some set → set.getLsbD r.code.code = true) ∧
    (∀ v m, c.address = some (v, m) → ∃ a, address = some a ∧ a &&& m = v &&& m) ∧
    (∀ d, c.data = some d → d.offset + d.length ≤ r.data.length ∧ ∀ j, j < d.length →
      r.data.getD (d.offset + j) 0 &&& byteOf d.mask j = byteOf d.value j &&& byteOf d.mask j) ∧
    (∀ u, c.units = some (.eq, u) → r.units = u) ∧ (∀ u, c.units = some (.ge, u) → u ≤ r.units) ∧
    (∀ u, c.units = some (.le, u) → r.units ≤ u) := by
  unfold Comparator.accepts
  simp only [Bool.and_eq_true, and_assoc]
  refine and_congr ?_ (and_congr ?_ (and_congr ?_ (and_congr ?_ ?_)))
  · cases c.kindTag <;> simp
  · cases c.codes <;> simp
  · cases c.address with
    | none => simp
    | some p =>
      obtain ⟨v, m⟩ := p
      cases address <;> simp
  · cases c.data with
    | none => simp
    | some d => simp [DataItem.byteMatches]
  · cases c.units with
    | none => simp
    | some p =>
      obtain ⟨cmp, m⟩ := p
      cases cmp <;> simp

/-- Settles O36, by whether the comparator hears the frame. -/
theorem fieldComparatorsLatchTheEarliest : Obligations.FieldComparatorsLatchTheEarliest := by
  intro t r address
  have hmissed : ∀ {n : Fin 4} {c : Comparator}, t.comps[n] = some c → c.lane ≠ r.lane ∨ c.accepts r address = false →
      t.hears n r address = false := fun hc h => by
    rw [hears_some t r address hc]
    obtain h | h := h <;> simp [h]
  have hheard : ∀ {n : Fin 4} {c : Comparator}, t.comps[n] = some c → c.lane = r.lane → c.accepts r address = true →
      t.hears n r address = true := fun hc hl ha => by
    rw [hears_some t r address hc]
    simp [hl, ha]
  refine ⟨fun hrun hlive n => ⟨fun c hc hl ha => ?_, fun hc => ?_, fun c hc h => ?_, offer_counter_idle address hrun hlive,
      fun f c hr hs hc => ⟨fun hl ha => ?_, fun h => ?_⟩⟩, fun c => accepts_iff c r address, offer_not t r address,
    offer_keeps t r address⟩
  · rw [offer_latches address hrun hlive, if_pos (hheard hc hl ha)]
    rfl
  · rw [offer_latches address hrun hlive, hears_none t r address hc]
    rfl
  · rw [offer_latches address hrun hlive, hmissed hc h]
    rfl
  · rw [offer_counter_of_source address hrun hlive hs]
    exact if_pos ⟨hheard hc hl ha, hr, hs⟩
  · rw [offer_counter_of_source address hrun hlive hs, hmissed hc h]
    exact if_neg fun h => Bool.false_ne_true h.1

end Sys2Proof.Machine
end

section
/-! Chapter 4 and section 11.3: LOAD_TRIGGER, its static rules and what a program that keeps them means (R66, R67). -/

namespace Sys2Proof.Machine.ProgramImage

/-- The rules of R67 on one counter. -/
def counterOk (w : Nat → Word) (i : Nat) : Prop :=
  field (w (43 + 2 * i)) 1 2 = 3 → sourceNamed w (field (w (43 + 2 * i)) 8 5) ∧
    ¬(18 ≤ field (w (43 + 2 * i)) 8 5 ∧ field (w (43 + 2 * i)) 8 5 < 22) ∧ field (w (43 + 2 * i)) 8 5 ≠ 26

/-- The static rules on the words of a program of `n` stages. -/
structure ProgramOk (w : Nat → Word) (n : Nat) : Prop where
  edges : ∀ i, i < 8 → field (w (25 + 2 * i)) 1 2 ≠ 3
  comps : ∀ i, i < 4 → comparatorOk w i
  counters : ∀ i, i < 4 → counterOk w i
  stages : ∀ j, j < n → stageOk w n j

/-- The tables of codes of section 11.3 that give an image its meaning. -/
structure Codes where
  source : Nat → TermSource
  target : Nat → Target
  action : Nat → Action
  edge : Nat → Edge
  lane : Nat → LaneId
  compare : Nat → Comparison

/-- The tables hold for a program of `n` stages. -/
structure Codes.Hold (k : Codes) (n : Nat) : Prop where
  source : SourceTable k.source
  stage : ∀ g, g < n → k.target g = .stage g
  trigger : k.target 8 = .trigger
  action : k.action 0 = .keep ∧ k.action 1 = .clear ∧ k.action 2 = .run ∧ k.action 3 = .halt
  edge : k.edge 0 = .rising ∧ k.edge 1 = .falling ∧ k.edge 2 = .both
  lane : ∀ l : LaneId, k.lane l.val = l
  compare : k.compare 0 = .eq ∧ k.compare 1 = .ge ∧ k.compare 2 = .le

/-- Tables that hold for every stage count of at most 8. -/
def standardCodes : Codes where
  source c := (termSourceOf c).getD .always
  target g := if g = 8 then .trigger else .stage g
  action := actionOf
  edge e := (edgeOf e).getD .rising
  lane l := (laneOf (word l)).getD 0
  compare c := (comparisonOf c).getD .eq

theorem standardCodes_hold {n : Nat} (hn : n ≤ 8) : standardCodes.Hold n where
  source := ⟨by decide, rfl, rfl, rfl, by decide⟩
  stage := fun g hg => if_neg (by omega)
  trigger := rfl
  action := ⟨rfl, rfl, rfl, rfl⟩
  edge := ⟨rfl, rfl, rfl⟩
  lane := by decide
  compare := ⟨rfl, rfl, rfl⟩

/-- The units that the words give. -/
def unitsOfWords (w : Nat → Word) (k : Codes) : Units where
  patterns := #v[patternOfWords w 0, patternOfWords w 1, patternOfWords w 2, patternOfWords w 3, patternOfWords w 4,
    patternOfWords w 5, patternOfWords w 6, patternOfWords w 7]
  edges := #v[edgeOfWords w k.edge 0, edgeOfWords w k.edge 1, edgeOfWords w k.edge 2, edgeOfWords w k.edge 3,
    edgeOfWords w k.edge 4, edgeOfWords w k.edge 5, edgeOfWords w k.edge 6, edgeOfWords w k.edge 7]
  glitchUnit := if (w 41).getLsbD 0 then some (w 42) else none
  comps := #v[comparatorOfWords w k.lane k.compare 0, comparatorOfWords w k.lane k.compare 1,
    comparatorOfWords w k.lane k.compare 2, comparatorOfWords w k.lane k.compare 3]

theorem isSome_ite {α : Type} (b : Bool) (x : α) : (if b = true then some x else none).isSome = b := by
  cases b <;> rfl

theorem unitsOfWords_of (w : Nat → Word) (k : Codes) : UnitsOf w (unitsOfWords w k) where
  p := fun i => by match i with | 0 | 1 | 2 | 3 | 4 | 5 | 6 | 7 => exact isSome_ite _ _
  e := fun i => by match i with | 0 | 1 | 2 | 3 | 4 | 5 | 6 | 7 => exact isSome_ite _ _
  g := isSome_ite _ _
  c := fun i => by match i with | 0 | 1 | 2 | 3 => exact isSome_ite _ _

/-- The sequencer that the words of a program load (R66). -/
def loaded (t : Trigger) (w : Nat → Word) (k : Codes) (n : Nat) : Trigger :=
  let u := unitsOfWords w k
  { t with
    stage := 0
    stages := (List.range n).map (stageOfWords w k.source k.target k.action)
    patterns := u.patterns, edges := u.edges, glitchUnit := u.glitchUnit, comps := u.comps
    counters := #v[counterOfWords w k.source 0, counterOfWords w k.source 1, counterOfWords w k.source 2,
      counterOfWords w k.source 3]
    divX := loadDivider (w 51), divY := loadDivider (w 52)
    latches := Vector.replicate 4 none }

section
variable {image : List Word} {w : Nat → Word} {n : Nat} (t : Trigger) {k : Codes}
  (hw : ∀ i, w i = image.getD i 0) (h1 : 1 ≤ n) (h8 : n ≤ 8) (hlen : image.length = 85 + 4 * n) (h0 : (w 0).toNat = n)
include hw

theorem imageAt_eq (i : Nat) : imageAt image i = w i := (hw i).symm

include hlen in
theorem parseStages_image (u : Units) :
    parseStages u n (image.drop 85) = (List.range n).map fun j =>
      parseStage u n (w (85 + 4 * j)) (w (86 + 4 * j)) (w (87 + 4 * j)) (w (88 + 4 * j)) := by
  have h := parseStages_spec image n hlen w hw u n n 0 (Nat.zero_add n)
  simp only [Nat.zero_add] at h
  exact h

include h1 h8 hlen h0

theorem load_ok (hk : k.Hold n) (h : ProgramOk w n) : t.load image = some (loaded t w k n) := by
  have hu := unitsOfWords_of w k
  have hunits : parseUnits image = some (unitsOfWords w k) :=
    (parseUnits_spec image w hw k.edge hk.edge k.lane k.compare hk.lane hk.compare).1 ⟨h.edges, h.comps⟩
  have hcount : ∀ i, i < 4 → parseCounter (unitsOfWords w k) (w (43 + 2 * i)) (w (44 + 2 * i)) =
      some (counterOfWords w k.source i) := fun i hi => (parseCounter_spec hu hk.source i).1 (h.counters i hi)
  have hstages : allSome (parseStages (unitsOfWords w k) n (image.drop 85)) =
      some ((List.range n).map (stageOfWords w k.source k.target k.action)) := by
    rw [parseStages_image hw hlen]
    exact allSome_range _ _ n fun j hj =>
      (parseStage_spec hu hk.source n h8 k.target hk.stage hk.trigger k.action hk.action j).1 (h.stages j hj)
  unfold Trigger.load
  simp only [imageAt_eq hw, h0]
  rw [if_neg (by omega), hunits]
  dsimp only
  rw [hcount 0 (by decide), hcount 1 (by decide), hcount 2 (by decide), hcount 3 (by decide), hstages]
  rfl

theorem load_refused (h : ¬ ProgramOk w n) : t.load image = none := by
  have hk := standardCodes_hold h8
  unfold Trigger.load
  simp only [imageAt_eq hw, h0]
  rw [if_neg (by omega)]
  have hunits := parseUnits_spec image w hw _ hk.edge _ _ hk.lane hk.compare
  by_cases hu : (∀ i, i < 8 → field (w (25 + 2 * i)) 1 2 ≠ 3) ∧ (∀ i, i < 4 → comparatorOk w i)
  · have hparse : parseUnits image = some (unitsOfWords w standardCodes) := hunits.1 hu
    rw [hparse]
    dsimp only
    have hunit := unitsOfWords_of w standardCodes
    by_cases hc : ∀ i, i < 4 → counterOk w i
    · have hstage : ∃ j, j < n ∧ ¬ stageOk w n j := by
        by_contra hall
        exact h ⟨hu.1, hu.2, hc, fun j hj => by_contra fun hbad => hall ⟨j, hj, hbad⟩⟩
      obtain ⟨j, hj, hbad⟩ := hstage
      rw [parseStages_image hw hlen, allSome_range_none _ n j hj
        ((parseStage_spec hunit hk.source n h8 _ hk.stage hk.trigger _ hk.action j).2 hbad)]
      split
      · next h => cases h
      · rfl
    · split
      · next h0 h1 h2 h3 _ =>
        refine absurd (fun i hi => by_contra fun hbad => ?_) hc
        have hnone := (parseCounter_spec hunit hk.source i).2 hbad
        match i, hi with
        | 0, _ => cases (hnone.symm.trans h0)
        | 1, _ => cases (hnone.symm.trans h1)
        | 2, _ => cases (hnone.symm.trans h2)
        | 3, _ => cases (hnone.symm.trans h3)
      · rfl
  · rw [hunits.2 hu]

end

/-! ## The command -/

section
variable {image : List Word} {s : State}

theorem cmdLoadTrigger_long (h : s.trigger.state = .idle) (hlen : image.length ≠ 85 + 4 * (imageAt image 0).toNat) :
    cmdLoadTrigger image s = refuse .badLength s := by
  rw [cmdLoadTrigger, if_neg (not_not_intro h), if_pos hlen]

theorem cmdLoadTrigger_judged (h : s.trigger.state = .idle) (hlen : image.length = 85 + 4 * (imageAt image 0).toNat) :
    cmdLoadTrigger image s = match s.trigger.load image with
      | none => refuse .badArgument s
      | some t => accept [word t.stages.length] (setTrigger t s) := by
  rw [cmdLoadTrigger]
  exact (if_neg (not_not_intro h)).trans (if_neg (not_not_intro hlen))

theorem load_no_stages (t : Trigger) (h : (imageAt image 0).toNat = 0 ∨ 8 < (imageAt image 0).toNat) :
    t.load image = none := by
  rw [Trigger.load, if_pos (by omega)]

theorem take_refused (tag : Tag) (ptype : BitVec 4) (code : BitVec 8) {f : Command} {rc : RespCode}
    (hs : canDispatch s = true) (hf : f s = refuse rc s) :
    runCommand tag ptype code f s = .next (placeResponse ⟨tag, ptype, code, rc, []⟩ s) := by
  rw [runCommand, if_pos hs, take, hf]
  rfl

theorem take_accepted (tag : Tag) (ptype : BitVec 4) (code : BitVec 8) {f : Command} {ws : List Word} {t : State}
    (hs : canDispatch s = true) (hf : f s = accept ws t) :
    runCommand tag ptype code f s = .next (placeResponse ⟨tag, ptype, code, .ok, ws⟩ t) := by
  rw [runCommand, if_pos hs, take, hf]
  rfl

end

/-! ## An image of zeros but for one pattern, the glitch unit, the compares and the ratios -/

/-- That image. -/
def plainImage (n : Nat) (p0 p1 p2 g0 g1 c0 c1 c2 c3 dx dy : Word) : List Word :=
  word n :: p0 :: p1 :: p2 :: (List.replicate 37 0 ++ [g0, g1, 0, c0, 0, c1, 0, c2, 0, c3, dx, dy] ++
    List.replicate (32 + 4 * n) 0)

theorem getD_append_replicate (xs : List Word) (m i : Nat) : (xs ++ List.replicate m 0).getD i 0 = xs.getD i 0 := by
  rw [List.getD_eq_getElem?_getD, List.getD_eq_getElem?_getD]
  by_cases h : i < xs.length
  · rw [List.getElem?_append_left h]
  · rw [List.getElem?_append_right (Nat.le_of_not_lt h), List.getElem?_eq_none (Nat.le_of_not_lt h),
      List.getElem?_replicate]
    split <;> rfl

/-- The words that the image may give a value. -/
def plainWord (i : Nat) : Prop := i = 41 ∨ i = 42 ∨ i = 44 ∨ i = 46 ∨ i = 48 ∨ i = 50 ∨ i = 51 ∨ i = 52

/-- The words of the image, as far as they are read. -/
structure PlainWords (w : Nat → Word) (n : Nat) (p0 p1 p2 g0 g1 c0 c1 c2 c3 dx dy : Word) : Prop where
  count : w 0 = word n
  pattern : w 1 = p0 ∧ w 2 = p1 ∧ w 3 = p2
  glitch : w 41 = g0 ∧ w 42 = g1
  compare : w 44 = c0 ∧ w 46 = c1 ∧ w 48 = c2 ∧ w 50 = c3
  ratio : w 51 = dx ∧ w 52 = dy
  zero : ∀ i, 4 ≤ i → ¬ plainWord i → w i = 0

theorem plainImage_words (n : Nat) (p0 p1 p2 g0 g1 c0 c1 c2 c3 dx dy : Word) :
    PlainWords (fun i => (plainImage n p0 p1 p2 g0 g1 c0 c1 c2 c3 dx dy).getD i 0) n p0 p1 p2 g0 g1 c0 c1 c2 c3 dx dy := by
  have hfront : ∀ i, (plainImage n p0 p1 p2 g0 g1 c0 c1 c2 c3 dx dy).getD i 0 =
      (word n :: p0 :: p1 :: p2 :: (List.replicate 37 0 ++ [g0, g1, 0, c0, 0, c1, 0, c2, 0, c3, dx, dy])).getD i 0 := fun i =>
    getD_append_replicate (word n :: p0 :: p1 :: p2 :: (List.replicate 37 0 ++ [g0, g1, 0, c0, 0, c1, 0, c2, 0, c3, dx, dy]))
      (32 + 4 * n) i
  refine ⟨hfront 0, ⟨hfront 1, hfront 2, hfront 3⟩, ⟨hfront 41, hfront 42⟩,
    ⟨hfront 44, hfront 46, hfront 48, hfront 50⟩, ⟨hfront 51, hfront 52⟩, fun i h4 hi => (hfront i).trans ?_⟩
  by_cases hlt : i < 53
  · unfold plainWord at hi
    interval_cases i <;> first | rfl | omega
  · rw [List.getD_eq_getElem?_getD, List.getElem?_eq_none (by simpa using hlt)]
    rfl

theorem plainImage_length (n : Nat) (p0 p1 p2 g0 g1 c0 c1 c2 c3 dx dy : Word) :
    (plainImage n p0 p1 p2 g0 g1 c0 c1 c2 c3 dx dy).length = 85 + 4 * n := by
  simp [plainImage]
  omega

section
variable {w : Nat → Word} {n : Nat} {p0 p1 p2 g0 g1 c0 c1 c2 c3 dx dy : Word}
  (hw : PlainWords w n p0 p1 p2 g0 g1 c0 c1 c2 c3 dx dy)
include hw

theorem PlainWords.ok (hn : 1 ≤ n) : ProgramOk w n where
  edges := fun i hi => by
    rw [hw.zero _ (by omega) (by unfold plainWord; omega)]
    decide
  comps := fun i hi => by
    rw [comparatorOk, hw.zero (53 + 8 * i) (by omega) (by unfold plainWord; omega)]
    exact ⟨by decide, fun h => absurd h (by decide)⟩
  counters := fun i hi => by
    rw [counterOk, hw.zero (43 + 2 * i) (by omega) (by unfold plainWord; omega)]
    exact fun h => absurd h (by decide)
  stages := fun j _ => by
    rw [stageOk, hw.zero (85 + 4 * j) (by omega) (by unfold plainWord; omega),
      hw.zero (86 + 4 * j) (by omega) (by unfold plainWord; omega),
      hw.zero (87 + 4 * j) (by omega) (by unfold plainWord; omega)]
    exact ⟨⟨by decide, fun k hk => absurd hk (Nat.not_lt_zero k)⟩, .inl hn, fun h => absurd h (by decide)⟩

/-- The sequencer that the image loads. -/
theorem PlainWords.loaded (t : Trigger) :
    loaded t w standardCodes n = { t with
      stage := 0
      stages := List.replicate n Stage.cleared
      patterns := (Vector.replicate 8 none).set 0 (if p0.getLsbD 0 then some ⟨p1, p2, p0.getLsbD 1⟩ else none)
      edges := Vector.replicate 8 none
      glitchUnit := if g0.getLsbD 0 then some g1 else none
      comps := Vector.replicate 4 none
      counters := #v[⟨0, false, false, .sample, c0, c0, false, false, false⟩,
        ⟨0, false, false, .sample, c1, c1, false, false, false⟩,
        ⟨0, false, false, .sample, c2, c2, false, false, false⟩,
        ⟨0, false, false, .sample, c3, c3, false, false, false⟩]
      divX := ⟨max 1 (min dx.toNat 65536), 0⟩
      divY := ⟨max 1 (min dy.toNat 65536), 0⟩
      latches := Vector.replicate 4 none } := by
  obtain ⟨-, ⟨hp0, hp1, hp2⟩, ⟨hg0, hg1⟩, ⟨hc0, hc1, hc2, hc3⟩, ⟨hx, hy⟩, hz⟩ := hw
  have hpattern : ∀ i, 1 ≤ i → i < 8 → patternOfWords w i = none := fun i h hi => by
    rw [patternOfWords, hz (1 + 3 * i) (by omega) (by unfold plainWord; omega)]
    rfl
  have hedge : ∀ i, i < 8 → edgeOfWords w standardCodes.edge i = none := fun i hi => by
    rw [edgeOfWords, hz (25 + 2 * i) (by omega) (by unfold plainWord; omega)]
    rfl
  have hcomp : ∀ i, i < 4 → comparatorOfWords w standardCodes.lane standardCodes.compare i = none := fun i hi => by
    rw [comparatorOfWords, hz (53 + 8 * i) (by omega) (by unfold plainWord; omega)]
    rfl
  have hcount : ∀ i c, i < 4 → w (44 + 2 * i) = c →
      counterOfWords w standardCodes.source i = ⟨0, false, false, .sample, c, c, false, false, false⟩ := fun i c hi hc => by
    rw [counterOfWords, hz (43 + 2 * i) (by omega) (by unfold plainWord; omega), hc]
    rfl
  have hstages : (List.range n).map (stageOfWords w standardCodes.source standardCodes.target standardCodes.action) =
      List.replicate n Stage.cleared := by
    refine List.eq_replicate_iff.2 ⟨by simp, fun st hst => ?_⟩
    obtain ⟨j, -, rfl⟩ := List.mem_map.1 hst
    rw [stageOfWords, hz (85 + 4 * j) (by omega) (by unfold plainWord; omega),
      hz (86 + 4 * j) (by omega) (by unfold plainWord; omega), hz (87 + 4 * j) (by omega) (by unfold plainWord; omega),
      hz (88 + 4 * j) (by omega) (by unfold plainWord; omega)]
    rfl
  unfold ProgramImage.loaded unitsOfWords
  rw [hstages, hcount 0 c0 (by decide) hc0, hcount 1 c1 (by decide) hc1, hcount 2 c2 (by decide) hc2,
    hcount 3 c3 (by decide) hc3, hpattern 1 (by decide) (by decide), hpattern 2 (by decide) (by decide),
    hpattern 3 (by decide) (by decide), hpattern 4 (by decide) (by decide), hpattern 5 (by decide) (by decide),
    hpattern 6 (by decide) (by decide), hpattern 7 (by decide) (by decide)]
  simp only [hedge, hcomp, Nat.reduceLT, patternOfWords, Nat.mul_zero, Nat.add_zero, hp0, hp1, hp2, hg0, hg1, hx, hy]
  rfl

end

end Sys2Proof.Machine.ProgramImage
end

section
/-! Chapter 4: LOAD_TRIGGER (R66, R67). -/

namespace Sys2Proof.Machine

open ProgramImage

theorem vector_eq_of_fin {α : Type} {n : Nat} {v w : Vector α n} (h : ∀ i : Fin n, v[i] = w[i]) : v = w :=
  Vector.ext fun i hi => h ⟨i, hi⟩

theorem imageAt_zero (image : List Word) : imageAt image 0 = image.headD 0 := by
  cases image <;> rfl

theorem stageOk_iff {w : Nat → Word} {n j : Nat} : stageOk w n j ↔
    field (w (87 + 4 * j)) 0 3 ≤ 4 ∧
    (∀ k, k < field (w (87 + 4 * j)) 0 3 → sourceNamed w (field (w (85 + 4 * j)) (8 * k) 5)) ∧
    (field (w (87 + 4 * j)) 4 4 < n ∨ field (w (87 + 4 * j)) 4 4 = 8) ∧
    ((w (87 + 4 * j)).getLsbD 8 = true → field (w (87 + 4 * j)) 9 3 ≤ 4 ∧
      (∀ k, k < field (w (87 + 4 * j)) 9 3 → sourceNamed w (field (w (86 + 4 * j)) (8 * k) 5)) ∧
      (field (w (87 + 4 * j)) 13 4 < n ∨ field (w (87 + 4 * j)) 13 4 = 8)) := by
  simp only [stageOk, conditionOk, and_assoc]

/-- Settles O31: the refusals in order, the plain image, and the static rules with what they leave. -/
theorem loadTriggerJudgedInOrder : Obligations.LoadTriggerJudgedInOrder := by
  refine ⟨fun tag image n p0 p1 p2 g0 g1 c0 c1 c2 c3 dx dy s hs => ⟨fun h => ?_, fun h => ⟨fun hlen => ?_, fun hlen hn => ?_,
    fun h1 h8 himage => ?_⟩⟩, fun tag image n s w named goal valid hs h h1 h8 hlen hw h0 hnamed hgoal hvalid => ?_⟩
  · exact take_refused tag typeTable 0 hs (if_pos h)
  · exact take_refused tag typeTable 0 hs (cmdLoadTrigger_long h (by rw [imageAt_zero]; exact hlen))
  · rw [← imageAt_zero] at hlen hn
    refine take_refused tag typeTable 0 hs ?_
    rw [cmdLoadTrigger_judged h hlen, load_no_stages _ hn]
  · have himage : image = plainImage n p0 p1 p2 g0 g1 c0 c1 c2 c3 dx dy := himage
    subst himage
    have hwords := plainImage_words n p0 p1 p2 g0 g1 c0 c1 c2 c3 dx dy
    have hlen := plainImage_length n p0 p1 p2 g0 g1 c0 c1 c2 c3 dx dy
    have hcount : (word n).toNat = n := Nat.mod_eq_of_lt (by omega)
    have hload := load_ok s.trigger (k := standardCodes) (fun _ => rfl) h1 h8 hlen
      ((congrArg BitVec.toNat hwords.count).trans hcount) (standardCodes_hold h8) (hwords.ok h1)
    rw [hwords.loaded] at hload
    refine take_accepted tag typeTable 0 hs ?_
    rw [cmdLoadTrigger_judged h (hlen.trans (by rw [show imageAt _ 0 = _ from hwords.count, hcount])), hload]
    simp only [List.length_replicate]
    rfl
  · have hnamed : ∀ c, named c ↔ sourceNamed w c := hnamed
    have hok : valid ↔ ProgramOk w n := by
      simp only [hnamed, hgoal] at hvalid
      rw [hvalid]
      exact ⟨fun ⟨he, hc, hk, hst⟩ => ⟨he, hc, fun i hi => hk i _ hi rfl, fun j hj => stageOk_iff.2 (hst j hj)⟩,
        fun ⟨he, hc, hk, hst⟩ => ⟨he, hc, fun i c hi hc => hc ▸ hk i hi, fun j hj => stageOk_iff.1 (hst j hj)⟩⟩
    have himage : imageAt image 0 = w 0 := (hw 0).symm
    have hlen' : image.length = 85 + 4 * (imageAt image 0).toNat := by rw [himage, h0, hlen]
    refine ⟨fun hbad => ?_, fun hgood source target action edge lane compare cond patterns edges comps counters stages hpe
      hg hx ha hcf hstage htrig hact hedge hlane hcmp hcond hpat hed hcomp hcnt hslen hst => ?_⟩
    · refine take_refused tag typeTable 0 hs ?_
      rw [cmdLoadTrigger_judged h hlen', load_refused s.trigger hw h1 h8 hlen h0 fun hgood => hbad (hok.2 hgood)]
    · have hload := load_ok s.trigger (k := ⟨source, target, action, edge, lane, compare⟩) hw h1 h8 hlen h0
        ⟨⟨hpe, hg, hx, ha, hcf⟩, hstage, htrig, hact, hedge, hlane, hcmp⟩ (hok.1 hgood)
      have hpatterns : patterns = (unitsOfWords w ⟨source, target, action, edge, lane, compare⟩).patterns :=
        vector_eq_of_fin fun i => (hpat i).trans (by match i with | 0 | 1 | 2 | 3 | 4 | 5 | 6 | 7 => rfl)
      have hedges : edges = (unitsOfWords w ⟨source, target, action, edge, lane, compare⟩).edges :=
        vector_eq_of_fin fun i => (hed i).trans (by match i with | 0 | 1 | 2 | 3 | 4 | 5 | 6 | 7 => rfl)
      have hcomps : comps = (unitsOfWords w ⟨source, target, action, edge, lane, compare⟩).comps :=
        vector_eq_of_fin fun i => (hcomp i _ rfl).trans (by match i with | 0 | 1 | 2 | 3 => rfl)
      have hcounters : counters = #v[counterOfWords w source 0, counterOfWords w source 1, counterOfWords w source 2,
          counterOfWords w source 3] :=
        vector_eq_of_fin fun i => (hcnt i _ _ rfl rfl).trans (by match i with | 0 | 1 | 2 | 3 => rfl)
      have hstages : stages = (List.range n).map (stageOfWords w source target action) := by
        refine List.ext_getElem (by simp [hslen]) fun j hj _ => ?_
        have hjn : j < n := hslen ▸ hj
        have hget := hst j _ _ _ _ hjn rfl rfl rfl rfl
        simp only [hcond] at hget
        rw [List.getElem?_eq_getElem hj] at hget
        rw [Option.some.inj hget, List.getElem_map, List.getElem_range]
        rfl
      refine take_accepted tag typeTable 0 hs ?_
      have hcount : (loaded s.trigger w ⟨source, target, action, edge, lane, compare⟩ n).stages.length = n :=
        (List.length_map _).trans List.length_range
      rw [cmdLoadTrigger_judged h hlen', hload, hpatterns, hedges, hcomps, hcounters, hstages]
      dsimp only
      rw [hcount]
      rfl

end Sys2Proof.Machine
end

section
/-! Chapter 5: LOAD_FRAME_TABLE and UNLOAD_TABLE, and the static rules of a frame table's image (R103 to R108). -/

namespace Sys2Proof.Machine

open ProgramImage (take_refused take_accepted)

theorem laneOf_eq_none {x : Word} (h : 5 < x.toNat) : laneOf x = none := dif_neg (by omega)

theorem laneOf_eq_some {x : Word} {l : LaneId} (h : x.toNat = l.val) : laneOf x = some l := by
  have hlt : x.toNat < 6 := by omega
  exact (dif_pos hlt).trans (congrArg some (Fin.ext h))

theorem take_replied (tag : Tag) (ptype : BitVec 4) (code : BitVec 8) {f : Command} {rc : RespCode} {ws : List Word}
    {s t : State} (hs : canDispatch s = true) (hf : f s = (⟨rc, ws⟩, t)) :
    runCommand tag ptype code f s = .next (placeResponse ⟨tag, ptype, code, rc, ws⟩ t) := by
  rw [runCommand, if_pos hs, take, hf]

theorem within_iff (a b : Charge) :
    a.within b = true ↔ a.entries ≤ b.entries ∧ a.branches ≤ b.branches ∧ a.checks ≤ b.checks := by
  simp [Charge.within, and_assoc]

/-! ## The commands on an OFF lane -/

section
variable {lane : Word} {l : LaneId} {image : List Word} {s : State} (hl : lane.toNat = l.val)

include hl in
theorem cmdLoadFrameTable_active (h : (s.lanes[l]).state ≠ .off) :
    cmdLoadFrameTable lane image s = refuse .laneActive s := by
  rw [cmdLoadFrameTable, laneOf_eq_some hl]
  exact if_pos h

include hl in
theorem cmdUnloadTable_active (h : (s.lanes[l]).state ≠ .off) : cmdUnloadTable lane s = refuse .laneActive s := by
  rw [cmdUnloadTable, laneOf_eq_some hl]
  exact if_pos h

variable (hoff : (s.lanes[l]).state = .off)

include hl hoff in
theorem cmdLoadFrameTable_length (h : image.length ≠ 11 + 4 * (image.getD 10 0).toNat) :
    cmdLoadFrameTable lane image s = refuse .badLength s := by
  rw [cmdLoadFrameTable, laneOf_eq_some hl]
  exact (if_neg (fun c => c hoff)).trans (if_pos h)

include hl hoff in
/-- An image of the right length is judged by its tables' rules and then by the pool. -/
theorem cmdLoadFrameTable_parses (h : image.length = 11 + 4 * (image.getD 10 0).toNat) :
    cmdLoadFrameTable lane image s =
      match parseTable image with
      | .error w => (⟨.badArgument, [w]⟩, s)
      | .ok t =>
        if t.charge.within (s.tables.free.add (s.tables.slots[l]).charge) then
          accept (t.charge.words ++ (s.tables.put l (some t)).free.words) (setTables (s.tables.put l (some t)) s)
        else (⟨.noResource, (s.tables.free.add (s.tables.slots[l]).charge).words⟩, s) := by
  rw [cmdLoadFrameTable, laneOf_eq_some hl]
  exact (if_neg (fun c => c hoff)).trans (if_neg (fun c => c h))

include hl hoff in
theorem cmdUnloadTable_off :
    cmdUnloadTable lane s = if (s.tables.slots[l]).table.isNone then accept [0] s
      else accept [1] (setTables (s.tables.put l none) s) := by
  rw [cmdUnloadTable, laneOf_eq_some hl]
  exact if_neg (fun c => c hoff)

include hl hoff in
theorem load_error (tag : Tag) (hs : canDispatch s = true) (h : image.length = 11 + 4 * (image.getD 10 0).toNat)
    {w : Word} (hp : parseTable image = .error w) :
    exec (.loadFrameTable tag lane image) s = .next (placeResponse ⟨tag, typeTable, 1, .badArgument, [w]⟩ s) :=
  take_replied tag typeTable 1 hs (by rw [cmdLoadFrameTable_parses hl hoff h, hp])

end

/-! ## The order of the static rules -/

section
variable {image : List Word} {n : Nat} (hn : imageCount image = n) (h1 : 1 ≤ n) (h2 : n ≤ 32)

include hn h1 h2 in
theorem parseTable_bad_entry {i : Nat}
    (he : parseEntries (image.drop 11) (flag (wordAt image 5) 0) n [] 0 = .error i) :
    parseTable image = .error (word i) := by
  unfold parseTable
  rw [if_neg (by omega), hn, he]

variable {es : List Entry} (he : parseEntries (image.drop 11) (flag (wordAt image 5) 0) n [] 0 = .ok es)

include hn h1 h2 he in
theorem parseTable_bad_front (hf : parseFrontEnd (wordAt image 0) (wordAt image 1) (wordAt image 2) = none) :
    parseTable image = .error 32 := by
  unfold parseTable
  rw [if_neg (by omega), hn, he, hf]

variable {front : FrontEnd} (hf : parseFrontEnd (wordAt image 0) (wordAt image 1) (wordAt image 2) = some front)

include hn h1 h2 he hf in
theorem parseTable_bad_frame
    (hx : (wordAt image 3).toNat < 1 ∨ 256 < (wordAt image 3).toNat ∨ (wordAt image 4).toNat < 1) :
    parseTable image = .error 33 := by
  unfold parseTable
  rw [if_neg (by omega), hn, he, hf]
  exact if_pos hx

variable (hx : ¬ ((wordAt image 3).toNat < 1 ∨ 256 < (wordAt image 3).toNat ∨ (wordAt image 4).toNat < 1))

include hn h1 h2 he hf hx in
theorem parseTable_bad_check
    (hc : parseCheck (wordAt image 6) (wordAt image 7) (wordAt image 8) (wordAt image 9) es = none) :
    parseTable image = .error 34 := by
  unfold parseTable
  rw [if_neg (by omega), hn, he, hf]
  exact (if_neg hx).trans (by rw [hc])

include hn h1 h2 he hf hx in
theorem parseTable_table {check : Check}
    (hc : parseCheck (wordAt image 6) (wordAt image 7) (wordAt image 8) (wordAt image 9) es = some check) :
    parseTable image = .ok ⟨front, (wordAt image 3).toNat, (wordAt image 4).toNat, flag (wordAt image 5) 0, check,
      es⟩ := by
  unfold parseTable
  rw [if_neg (by omega), hn, he, hf]
  exact (if_neg hx).trans (by rw [hc])

end

/-! ## The image of one DATA entry over TWO-WIRE -/

theorem parseTable_two_wire (clock data limit gap : Nat) (hc : clock < 32) (hd : data < 32) (hne : clock ≠ data)
    (h1 : 1 ≤ limit) (h2 : limit ≤ 256) (h3 : 1 ≤ gap) (h4 : gap < 4294967296) :
    parseTable [word (2 + clock * 256 + data * 65536), 0, 0, word limit, word gap, 0, 0, 0, 0, 0, 1,
        word (8 * 256 + 3 * 65536), 0, 0, 0] =
      .ok ⟨.twoWire ⟨clock, data, false⟩, limit, gap, false, ⟨.none, 0, 0, 0, false, false⟩,
        [⟨0, 8, false, .data, .once, false, none⟩]⟩ := by
  have hval : (word (2 + clock * 256 + data * 65536)).toNat = 2 + clock * 256 + data * 65536 :=
    Nat.mod_eq_of_lt (by omega)
  have hlim : (word limit).toNat = limit := Nat.mod_eq_of_lt (by omega)
  have hgap : (word gap).toNat = gap := Nat.mod_eq_of_lt (by omega)
  have hf : ∀ p b, field (word (2 + clock * 256 + data * 65536)) p b = (2 + clock * 256 + data * 65536) / 2 ^ p % 2 ^ b :=
    fun p b => by rw [field, hval, Nat.shiftRight_eq_div_pow]
  have hk : field (word (2 + clock * 256 + data * 65536)) 0 2 = 2 := by rw [hf]; omega
  have hclock : field (word (2 + clock * 256 + data * 65536)) 8 5 = clock := by rw [hf]; omega
  have hdata : field (word (2 + clock * 256 + data * 65536)) 16 5 = data := by rw [hf]; omega
  have hflag : flag (word (2 + clock * 256 + data * 65536)) 24 = false := by
    rw [flag, BitVec.getLsbD, hval, Nat.testBit_eq_decide_div_mod_eq]
    exact decide_eq_false (by omega)
  have hfront : parseFrontEnd (word (2 + clock * 256 + data * 65536)) 0 0 = some (.twoWire ⟨clock, data, false⟩) := by
    unfold parseFrontEnd
    rw [hk]
    simp only [parseTwoWire, hclock, hdata, hflag, hne, if_false]
  have hentries : parseEntries [word (8 * 256 + 3 * 65536), 0, 0, 0] false 1 [] 0 =
    .ok [⟨0, 8, false, .data, .once, false, none⟩] := by decide
  have hcheck : parseCheck 0 0 0 0 [⟨0, 8, false, .data, .once, false, none⟩] =
    some ⟨.none, 0, 0, 0, false, false⟩ := by decide
  have hend : flag (wordAt [word (2 + clock * 256 + data * 65536), 0, 0, word limit, word gap, 0, 0, 0, 0, 0, 1,
      word (8 * 256 + 3 * 65536), 0, 0, 0] 5) 0 = false := show flag 0 0 = false by decide
  have table := parseTable_table (n := 1) (image := [word (2 + clock * 256 + data * 65536), 0, 0, word limit, word gap, 0,
      0, 0, 0, 0, 1, word (8 * 256 + 3 * 65536), 0, 0, 0]) rfl (Nat.le_refl 1) (by decide)
    (by rw [hend]; exact hentries) hfront
    (show ¬ ((word limit).toNat < 1 ∨ 256 < (word limit).toNat ∨ (word gap).toNat < 1) by omega) hcheck
  rw [table, hend]
  show Except.ok (FrameTable.mk _ (word limit).toNat (word gap).toNat _ _ _) = _
  rw [hlim, hgap]

/-! ## The obligation -/

theorem charge_eq (t : FrameTable) :
    t.charge = ⟨t.entries.length, (t.entries.filter fun e => e.branch.isSome).length,
      if t.check.kind = .none then 0 else 1⟩ := rfl

theorem getElem?_entries (e : Nat → Nat → Word) {n j : Nat} (hj : j < n) :
    ((List.range n).map (TableImage.entryOfWords e))[j]? = some (TableImage.entryOfWords e j) := by
  rw [List.getElem?_map, List.getElem?_range hj]
  rfl

theorem getElem?_role {x : Nat} (h : x ≤ 5) :
    [Role.address, .command, .length, .data, .check, .other][x]? = some ((roleOf x).getD .other) := by
  interval_cases x <;> rfl

/-- What the two repeat bits and the repeat word of an entry mean. -/
theorem repeatOf_cases (f0 f1 : Word) :
    (field f0 20 2 = 0 → repeatOf f0 f1 = .once) ∧ (field f0 20 2 = 1 → repeatOf f0 f1 = .fixed (field f1 0 9)) ∧
    (field f0 20 2 = 2 → repeatOf f0 f1 = .byLength (field f1 0 5)
      (if field f1 16 5 < 16 then (field f1 16 5 : Int) else (field f1 16 5 : Int) - 32)) ∧
    (field f0 20 2 = 3 → repeatOf f0 f1 = .toEnd) := by
  unfold repeatOf
  exact ⟨fun h => by simp only [h], fun h => by simp only [h], fun h => by simp only [h]; rfl, fun h => by simp only [h]⟩

/-- Settles O37: the commands in the order of their cases, and the rules of an image part by part. -/
theorem frameTableCommandsJudgedInOrder : Obligations.FrameTableCommandsJudgedInOrder := by
  refine ⟨fun tag lane image s hs => ⟨fun h => ?_, fun l hl => ⟨fun hx => ?_, fun hoff => ⟨fun hne => ?_, fun hlen =>
    ⟨fun w hp => load_error hl hoff tag hs hlen hp, fun t av hp hav => ?_⟩, ?_, fun hnone => ?_, fun hsome => ?_⟩⟩⟩,
    charge_eq, fun a b => ⟨rfl, rfl⟩, ?_⟩
  · exact ⟨take_refused tag typeTable 1 hs (by rw [cmdLoadFrameTable, laneOf_eq_none h]),
      runCommand_refused tag 24 hs (by rw [cmdUnloadTable, laneOf_eq_none h])⟩
  · exact ⟨take_refused tag typeTable 1 hs (cmdLoadFrameTable_active hl hx),
      runCommand_refused tag 24 hs (cmdUnloadTable_active hl hx)⟩
  · exact take_refused tag typeTable 1 hs (cmdLoadFrameTable_length hl hoff hne)
  · subst hav
    refine ⟨fun hover => take_replied tag typeTable 1 hs ?_, fun h1 h2 h3 => take_accepted tag typeTable 1 hs ?_⟩
    · rw [cmdLoadFrameTable_parses hl hoff hlen, hp]
      exact if_neg (fun c => by obtain ⟨a, b, c⟩ := (within_iff _ _).1 c; omega)
    · rw [cmdLoadFrameTable_parses hl hoff hlen, hp]
      exact if_pos ((within_iff _ _).2 ⟨h1, h2, h3⟩)
  · intro clock data limit gap hc hd hne h1 h2 h3 h4 himage
    subst himage
    exact parseTable_two_wire clock data limit gap hc hd hne h1 h2 h3 h4
  · refine runCommand_accepted tag 24 hs ?_
    rw [cmdUnloadTable_off hl hoff, if_pos (by rw [hnone]; rfl)]
  · refine runCommand_accepted tag 24 hs ?_
    rw [cmdUnloadTable_off hl hoff, if_neg (by simpa [Option.isNone_iff_eq_none, Option.isSome_iff_ne_none] using hsome)]
    rfl
  · intro tag lane l image n s w e faulty answer hs hl hoff hlen h1 h32 hw hn he hanswer hfaulty
    have hcount : imageCount image = n := by rw [← hn, hw]; rfl
    have hat : ∀ i, wordAt image i = w i := fun i => (hw i).symm
    have hlength : image.length = 11 + 4 * (image.getD 10 0).toNat := by rw [hlen, ← hw, hn]
    have herror : ∀ x, parseTable image = .error x → answer x := fun x hp =>
      (hanswer x).2 (load_error hl hoff tag hs hlength hp)
    have hentries := TableImage.parseEntries_spec image n w e faulty hlen hw he hfaulty n 0 (Nat.zero_add n)
      (fun k hk => absurd hk (Nat.not_lt_zero k))
    rw [← hat 5] at hentries
    refine ⟨fun j hj hbad hfirst => ?_, fun hnone channels badFront badFrame badCheck checks hch hfront hframe hchecks
      hcheck => ?_⟩
    · rcases hentries with ⟨hall, -⟩ | ⟨i, hi, hbad', hfirst', hp⟩
      · exact absurd hbad (hall j hj)
      · have hij : i = j := by
          rcases Nat.lt_trichotomy i j with h | h | h
          · exact absurd hbad' (hfirst i h)
          · exact h
          · exact absurd hbad (hfirst' j h)
        exact herror _ (hij ▸ parseTable_bad_entry hcount h1 h32 hp)
    · have hes : parseEntries (image.drop 11) (flag (wordAt image 5) 0) n [] 0 =
          .ok ((List.range n).map (TableImage.entryOfWords e)) := by
        rcases hentries with ⟨-, hp⟩ | ⟨i, hi, hbad, -, -⟩
        · exact hp
        · exact absurd hbad (hnone i hi)
      obtain ⟨front_bad, front_ok⟩ := TableImage.parseFrontEnd_spec (w 0) (w 1) (w 2) channels badFront hch hfront
      obtain ⟨check_bad, check_ok⟩ := TableImage.parseCheck_spec e n (w 6) (w 7) (w 8) (w 9) checks badCheck hchecks hcheck
      simp only [← hat] at front_bad front_ok check_bad check_ok hframe ⊢
      refine ⟨fun hb => herror _ (parseTable_bad_front hcount h1 h32 hes (front_bad hb)), fun hb hf => ?_,
        fun hb hf hc => ?_, fun hb hf hc => ?_⟩ <;> obtain ⟨fe, hfe, hstart, hstrobed, hwire⟩ := front_ok hb
      · exact herror _ (parseTable_bad_frame hcount h1 h32 hes hfe (by have := hframe.1 hf; omega))
      · exact herror _ (parseTable_bad_check hcount h1 h32 hes hfe (fun c => hf (hframe.2 (by omega))) (check_bad hc))
      · obtain ⟨check, hparse, hfields, hkind⟩ := check_ok hc
        refine ⟨_, parseTable_table hcount h1 h32 hes hfe (fun c => hf (hframe.2 (by omega))) hparse, rfl, rfl, rfl,
          by simp, hfields, hkind, hstart, hstrobed, hwire, fun j hj => ?_⟩
        have hrole : field (e j 0) 16 3 ≤ 5 := by
          by_contra hc
          exact hnone j hj ((hfaulty j).2 (Or.inl (by omega)))
        exact ⟨_, _, getElem?_entries e hj, getElem?_role hrole, repeatOf_cases (e j 0) (e j 1)⟩

end Sys2Proof.Machine
end

section
/-! Section 5.5: the check values SUM8, XOR8 and CRC (R102). -/

namespace Sys2Proof.Machine

/-! ## Bits fed into a CRC register -/

theorem reverseBits_lt (m x : Nat) : reverseBits m x < 2 ^ m := by
  induction m generalizing x with
  | zero => exact Nat.one_pos
  | succ m ih =>
    have h := ih (x / 2)
    have h2 : x % 2 * 2 ^ m ≤ 1 * 2 ^ m := Nat.mul_le_mul_right _ (by omega)
    rw [reverseBits, Nat.pow_succ]
    omega

theorem testBit_reverseBits (m x i : Nat) (hi : i < m) : (reverseBits m x).testBit i = x.testBit (m - 1 - i) := by
  induction m generalizing x i with
  | zero => exact absurd hi (Nat.not_lt_zero i)
  | succ m ih =>
    rw [reverseBits, Nat.mul_comm, Nat.testBit_two_pow_mul_add _ (reverseBits_lt m (x / 2))]
    rcases Nat.lt_or_ge i m with h | h
    · rw [if_pos h, ih (x / 2) i h, Nat.testBit_div_two]
      congr 1
      omega
    · obtain rfl : i = m := by omega
      rw [if_neg (by omega), Nat.sub_self, show i + 1 - 1 - i = 0 by omega]
      simp

theorem testBit_shifted (w reg i : Nat) (hi : i < w) :
    (reg * 2 % 2 ^ w).testBit i = (decide (0 < i) && reg.testBit (i - 1)) := by
  have h := Nat.testBit_mul_two_pow reg i 1
  rw [Nat.pow_one] at h
  rw [Nat.testBit_mod_two_pow, h]
  simp [hi, Nat.succ_le_iff]

theorem crcBit_eq (w poly reg : Nat) (b : Bool) : crcBit w poly reg b =
    if (reg.testBit (w - 1) != b) = true then (reg * 2 % 2 ^ w) ^^^ poly else reg * 2 % 2 ^ w := rfl

theorem testBit_crcBit (w poly reg i : Nat) (b : Bool) (hi : i < w) :
    (crcBit w poly reg b).testBit i =
      ((decide (0 < i) && reg.testBit (i - 1)) != ((reg.testBit (w - 1) != b) && poly.testBit i)) := by
  rw [crcBit_eq]
  by_cases h : (reg.testBit (w - 1) != b) = true
  · rw [if_pos h, h, Nat.testBit_xor, testBit_shifted w reg i hi, Bool.true_and]
  · rw [if_neg h, Bool.eq_false_of_not_eq_true h, testBit_shifted w reg i hi, Bool.false_and, Bool.bne_false]

theorem crcBit_lt {w poly : Nat} (reg : Nat) (b : Bool) (hp : poly < 2 ^ w) : crcBit w poly reg b < 2 ^ w := by
  have hs : reg * 2 % 2 ^ w < 2 ^ w := Nat.mod_lt _ (Nat.two_pow_pos w)
  rw [crcBit_eq]
  split
  · exact Nat.xor_lt_two_pow hs hp
  · exact hs

theorem crcBit_top (w poly reg : Nat) : crcBit w poly reg (reg.testBit (w - 1)) = reg * 2 % 2 ^ w := by
  rw [crcBit_eq, bne_self_eq_false]
  rfl

theorem foldl_crcBit_lt {w poly : Nat} (hp : poly < 2 ^ w) (bits : List Bool) (reg : Nat) (hr : reg < 2 ^ w) :
    bits.foldl (crcBit w poly) reg < 2 ^ w := by
  induction bits generalizing reg with
  | nil => exact hr
  | cons b bits ih => exact ih _ (crcBit_lt reg b hp)

/-- A register into which its own bits are fed, top bit first, is shifted out. -/
theorem foldl_own_bits (w poly acc k : Nat) (ha : acc < 2 ^ w) (hk : k ≤ w) :
    ((List.range k).map fun i => acc.testBit (w - 1 - i)).foldl (crcBit w poly) acc = acc * 2 ^ k % 2 ^ w := by
  induction k with
  | zero => rw [Nat.pow_zero, Nat.mul_one, Nat.mod_eq_of_lt ha]; rfl
  | succ k ih =>
    have htop : acc.testBit (w - 1 - k) = (acc * 2 ^ k % 2 ^ w).testBit (w - 1) := by
      have h1 : w - 1 < w := by omega
      have h2 : k ≤ w - 1 := by omega
      rw [Nat.testBit_mod_two_pow, Nat.testBit_mul_two_pow]
      simp [h1, h2]
    rw [List.range_succ, List.map_append, List.foldl_append, ih (by omega)]
    show crcBit w poly (acc * 2 ^ k % 2 ^ w) (acc.testBit (w - 1 - k)) = _
    rw [htop, crcBit_top, Nat.mod_mul_mod, Nat.pow_succ, Nat.mul_assoc]

/-- Steps that are each one bit are one fold over the bits. -/
theorem foldl_steps (f : Nat → Bool → Nat) (g : Nat → Bool) (regs : Nat → Nat) (k : Nat)
    (h : ∀ i, i < k → regs (i + 1) = f (regs i) (g i)) : ((List.range k).map g).foldl f (regs 0) = regs k := by
  induction k with
  | zero => rfl
  | succ k ih =>
    rw [List.range_succ, List.map_append, List.foldl_append, ih fun i hi => h i (by omega)]
    exact (h k (by omega)).symm

/-! ## The check values -/

section
variable {c : Check}

theorem feed_sum8 (hk : c.kind = .sum8) (bytes : List Nat) : bytes.foldl c.feed c.start = bytes.sum % 256 := by
  have hfeed : ∀ acc byte, c.feed acc byte = (acc + byte) % 256 := fun acc byte => by rw [Check.feed, hk]
  have general : ∀ (l : List Nat) (acc : Nat), acc < 256 → l.foldl c.feed acc = (acc + l.sum) % 256 := by
    intro l
    induction l with
    | nil => exact fun acc h => (Nat.mod_eq_of_lt h).symm
    | cons b l ih =>
      intro acc _
      rw [List.foldl_cons, hfeed, ih _ (Nat.mod_lt _ (by decide)), List.sum_cons, Nat.mod_add_mod, Nat.add_assoc]
  have hstart : c.start = 0 := by rw [Check.start, hk]
  rw [hstart, general bytes 0 (by decide), Nat.zero_add]

theorem value_sum8 (hk : c.kind = .sum8) (acc : Nat) : c.value acc = (256 - acc) % 256 := by rw [Check.value, hk]

theorem value_xor8 (hk : c.kind = .xor8) (bytes : List Nat) :
    c.value (bytes.foldl c.feed c.start) = bytes.foldl (· ^^^ ·) 0 := by
  have hfeed : c.feed = fun acc byte => acc ^^^ byte := by
    funext acc byte
    rw [Check.feed, hk]
  rw [Check.value, hk, Check.start, hk, hfeed]

end

/-! ## The CRC values -/

section
variable {c : Check} {w : Nat} (hk : c.kind = .crc8 ∧ w = 8 ∨ c.kind = .crc16 ∧ w = 16)

include hk in
theorem crc_start : c.start = c.init := by
  rcases hk with ⟨h, -⟩ | ⟨h, -⟩ <;> rw [Check.start, h]

include hk in
theorem crc_feed (acc byte : Nat) : c.feed acc byte = (feedOrder c.reflectIn byte).foldl (crcBit w c.poly) acc := by
  rcases hk with ⟨h, rfl⟩ | ⟨h, rfl⟩ <;> rw [Check.feed, h]

include hk in
theorem crc_value (acc : Nat) : c.value acc = (if c.reflectOut then reverseBits w acc else acc) ^^^ c.xorOut := by
  rcases hk with ⟨h, rfl⟩ | ⟨h, rfl⟩ <;> rw [Check.value, h]

include hk in
theorem crc_acc_lt (hp : c.poly < 2 ^ w) (bytes : List Nat) (acc : Nat) (ha : acc < 2 ^ w) :
    bytes.foldl c.feed acc < 2 ^ w := by
  induction bytes generalizing acc with
  | nil => exact ha
  | cons b bytes ih =>
    refine ih _ ?_
    rw [crc_feed hk]
    exact foldl_crcBit_lt hp _ _ ha

theorem feedOrder_eq (r : Bool) (byte : Nat) :
    feedOrder r byte = (List.range 8).map fun i => byte.testBit (if r then i else 7 - i) := by
  cases r <;> rfl

include hk in
theorem crc_value_lt {acc : Nat} (ha : acc < 2 ^ w) (hx : c.xorOut < 2 ^ w) : c.value acc < 2 ^ w := by
  rw [crc_value hk]
  refine Nat.xor_lt_two_pow ?_ hx
  split
  · exact reverseBits_lt w acc
  · exact ha

include hk in
theorem testBit_crc_value (acc i : Nat) (hi : i < w) : (c.value acc).testBit i =
    ((if c.reflectOut then acc.testBit (w - 1 - i) else acc.testBit i) != c.xorOut.testBit i) := by
  rw [crc_value hk, Nat.testBit_xor]
  split
  · rw [testBit_reverseBits w acc i hi]
  · rfl

include hk in
/-- Without a final exclusive OR the bits of the value come back in the order in which it is fed. -/
theorem crc_value_bit (acc i : Nat) (hx : c.xorOut = 0) (hr : c.reflectIn = c.reflectOut) (hi : i < w) :
    (c.value acc).testBit (if c.reflectIn then i else w - 1 - i) = acc.testBit (w - 1 - i) := by
  rw [testBit_crc_value hk acc _ (by split <;> omega), hx, hr, Nat.zero_testBit, Bool.bne_false]
  cases c.reflectOut <;> rfl

end

theorem crc8_closes {c : Check} (hk : c.kind = .crc8) (hx : c.xorOut = 0) (hr : c.reflectIn = c.reflectOut) {acc : Nat}
    (ha : acc < 2 ^ 8) : c.feed acc (c.value acc) = 0 := by
  have hk' : c.kind = .crc8 ∧ 8 = 8 ∨ c.kind = .crc16 ∧ 8 = 16 := Or.inl ⟨hk, rfl⟩
  have hbits : feedOrder c.reflectIn (c.value acc) = (List.range 8).map fun i => acc.testBit (8 - 1 - i) := by
    rw [feedOrder_eq]
    exact List.map_congr_left fun i hi => crc_value_bit hk' acc i hx hr (List.mem_range.1 hi)
  rw [crc_feed hk', hbits, foldl_own_bits 8 c.poly acc 8 ha (Nat.le_refl 8)]
  exact Nat.mul_mod_left acc _

/-- Two bytes that together are the value's bits in the order fed bring a CRC16 register to 0. -/
theorem crc16_closes {c : Check} (hk : c.kind = .crc16) (hx : c.xorOut = 0) (hr : c.reflectIn = c.reflectOut) {acc : Nat}
    (ha : acc < 2 ^ 16) (first second : Nat)
    (h1 : ∀ i, i < 8 → first.testBit (if c.reflectIn then i else 7 - i) =
      (c.value acc).testBit (if c.reflectIn then i else 15 - i))
    (h2 : ∀ i, i < 8 → second.testBit (if c.reflectIn then i else 7 - i) =
      (c.value acc).testBit (if c.reflectIn then 8 + i else 15 - (8 + i))) :
    c.feed (c.feed acc first) second = 0 := by
  have hk' : c.kind = .crc8 ∧ 16 = 8 ∨ c.kind = .crc16 ∧ 16 = 16 := Or.inr ⟨hk, rfl⟩
  have hbits : feedOrder c.reflectIn first ++ feedOrder c.reflectIn second =
      (List.range 16).map fun i => acc.testBit (16 - 1 - i) := by
    rw [feedOrder_eq, feedOrder_eq, show List.range 16 = List.range 8 ++ (List.range 8).map (8 + ·) by decide,
      List.map_append, List.map_map]
    refine congrArg₂ (· ++ ·) (List.map_congr_left fun i hi => ?_) (List.map_congr_left fun i hi => ?_)
    · have hi := List.mem_range.1 hi
      exact (h1 i hi).trans (crc_value_bit hk' acc i hx hr (by omega))
    · have hi := List.mem_range.1 hi
      exact (h2 i hi).trans (crc_value_bit hk' acc (8 + i) hx hr (by omega))
  rw [crc_feed hk', crc_feed hk', ← List.foldl_append, hbits, foldl_own_bits 16 c.poly acc 16 ha (Nat.le_refl 16)]
  exact Nat.mul_mod_left acc _

theorem testBit_high_byte (v i : Nat) : (v / 256).testBit i = v.testBit (8 + i) :=
  (Nat.testBit_div_two_pow v i (n := 8)).trans (by rw [Nat.add_comm])

theorem testBit_low_byte (v : Nat) {i : Nat} (hi : i < 8) : (v % 256).testBit i = v.testBit i := by
  rw [show 256 = 2 ^ 8 by decide, Nat.testBit_mod_two_pow]
  simp [hi]

/-- CRC16: the top byte first, or with reflection the low byte. -/
theorem crc16_closes_bytes {c : Check} (hk : c.kind = .crc16) (hx : c.xorOut = 0) (hr : c.reflectIn = c.reflectOut)
    {acc : Nat} (ha : acc < 2 ^ 16) :
    (c.reflectIn = false → c.feed (c.feed acc (c.value acc / 256)) (c.value acc % 256) = 0) ∧
    (c.reflectIn = true → c.feed (c.feed acc (c.value acc % 256)) (c.value acc / 256) = 0) := by
  refine ⟨fun h => crc16_closes hk hx hr ha _ _ (fun i hi => ?_) (fun i hi => ?_),
    fun h => crc16_closes hk hx hr ha _ _ (fun i hi => ?_) (fun i hi => ?_)⟩
  · rw [if_neg (by simp [h]), if_neg (by simp [h]), testBit_high_byte]
    congr 1
    omega
  · rw [if_neg (by simp [h]), if_neg (by simp [h]), testBit_low_byte _ (by omega)]
    congr 1
    omega
  · rw [if_pos h, if_pos h, testBit_low_byte _ hi]
  · rw [if_pos h, if_pos h, testBit_high_byte]

/-- The closing of a CRC of either width. -/
theorem crc_closes {c : Check} {w : Nat} (hk : c.kind = .crc8 ∧ w = 8 ∨ c.kind = .crc16 ∧ w = 16) (hx : c.xorOut = 0)
    (hr : c.reflectIn = c.reflectOut) {acc : Nat} (ha : acc < 2 ^ w) :
    (w = 8 → c.feed acc (c.value acc) = 0) ∧
    (w = 16 → c.reflectIn = false → c.feed (c.feed acc (c.value acc / 256)) (c.value acc % 256) = 0) ∧
    (w = 16 → c.reflectIn = true → c.feed (c.feed acc (c.value acc % 256)) (c.value acc / 256) = 0) := by
  rcases hk with ⟨h, rfl⟩ | ⟨h, rfl⟩
  · exact ⟨fun _ => crc8_closes h hx hr ha, fun c => absurd c (by decide), fun c => absurd c (by decide)⟩
  · exact ⟨fun c => absurd c (by decide), fun _ => (crc16_closes_bytes h hx hr ha).1,
      fun _ => (crc16_closes_bytes h hx hr ha).2⟩

/-- A byte is eight one-bit steps. -/
theorem crc_feed_steps {c : Check} {w : Nat} (hk : c.kind = .crc8 ∧ w = 8 ∨ c.kind = .crc16 ∧ w = 16) (byte : Nat)
    (regs : Nat → Nat)
    (h : ∀ i, i < 8 → regs (i + 1) = crcBit w c.poly (regs i) (byte.testBit (if c.reflectIn then i else 7 - i))) :
    c.feed (regs 0) byte = regs 8 := by
  rw [crc_feed hk, feedOrder_eq]
  exact foldl_steps _ _ regs 8 h

end Sys2Proof.Machine
end

section
/-! Sections 5.4 and 6.7: units, the taking of entries, and the takings of an entry reached (R99 to R101, R128 to R130). -/

namespace Sys2Proof.Machine

/-! ## Units -/

section
variable {t : FrameTable} {ln : Lane} {f : PartialFrame} (hf : ln.frame = some f)

/-- The partial frame with one more unit counted. -/
def PartialFrame.counted (f : PartialFrame) (first last : Nat) : PartialFrame :=
  { f with
    units := min (f.units + 1) 65535, start := if f.lastEnd = none then first else f.start, lastEnd := some last }

include hf in
theorem deliverUnit_surplus (bits : List Bool) (first last : Nat)
    (h : t.unitsLimit ≤ f.units ∨ t.entries.length ≤ ln.pos.entry) :
    deliverUnit t bits first last ln = { ln with frame := some { f.counted first last with long := true } } := by
  have hx : (decide (t.unitsLimit < f.units + 1) || t.passed ln.pos) = true := by
    rcases h with h | h
    · rw [decide_eq_true (by omega), Bool.true_or]
    · rw [FrameTable.passed, decide_eq_true h, Bool.or_true]
  rw [deliverUnit, hf]
  refine (if_pos hx).trans ?_
  rw [Bool.or_assoc, hx, Bool.or_true, PartialFrame.counted]
  simp only [Option.isNone_iff_eq_none]

include hf in
theorem deliverUnit_within (bits : List Bool) (first last : Nat) (h1 : f.units < t.unitsLimit)
    (h2 : ln.pos.entry < t.entries.length) :
    deliverUnit t bits first last ln = extract t ((ln.gatherer ++ bits).length + 1)
      { ln with frame := some (f.counted first last), gatherer := ln.gatherer ++ bits } := by
  have hx : (decide (t.unitsLimit < f.units + 1) || t.passed ln.pos) = false := by
    rw [FrameTable.passed, decide_eq_false (by omega), decide_eq_false (by omega), Bool.or_false]
  rw [deliverUnit, hf]
  refine (if_neg (by rw [hx]; decide)).trans ?_
  rw [Bool.or_assoc, hx, Bool.or_false, PartialFrame.counted]
  simp only [Option.isNone_iff_eq_none]

theorem extract_passed (h : t.entries.length ≤ ln.pos.entry) (n : Nat) : extract t (n + 1) ln = ln := by
  rw [extract, List.getElem?_eq_none h]
  cases ln.frame <;> rfl

variable {e : Entry} (he : t.entries[ln.pos.entry]? = some e)

include hf he in
theorem extract_waits (h : ln.gatherer.length < e.width) (n : Nat) : extract t (n + 1) ln = ln := by
  rw [extract, hf, he]
  exact if_neg (by omega)

theorem takeEntry_gatherer : (takeEntry t ln f e).gatherer = ln.gatherer.drop e.width := rfl

include hf he in
theorem extract_takes (hw : ∀ e ∈ t.entries, 1 ≤ e.width) (h : e.width ≤ ln.gatherer.length) :
    extract t (ln.gatherer.length + 1) ln =
      extract t ((takeEntry t ln f e).gatherer.length + 1) (takeEntry t ln f e) := by
  have hwidth := hw e (List.mem_of_getElem? he)
  have hlen : (takeEntry t ln f e).gatherer.length = ln.gatherer.length - e.width := by
    rw [takeEntry_gatherer, List.length_drop]
  rw [extract, hf, he]
  exact (if_pos h).trans (extract_fuel t hw _ _ _ (by omega) (by omega))

end

/-! ## The taking of an entry -/

theorem store_eq (f : PartialFrame) (c : Check) (acc i : Nat) (e : Entry) (v : Nat) : f.store c acc i e v =
    { f with
      data := if e.role = .data then (f.data ++ valueBytes e.width v).take 64 else f.data
      truncated := f.truncated || (decide (e.role = .data) && decide (64 < (f.data ++ valueBytes e.width v).length))
      fields := if e.role = .data then f.fields else f.fields ++ [(e.name, word v)]
      address := if e.role = .address then some (f.address.getD (word v)) else f.address
      lengths := if e.role = .length then (i, v) :: f.lengths else f.lengths
      checkFailed := f.checkFailed ||
        (decide (e.role = .check) && decide (c.kind ≠ .none) && decide (c.value acc ≠ v)) } := by
  unfold PartialFrame.store
  cases e.role <;> simp

/-- The bits of a value at the head of the gatherer determine it. -/
theorem valueOf_unique {lsb : Bool} {g : List Bool} {w v : Nat} (hw : w ≤ g.length) (hv : v < 2 ^ w)
    (hbits : ∀ i, i < w → v.testBit i = g.getD (if lsb then i else w - 1 - i) false) : valueOf lsb (g.take w) = v := by
  have hlen : (g.take w).length = w := List.length_take_of_le hw
  have hlt := valueOf_lt lsb (g.take w)
  rw [hlen] at hlt
  refine Nat.eq_of_testBit_eq fun i => ?_
  rcases Nat.lt_or_ge i w with hi | hi
  · have hidx : (if lsb then i else w - 1 - i) < w := by split <;> omega
    rw [testBit_valueOf lsb _ i (by omega), hlen, hbits i hi, List.getD_eq_getElem?_getD, List.getD_eq_getElem?_getD,
      List.getElem?_take_of_lt hidx]
  · have hpow := Nat.pow_le_pow_right (show 0 < 2 by decide) hi
    rw [Nat.testBit_lt_two_pow (by omega), Nat.testBit_lt_two_pow (by omega)]

theorem valueBytes_unique {w v : Nat} {bytes : List Byte} (hlen : bytes.length = (w + 7) / 8)
    (h : ∀ i, i < bytes.length → bytes[i]? = some (BitVec.ofNat 8 (v / 256 ^ (bytes.length - 1 - i)))) :
    valueBytes w v = bytes := by
  refine List.ext_getElem? fun i => ?_
  rcases Nat.lt_or_ge i bytes.length with hi | hi
  · rw [h i hi, valueBytes, ← hlen, getElem_bytesMsb _ _ _ hi]
  · rw [List.getElem?_eq_none hi, List.getElem?_eq_none (by rw [valueBytes, length_bytesMsb]; omega)]

section
variable (t : FrameTable) (ln : Lane) (f : PartialFrame) (e : Entry) {v : Nat}
  (hv : valueOf e.lsbFirst (ln.gatherer.take e.width) = v)

/-- A taking that has no branch to follow: the lane with the partial frame and the position that follow it. -/
def Lane.took (ln : Lane) (t : FrameTable) (e : Entry) (v : Nat) (f : PartialFrame) (pos : Extract) : Lane :=
  { ln with
    gatherer := ln.gatherer.drop e.width, frame := some f, pos := pos
    acc := if e.inCheck then (valueBytes e.width v).foldl (fun a b => t.check.feed a b.toNat) ln.acc else ln.acc }

include hv in
theorem takeEntry_branch {b : Branch} (hb : e.branchTaken v = some b) :
    takeEntry t ln f e = ln.took t e v { f.store t.check ln.acc ln.pos.entry e v with tag := b.tag }
      (reach t.entries (f.store t.check ln.acc ln.pos.entry e v).lengths (t.entries.length + 1) b.target) := by
  rw [takeEntry, hv, hb]
  rfl

include hv in
theorem takeEntry_stays (hb : e.branchTaken v = none) (hl : ln.pos.left = none) :
    takeEntry t ln f e = ln.took t e v (f.store t.check ln.acc ln.pos.entry e v) ln.pos := by
  rw [takeEntry, hv, hb, hl]
  rfl

include hv in
theorem takeEntry_counts (hb : e.branchTaken v = none) {n : Nat} (hl : ln.pos.left = some n) :
    takeEntry t ln f e = ln.took t e v (f.store t.check ln.acc ln.pos.entry e v)
      (if n ≤ 1 then reach t.entries (f.store t.check ln.acc ln.pos.entry e v).lengths (t.entries.length + 1)
        (ln.pos.entry + 1) else ⟨ln.pos.entry, some (n - 1)⟩) := by
  rw [takeEntry, hv, hb, hl]
  rfl

end

theorem branchTaken_some {e : Entry} {v : Nat} {b : Branch} (h : e.branchTaken v = some b) :
    e.branch = some b ∧ word v &&& b.mask = b.value &&& b.mask := by
  unfold Entry.branchTaken at h
  split at h
  · cases h
  · rename_i b' hb'
    split at h
    · rename_i hm
      cases h
      exact ⟨hb', hm⟩
    · cases h

theorem branchTaken_none {e : Entry} {v : Nat} {b : Branch} (h : e.branchTaken v = none) (hb : e.branch = some b) :
    word v &&& b.mask ≠ b.value &&& b.mask := fun hm => by
  rw [Entry.branchTaken, hb] at h
  cases (if_pos hm).symm.trans h

/-- One taking, with the value and its bytes as the gatherer's bits give them (R99, R101). -/
theorem takeEntry_spec (t : FrameTable) (ln : Lane) (f : PartialFrame) (e : Entry) {v : Nat}
    (hv : valueOf e.lsbFirst (ln.gatherer.take e.width) = v) : ∃ (f' : PartialFrame) (pos : Extract),
    takeEntry t ln f e = ln.took t e v f' pos ∧
    f' = { f.store t.check ln.acc ln.pos.entry e v with tag := f'.tag } ∧
    (∀ b, e.branch = some b → word v &&& b.mask = b.value &&& b.mask →
      f'.tag = b.tag ∧ pos = reach t.entries f'.lengths (t.entries.length + 1) b.target) ∧
    ((∀ b, e.branch = some b → word v &&& b.mask ≠ b.value &&& b.mask) →
      f'.tag = (f.store t.check ln.acc ln.pos.entry e v).tag ∧
      (ln.pos.left = none → pos = ln.pos) ∧
      (∀ n, ln.pos.left = some (n + 2) → pos = ⟨ln.pos.entry, some (n + 1)⟩) ∧
      (ln.pos.left = some 1 → pos = reach t.entries f'.lengths (t.entries.length + 1) (ln.pos.entry + 1))) := by
  cases hb : e.branchTaken v with
  | some b =>
    obtain ⟨hbr, hm⟩ := branchTaken_some hb
    refine ⟨_, _, takeEntry_branch t ln f e hv hb, rfl, fun b' hb' _ => ?_, fun hno => absurd hm (hno b hbr)⟩
    cases (hbr.symm.trans hb')
    exact ⟨rfl, rfl⟩
  | none =>
    cases hl : ln.pos.left with
    | none =>
      exact ⟨_, _, takeEntry_stays t ln f e hv hb hl, rfl, fun b hbr hm => absurd hm (branchTaken_none hb hbr),
        fun _ => ⟨rfl, fun _ => rfl, fun n hn => (by cases hn), fun hn => (by cases hn)⟩⟩
    | some n =>
      refine ⟨_, _, takeEntry_counts t ln f e hv hb hl, rfl, fun b hbr hm => absurd hm (branchTaken_none hb hbr),
        fun _ => ⟨rfl, fun hn => (by cases hn), fun m hm => ?_, fun hn => ?_⟩⟩
      · cases hm
        exact if_neg (by omega)
      · cases hn
        exact if_pos (Nat.le_refl 1)

/-! ## The takings of an entry reached -/

section
variable {entries : List Entry} {lengths : List (Nat × Nat)} {i : Nat}

theorem reach_passed (h : entries.length ≤ i) : reach entries lengths (entries.length + 1) i = ⟨i, some 0⟩ := by
  rw [reach, List.getElem?_eq_none h]

variable {e : Entry} (he : entries[i]? = some e)

include he in
theorem reach_unlimited (h : takings lengths e = none) : reach entries lengths (entries.length + 1) i = ⟨i, none⟩ := by
  rw [reach, he]
  dsimp only
  rw [h]

include he in
theorem reach_some {n : Nat} (h : takings lengths e = some n) (hn : 0 < n) :
    reach entries lengths (entries.length + 1) i = ⟨i, some n⟩ := by
  obtain ⟨m, rfl⟩ : ∃ m, n = m + 1 := ⟨n - 1, by omega⟩
  rw [reach, he]
  dsimp only
  rw [h]

include he in
theorem reach_zero (h : takings lengths e = some 0) :
    reach entries lengths (entries.length + 1) i = reach entries lengths (entries.length + 1) (i + 1) := by
  rw [reach, he]
  dsimp only
  rw [h]
  exact reach_fuel entries lengths _ _ _ (by omega) (by omega)

include he in
theorem reach_spec : (e.rep = .once → reach entries lengths (entries.length + 1) i = ⟨i, some 1⟩) ∧
    (∀ n, e.rep = .fixed n → 1 ≤ n → reach entries lengths (entries.length + 1) i = ⟨i, some n⟩) ∧
    (e.rep = .toEnd → reach entries lengths (entries.length + 1) i = ⟨i, none⟩) ∧
    (∀ (r : Nat) (off count : Int), e.rep = .byLength r off →
      count = ((lengths.lookup r).getD 0 : Nat) + off →
      (count ≤ 0 → reach entries lengths (entries.length + 1) i = reach entries lengths (entries.length + 1) (i + 1)) ∧
      (0 < count → reach entries lengths (entries.length + 1) i = ⟨i, some (min count.toNat 256)⟩)) := by
  refine ⟨fun h => reach_some he (by rw [takings, h]) Nat.one_pos, fun n h hn => reach_some he (by rw [takings, h]) hn,
    fun h => reach_unlimited he (by rw [takings, h]), fun r off count h hcount => ?_⟩
  have htake : takings lengths e = some (min count.toNat 256) := by
    rw [takings, h, hcount]
  refine ⟨fun hc => reach_zero he ?_, fun hc => reach_some he htake (by omega)⟩
  rw [htake, show count.toNat = 0 by omega]
  rfl

end

/-! ## The obligation -/

/-- Settles O38: the check values by the fold over the bytes, the units and takings from their equations. -/
theorem checkValuesClose : Obligations.CheckValuesClose := by
  refine ⟨fun c bytes acc hbytes hacc => ⟨fun hk => ?_, fun hk => ?_, fun hk => ?_, fun w hk hp hi hx => ?_⟩,
    fun t ln f hf hw => ⟨fun bits g first last f1 hg hf1 => ?_, fun h => extract_passed h _, fun e he =>
      ⟨fun h => extract_waits hf he h _, fun h => ⟨extract_takes hf he hw h, fun v bytes hv hbits hlen hbytes => ?_⟩⟩⟩,
    fun entries lengths i reached hreached => ?_⟩
  · rw [value_sum8 hk, hacc, feed_sum8 hk]
    omega
  · rw [hacc, value_xor8 hk]
  · rcases hk with hk | hk <;> simp [Check.value, Check.start, hk]
  · have ha : acc < 2 ^ w := by
      rw [hacc]
      exact crc_acc_lt hk hp bytes _ (by rw [crc_start hk]; exact hi)
    exact ⟨crc_start hk, ha, crc_value_lt hk ha hx, fun reg i b _ hi => testBit_crcBit w c.poly reg i b hi,
      fun byte regs _ h => crc_feed_steps hk byte regs h, fun i hi => testBit_crc_value hk acc i hi,
      fun hx0 hr => crc_closes hk hx0 hr ha⟩
  · subst hg hf1
    exact ⟨deliverUnit_surplus hf bits first last, deliverUnit_within hf bits first last⟩
  · obtain ⟨f', pos, htake, hf', hyes, hno⟩ := takeEntry_spec t ln f e (valueOf_unique h hv hbits)
    rw [store_eq, valueBytes_unique hlen hbytes] at hf'
    rw [Lane.took, valueBytes_unique hlen hbytes] at htake
    refine ⟨f', pos, htake, hf', hyes, fun hb => ?_⟩
    have hno := hno hb
    rw [store_eq] at hno
    exact hno
  · obtain rfl : reached = fun j => reach entries lengths (entries.length + 1) j := funext hreached
    exact ⟨reach_passed, fun e he => reach_spec he⟩

end Sys2Proof.Machine
end

section
/-! Chapters 6 and 7: what a lane hands over and what the record path does with it, for one lane among lanes that are OFF
(R112, R119, R140 to R143, R148). -/

namespace Sys2Proof.Machine

/-! ## The record path takes a frame -/

/-- The frame offered to its segment's log, if it has a segment (R141, R142). -/
def logged (seg : Option Nat) (r : FrameRecord) (s : State) : State :=
  match seg with
  | none => s
  | some i => placeInLog i r s

/-- The frame offered to the stream (R148). -/
def streamed (r : FrameRecord) (s : State) : State := if s.rpath.mask.getLsbD r.lane then streamFrame r s else s

theorem takeFrame_eq (seg : Option Nat) (e : Ended) (s : State) : takeFrame seg e s =
    streamed e.record (logged seg e.record (setTrigger (s.trigger.offer e.record e.address) s)) := by
  cases seg <;> rfl

section
variable {r : FrameRecord} {s : State}

theorem offered_unheard (a : Option Word) (h : s.trigger.state ≠ .running ∨ r.isReplay = true) :
    setTrigger (s.trigger.offer r a) s = s := by
  rw [offer_not _ _ _ h]
  rfl

theorem logged_early {i : Nat} (h : r.start < (segAt s i).oldest.getD (segAt s i).startTime) :
    logged (some i) r s = s := by
  have hl : (segAt s i).logs r = false := decide_eq_false (by omega)
  exact if_pos (by rw [hl]; rfl)

theorem logged_room {i : Nat} (h : (segAt s i).oldest.getD (segAt s i).startTime ≤ r.start)
    (hroom : s.rpath.logQueue.length < 64) :
    logged (some i) r s = setPath { s.rpath with logQueue := s.rpath.logQueue ++ [(i, logCopy r)] } s := by
  have hl : (segAt s i).logs r = true := decide_eq_true h
  exact (if_neg (by rw [hl]; decide)).trans (if_pos hroom)

theorem logged_full {i : Nat} (h : (segAt s i).oldest.getD (segAt s i).startTime ≤ r.start)
    (hfull : 64 ≤ s.rpath.logQueue.length) : logged (some i) r s = logOverflow i s := by
  have hl : (segAt s i).logs r = true := decide_eq_true h
  exact (if_neg (by rw [hl]; decide)).trans (if_neg (by simp only [Config.logQueueMax]; omega))

theorem streamed_unmasked (h : s.rpath.mask.getLsbD r.lane = false) : streamed r s = s := if_neg (by rw [h]; decide)

theorem streamed_room (h : s.rpath.mask.getLsbD r.lane = true) (hroom : s.rpath.stream.length < 512) :
    streamed r s = setPath { s.rpath with
      stream := s.rpath.stream ++ [{ r with droppedBefore := s.rpath.dropped[r.lane] }]
      dropped := s.rpath.dropped.set r.lane 0 } s :=
  (if_pos h).trans (if_pos hroom)

theorem streamed_full (h : s.rpath.mask.getLsbD r.lane = true) (hfull : 512 ≤ s.rpath.stream.length) :
    streamed r s = raise blkDecode (evFramesDropped r.lane) (setPath { s.rpath with
      dropped := s.rpath.dropped.set r.lane (min (s.rpath.dropped[r.lane] + 1) 255) } s) :=
  (if_pos h).trans (if_neg (by simp only [Config.streamMax]; omega))

end

/-! ## A lane applied -/

section
variable {l : LaneId} {seg : Option Nat} {o : LaneOut} {s : State}

theorem applyLane_lanes : (applyLane l seg o s).lanes = s.lanes.set l o.lane := by
  unfold applyLane
  cases o.frame <;> simp

theorem applyLane_no_frame (h : o.frame = none) : applyLane l seg o s =
    raiseIf o.off blkDecode (if o.lane.isReplay then evReplayDone l else evLaneStopped l)
      (raiseIf o.sync blkDecode (evSyncLost l) (setLane l o.lane s)) := by
  rw [applyLane, h]

theorem applyLane_frame_taken {e : Ended} (h : o.frame = some e) : applyLane l seg o s =
    raiseIf o.off blkDecode (if o.lane.isReplay then evReplayDone l else evLaneStopped l)
      (raiseIf o.sync blkDecode (evSyncLost l) (takeFrame seg e (setLane l o.lane s))) := by
  rw [applyLane, h]

theorem applyLane_quiet (hf : o.frame = none) (hs : o.sync = false) (ho : o.off = false) :
    applyLane l seg o s = setLane l o.lane s := by
  rw [applyLane_no_frame hf, hs, ho]
  rfl

end

/-! ## One lane among six -/

theorem forLanes_none {f : LaneId → State → State} {s : State} (h : ∀ m, f m s = s) : forLanes f s = s := by
  simp only [forLanes, h]

theorem forLanes_one {f : LaneId → State → State} {s : State} (l : LaneId) (h : ∀ m, m ≠ l → f m s = s)
    (h' : ∀ m, m ≠ l → f m (f l s) = f l s) : forLanes f s = f l s := by
  match l with
  | 0 => rw [forLanes, h' 1 (by decide), h' 2 (by decide), h' 3 (by decide), h' 4 (by decide), h' 5 (by decide)]
  | 1 => rw [forLanes, h 0 (by decide), h' 2 (by decide), h' 3 (by decide), h' 4 (by decide), h' 5 (by decide)]
  | 2 => rw [forLanes, h 0 (by decide), h 1 (by decide), h' 3 (by decide), h' 4 (by decide), h' 5 (by decide)]
  | 3 => rw [forLanes, h 0 (by decide), h 1 (by decide), h 2 (by decide), h' 4 (by decide), h' 5 (by decide)]
  | 4 => rw [forLanes, h 0 (by decide), h 1 (by decide), h 2 (by decide), h 3 (by decide), h' 5 (by decide)]
  | 5 => rw [forLanes, h 0 (by decide), h 1 (by decide), h 2 (by decide), h 3 (by decide), h 4 (by decide)]

section
variable {l : LaneId} {s : State}

theorem settleGap_not_live (h : (s.lanes[l]).live = false) : settleGap l s = s := by
  unfold settleGap
  split
  · rfl
  · exact if_neg (by rw [h, Bool.false_and]; decide)

theorem settleGap_not_due (h : ∀ t, (s.tables.slots[l]).table = some t → gapDue t s.lanes[l] = false) :
    settleGap l s = s := by
  unfold settleGap
  split
  · rfl
  · next t ht => exact if_neg (by rw [h t ht, Bool.and_false]; decide)

theorem settleGap_due {t : FrameTable} (ht : (s.tables.slots[l]).table = some t) (hlive : (s.lanes[l]).live = true)
    (h : gapDue t s.lanes[l] = true) : settleGap l s = applyLane l (logTarget l s) (endByGap t l s.lanes[l]) s := by
  rw [settleGap, tableOf, ht]
  exact if_pos (by rw [hlive, h]; rfl)

theorem liveLaneTick_not_live (n : Nat) (v : BitVec 32) (h : (s.lanes[l]).live = false) : liveLaneTick n v l s = s := by
  unfold liveLaneTick
  split
  · rfl
  · exact if_neg (by rw [h]; decide)

theorem liveLaneTick_live (n : Nat) (v : BitVec 32) {t : FrameTable} (ht : (s.tables.slots[l]).table = some t)
    (h : (s.lanes[l]).live = true) :
    liveLaneTick n v l s = applyLane l (logTarget l s) (laneTick t l n v s.lanes[l]) s := by
  rw [liveLaneTick, tableOf, ht]
  exact if_pos h

theorem live_of_off (h : (s.lanes[l]).state = .off) : (s.lanes[l]).live = false := by
  rw [Lane.live, h]
  rfl

theorem live_iff (ln : Lane) : ln.live = true ↔ ln.state ≠ .off ∧ ln.isReplay = false := by simp [Lane.live]

theorem lanes_set_ne {m : LaneId} (ln : Lane) (h : m ≠ l) : (s.lanes.set l ln)[m] = s.lanes[m] :=
  Vector.getElem_set_ne l.isLt m.isLt fun c => h (Fin.ext c.symm)

theorem lanes_set_self (ln : Lane) : (s.lanes.set l ln)[l] = ln := Vector.getElem_set_self l.isLt

/-- Every lane but `l` is OFF. -/
def OnlyLane (l : LaneId) (s : State) : Prop := ∀ m : LaneId, m ≠ l → (s.lanes[m]).state = .off

theorem OnlyLane.of_lanes {u : State} {ln : Lane} (h : OnlyLane l s) (hu : u.lanes = s.lanes.set l ln) :
    OnlyLane l u := fun m hm => by
  rw [hu, lanes_set_ne ln hm]
  exact h m hm

theorem settleGaps_one (h : OnlyLane l s)
    (hgap : ∀ t, (s.tables.slots[l]).table = some t → gapDue t s.lanes[l] = false) : settleGaps s = s :=
  forLanes_none fun m => by
    by_cases hm : m = l
    · rw [hm]
      exact settleGap_not_due hgap
    · exact settleGap_not_live (live_of_off (h m hm))

theorem liveTick_one (n : Nat) (v : BitVec 32) {t : FrameTable} (h : OnlyLane l s)
    (ht : (s.tables.slots[l]).table = some t) (hlive : (s.lanes[l]).live = true) :
    liveTick n v s = applyLane l (logTarget l s) (laneTick t l n v s.lanes[l]) s := by
  rw [liveTick, ← liveLaneTick_live n v ht hlive]
  refine forLanes_one l (fun m hm => liveLaneTick_not_live n v (live_of_off (h m hm))) fun m hm =>
    liveLaneTick_not_live n v (live_of_off ?_)
  rw [liveLaneTick_live n v ht hlive]
  exact h.of_lanes applyLane_lanes m hm

end

/-! ## The lane of a frame handed over -/

/-- A frame handed over is lane `l`'s. -/
def LaneOut.Of (l : LaneId) (o : LaneOut) : Prop := ∀ e, o.frame = some e → e.record.lane = l

theorem LaneOut.of_quiet (l : LaneId) (ln : Lane) : (LaneOut.quiet ln).Of l := nofun

theorem LaneOut.Of.lane {l : LaneId} {o : LaneOut} (h : o.Of l) (ln : Lane) : ({ o with lane := ln } : LaneOut).Of l := h

/-- A change of the lane, where it does not enter OFF. -/
def LaneOut.onLane (g : Lane → Lane) (o : LaneOut) : LaneOut := if o.off then o else { o with lane := g o.lane }

theorem LaneOut.Of.onLane {l : LaneId} {o : LaneOut} (h : o.Of l) (g : Lane → Lane) : (o.onLane g).Of l := by
  unfold LaneOut.onLane
  split
  · exact h
  · exact h.lane _

/-- The line's idle run after a tick, as part of the lane (R120). -/
def Lane.countIdle (idle : Bool) (ln : Lane) : Lane := { ln with front := ln.front.countIdle idle }

theorem startStopTick_char {t : FrameTable} {p : StartStop} {l : LaneId} {tick : Nat} {was now : BitVec 32} {ln : Lane}
    {c : CharState} (h : ln.front.char = some c) : startStopTick t p l tick was now ln =
      (charTick t p l tick (now.getLsbD p.chan) c ln).onLane (Lane.countIdle (now.getLsbD p.chan == p.idle)) := by
  rw [startStopTick, h]
  rfl

theorem startStopTick_edge {t : FrameTable} {p : StartStop} {l : LaneId} {tick : Nat} {was now : BitVec 32} {ln : Lane}
    (h : ln.front.char = none) : startStopTick t p l tick was now ln =
      .quiet ((edgeTick p tick (now.getLsbD p.chan) (was.getLsbD p.chan) ln).countIdle
        (now.getLsbD p.chan == p.idle)) := by
  rw [startStopTick, h]
  rfl

theorem laneTick_eq (t : FrameTable) (l : LaneId) (tick : Nat) (levels : BitVec 32) (ln : Lane) :
    laneTick t l tick levels ln = (judgeTick t l tick (levels &&& t.channelMask) ln).onLane
      fun x => { x with prev := some (levels &&& t.channelMask), lastTick := tick } := rfl

section
variable (t : FrameTable) (l : LaneId) (tick : Nat) (ln : Lane)

theorem endFrame_of (a off r : Bool) : (endFrame t l tick a off r ln).Of l := fun e he => by
  unfold endFrame at he
  dsimp only at he
  split at he
  · split at he <;> cases he
  · dsimp only at he
    split at he
    · cases he
      rfl
    · cases he

theorem afterUnit_of : (afterUnit t l tick ln).Of l := by
  unfold afterUnit
  split
  · exact endFrame_of t l tick ln _ _ _
  · exact LaneOut.of_quiet l _

theorem charTick_of (p : StartStop) (v : Bool) (c : CharState) : (charTick t p l tick v c ln).Of l := by
  unfold charTick
  dsimp only
  split
  · exact LaneOut.of_quiet l _
  split
  · split <;> exact LaneOut.of_quiet l _
  split
  · exact LaneOut.of_quiet l _
  split
  · exact endFrame_of t l tick _ _ _ _
  split
  · exact LaneOut.of_quiet l _
  · exact afterUnit_of t l tick _

theorem startStopTick_of (p : StartStop) (was now : BitVec 32) : (startStopTick t p l tick was now ln).Of l := by
  cases h : ln.front.char with
  | none =>
    rw [startStopTick_edge h]
    exact LaneOut.of_quiet l _
  | some c =>
    rw [startStopTick_char h]
    exact (charTick_of t l tick ln p _ c).onLane _

theorem strobedTick_of (p : Strobed) (was now : BitVec 32) : (strobedTick t p l tick was now ln).Of l := by
  have hbits : ∀ x, (strobeBits t p l tick now x).Of l := fun x => by
    unfold strobeBits
    dsimp only
    split
    · exact afterUnit_of t l tick _
    · exact LaneOut.of_quiet l _
  unfold strobedTick
  dsimp only
  split
  · split
    · exact endFrame_of t l tick _ _ _ _
    · exact LaneOut.of_quiet l _
  split
  · split
    · exact LaneOut.of_quiet l _
    · exact hbits _
  · exact LaneOut.of_quiet l _

theorem twoWireTick_of (p : TwoWire) (was now : BitVec 32) : (twoWireTick t p l tick was now ln).Of l := by
  have hbit : ∀ b, (twoWireBit t p l tick b ln).Of l := fun b => by
    unfold twoWireBit
    dsimp only
    split
    · exact afterUnit_of t l tick _
    · exact LaneOut.of_quiet l _
  have hend := endFrame_of t l tick ln false false false
  unfold twoWireTick
  dsimp only
  split
  · split
    · split
      · exact hend
      · exact hend.lane _
    · split <;> exact LaneOut.of_quiet l _
  split
  · split
    · exact hend
    · exact LaneOut.of_quiet l _
  split
  · exact hbit _
  · exact LaneOut.of_quiet l _

theorem laneTick_of (levels : BitVec 32) : (laneTick t l tick levels ln).Of l := by
  have h : (judgeTick t l tick (levels &&& t.channelMask) ln).Of l := by
    unfold judgeTick
    split
    · exact LaneOut.of_quiet l _
    · split
      · exact startStopTick_of t l tick ln _ _ _
      · exact strobedTick_of t l tick ln _ _ _
      · exact twoWireTick_of t l tick ln _ _ _
  rw [laneTick_eq]
  exact h.onLane _

end

/-! ## A live lane in MONITOR -/

/-- A stamped sample in MONITOR reaches the sequencer's previous sample and the one live lane. -/
theorem stampedSample_one_lane {s : State} {l : LaneId} {t : FrameTable} (n : Nat) (m : Sample) (e : Bool)
    (hseg : currentSeg s = none) (hidle : s.trigger.state = .idle) (hone : OnlyLane l s)
    (ht : (s.tables.slots[l]).table = some t) (hlive : (s.lanes[l]).live = true) (hreplay : (s.lanes[l]).replay = none) :
    stampedSample n m e s = applyLane l none (laneTick t l n m.levels s.lanes[l])
      (if e then keepPrevious m (s.trigger.termValues m) s else s) := by
  have hcap : captureSample n m e s = s := by rw [captureSample, hseg]
  have hseq : sequencerSample m e n s = if e then keepPrevious m (s.trigger.termValues m) s else s := by
    rw [sequencerSample, hidle]
  have hafter : ∀ u : State, u.capture = s.capture → u.lanes = s.lanes → u.tables = s.tables →
      settleAtTrigger (liveTick n m.levels (if u.startsNext then settleAtTrigger u else u)) =
        applyLane l none (laneTick t l n m.levels s.lanes[l]) u := by
    intro u hu hl htab
    have hsegU : currentSeg u = none := by
      rw [← hseg]
      unfold currentSeg
      rw [hu]
    have hnext : u.startsNext = false := by rw [State.startsNext, hsegU]
    have htarget : logTarget l u = none := by rw [logTarget, hl, hreplay, hsegU]
    have hsegT : currentSeg (applyLane l none (laneTick t l n m.levels s.lanes[l]) u) = none := by
      rw [← hsegU]
      unfold currentSeg
      rw [(applyLane_controller _ _ _ _).1]
    rw [hnext, if_neg Bool.false_ne_true, liveTick_one n m.levels (by unfold OnlyLane; rw [hl]; exact hone)
      (by rw [htab]; exact ht) (by rw [hl]; exact hlive), htarget, hl, settleAtTrigger,
      settlePostFill_no_segment hsegT, ite_self]
  unfold stampedSample
  dsimp only
  rw [hcap, hseq]
  cases e
  · exact hafter s rfl rfl rfl
  · exact hafter (keepPrevious m (s.trigger.termValues m) s) rfl rfl rfl

theorem settleBeforeSample_one {s : State} {l : LaneId} (hone : OnlyLane l s)
    (hgap : ∀ t, (s.tables.slots[l]).table = some t → gapDue t s.lanes[l] = false) (hseg : currentSeg s = none)
    (hlimit : timeLimitDue s = false) : settleBeforeSample s = s := by
  rw [settleBeforeSample, settleGaps_one hone hgap, settlePostFill_no_segment hseg, settleTimeLimit_not_due hlimit]

/-- What a grid tick in MONITOR does with the one live lane. -/
theorem gridTick_one_lane {s : State} {l : LaneId} {t : FrameTable} {n : Nat} (trigIn : Bool)
    (hctl : s.capture.ctl = .monitor) (hsamp : s.time.sampling = true) (hidle : s.trigger.state = .idle)
    (hone : OnlyLane l s) (ht : (s.tables.slots[l]).table = some t) (hlive : (s.lanes[l]).live = true)
    (hreplay : (s.lanes[l]).replay = none) (hgap : gapDue t s.lanes[l] = false) (hfresh : s.time.fresh = false)
    (htick : s.time.tick = some n) (hn : n < 281474976710655) :
    ∃ u : State, gridTick trigIn s = applyLane l none (laneTick t l (n + 1) u.time.last.levels s.lanes[l]) u ∧
      u.time.tick = some (n + 1) ∧ u.lanes = s.lanes ∧ u.rpath = s.rpath ∧ u.events = s.events ∧
      u.trigger.state = .idle := by
  have hseg : ∀ u : State, u.capture = s.capture → currentSeg u = none := fun u hu =>
    currentSeg_eq_none fun i hi => by
      rw [hu, hctl] at hi
      cases hi
  have hlimit : timeLimitDue s = false := by
    simp only [timeLimitDue, hsamp, hfresh, htick, Option.some_inj]
    exact decide_eq_false (by simp only [Config.lastTick]; omega)
  have hbefore := settleBeforeSample_one (s := setTrigger { s.trigger with trigOut := false } s) (l := l) hone
    (fun t' ht' => by cases (ht.symm.trans ht'); exact hgap) (hseg _ rfl) hlimit
  have hstamp : ∀ (u : State) (m : Sample) (e : Bool), u.capture = s.capture → u.lanes = s.lanes → u.tables = s.tables →
      u.rpath = s.rpath → u.events = s.events → u.trigger.state = .idle → u.time.tick = some (n + 1) →
      u.time.last = m → ∃ w : State,
        stampedSample (n + 1) m e u = applyLane l none (laneTick t l (n + 1) w.time.last.levels s.lanes[l]) w ∧
        w.time.tick = some (n + 1) ∧ w.lanes = s.lanes ∧ w.rpath = s.rpath ∧ w.events = s.events ∧
        w.trigger.state = .idle := by
    intro u m e hu hl htab hr hv htr htime hm
    rw [stampedSample_one_lane (n + 1) m e (hseg u hu) htr (by unfold OnlyLane; rw [hl]; exact hone)
      (by rw [htab]; exact ht) (by rw [hl]; exact hlive) (by rw [hl]; exact hreplay), hl, ← hm]
    cases e
    · exact ⟨u, rfl, htime, hl, hr, hv, htr⟩
    · exact ⟨keepPrevious u.time.last (u.trigger.termValues u.time.last) u, rfl, htime, hl, hr, hv, htr⟩
  have hnext : (if s.time.fresh then 0 else s.time.tick.getD 0 + 1) = n + 1 := by rw [hfresh, htick]; rfl
  rw [gridTick, hbefore]
  dsimp only
  rw [if_pos (by exact hsamp), setTrigger_time, hnext]
  exact hstamp _ _ _ rfl rfl rfl rfl rfl hidle rfl rfl

/-- What the record path has after a lane that is heard by no comparator and logged nowhere. -/
theorem applyLane_rpath {s : State} {l : LaneId} {o : LaneOut} (ho : o.Of l) (hidle : s.trigger.state ≠ .running) :
    (o.frame = none ∨ s.rpath.mask.getLsbD l = false → (applyLane l none o s).rpath = s.rpath) ∧
    (∀ e, o.frame = some e → s.rpath.mask.getLsbD l = true → s.rpath.stream.length < 512 →
      (applyLane l none o s).rpath = { s.rpath with
        stream := s.rpath.stream ++ [{ e.record with droppedBefore := s.rpath.dropped[l] }]
        dropped := s.rpath.dropped.set l 0 }) := by
  have htake : ∀ e, o.frame = some e → (applyLane l none o s).rpath = (streamed e.record (setLane l o.lane s)).rpath := by
    intro e he
    rw [applyLane_frame_taken he, takeFrame_eq, logged, offered_unheard _ (Or.inl (by exact hidle))]
    simp only [raiseIf_frame]
  refine ⟨fun h => ?_, fun e he hmask hroom => ?_⟩
  · cases he : o.frame with
    | none =>
      rw [applyLane_no_frame he]
      simp only [raiseIf_frame, setLane_rpath]
    | some e =>
      rcases h with h | h
      · cases (he.symm.trans h)
      · rw [htake e he, streamed_unmasked (by rw [ho e he]; exact h)]
        rfl
  · have hl := ho e he
    rw [htake e he, streamed_room (by rw [hl]; exact hmask) (by exact hroom)]
    simp only [hl]
    rfl

end Sys2Proof.Machine
end

section
/-! Chapter 6: LANE_START and the three front ends tick by tick (R113, R119 to R127). -/

namespace Sys2Proof.Machine

/-! ## A tick -/

/-- The lane has taken a tick: its previous levels and its last tick (R119). -/
def Lane.seen (now : BitVec 32) (tick : Nat) (ln : Lane) : Lane := { ln with prev := some now, lastTick := tick }

theorem onLane_quiet (g : Lane → Lane) (ln : Lane) : (LaneOut.quiet ln).onLane g = .quiet (g ln) := rfl

theorem masked_level {t : FrameTable} (hch : ∀ k ∈ t.front.channels, k < 32) (levels : BitVec 32) {k : Nat}
    (hk : k ∈ t.front.channels) : (levels &&& t.channelMask).getLsbD k = levels.getLsbD k := by
  have hmask : t.channelMask.getLsbD k = true := by
    rw [FrameTable.channelMask, getLsbD_maskOf _ _ (hch k hk)]
    exact decide_eq_true hk
  rw [BitVec.getLsbD_and, hmask, Bool.and_true]

section
variable {t : FrameTable} {l : LaneId} {tick : Nat} {levels was : BitVec 32} {ln : Lane}

theorem laneTick_first (h : ln.prev = none) : laneTick t l tick levels ln =
    .quiet ((firstTick t tick (levels &&& t.channelMask) ln).seen (levels &&& t.channelMask) tick) := by
  rw [laneTick_eq, judgeTick, h]
  rfl

variable (h : ln.prev = some was)

include h in
theorem laneTick_startStop {p : StartStop} (hf : t.front = .startStop p) : laneTick t l tick levels ln =
    (startStopTick t p l tick was (levels &&& t.channelMask) ln).onLane (Lane.seen (levels &&& t.channelMask) tick) := by
  rw [laneTick_eq, judgeTick, h]
  dsimp only
  rw [hf]
  rfl

include h in
theorem laneTick_strobed {p : Strobed} (hf : t.front = .strobed p) : laneTick t l tick levels ln =
    (strobedTick t p l tick was (levels &&& t.channelMask) ln).onLane (Lane.seen (levels &&& t.channelMask) tick) := by
  rw [laneTick_eq, judgeTick, h]
  dsimp only
  rw [hf]
  rfl

include h in
theorem laneTick_twoWire {p : TwoWire} (hf : t.front = .twoWire p) : laneTick t l tick levels ln =
    (twoWireTick t p l tick was (levels &&& t.channelMask) ln).onLane (Lane.seen (levels &&& t.channelMask) tick) := by
  rw [laneTick_eq, judgeTick, h]
  dsimp only
  rw [hf]
  rfl

end

theorem afterUnit_eq (t : FrameTable) (l : LaneId) (tick : Nat) {x : Lane} (h : x.frame.isSome) :
    afterUnit t l tick x = if t.endOnLast ∧ t.entries.length ≤ x.pos.entry then
      endFrame t l tick false false false x else .quiet x := by
  unfold afterUnit
  simp only [h, true_and, FrameTable.passed, decide_eq_true_eq]

/-! ## START-STOP -/

theorem countIdle_eq (f : FrontState) (v i : Bool) :
    f.countIdle (v == i) = { f with idleRun := if v = i then f.idleRun + 1 else 0 } := by
  simp only [FrontState.countIdle, beq_iff_eq]

theorem front_with_char {f : FrontState} {c : Option CharState} (h : f.char = c) (n : Nat) :
    ({ f with char := c, idleRun := n } : FrontState) = { f with idleRun := n } := by
  subst h
  rfl

theorem charTime_le_iff (p : StartStop) (n : Nat) : p.charTime ≤ n ↔
    (2 * (1 + p.dataBits + (if p.parity = .none then 0 else 1)) +
      (if p.stop = .one then 2 else if p.stop = .oneHalf then 3 else 4)) * p.period ≤ 512 * n := by
  have htime : p.charTime = ((2 * (1 + p.dataBits + (if p.parity = .none then 0 else 1)) +
      (if p.stop = .one then 2 else if p.stop = .oneHalf then 3 else 4)) * p.period + 511) / 512 := by
    unfold StartStop.charTime
    cases p.stop <;> rfl
  rw [htime]
  generalize (2 * (1 + p.dataBits + (if p.parity = .none then 0 else 1)) +
      (if p.stop = .one then 2 else if p.stop = .oneHalf then 3 else 4)) * p.period = x
  omega

theorem count_true (data : List Bool) (par : Bool) :
    (data ++ [par]).count true = (data.filter id).length + par.toNat := by
  induction data with
  | nil => cases par <;> rfl
  | cons b data ih => cases b <;> simp_all <;> omega

theorem parityOk_eq (p : StartStop) (data : List Bool) (par : Bool) : p.parityOk data par =
    match p.parity with
    | .none => true
    | .even => (data ++ [par]).count true % 2 == 0
    | .odd => (data ++ [par]).count true % 2 == 1
    | .mark => par
    | .space => !par := by
  unfold StartStop.parityOk
  cases p.parity <;> simp only [count_true]

theorem deliverUnit_front (t : FrameTable) (bits : List Bool) (a b : Nat) (ln : Lane) :
    (deliverUnit t bits a b ln).front = ln.front ∧ (deliverUnit t bits a b ln).resync = ln.resync := by
  have h := deliverUnit_with_front t bits a b ln ln.front ln.resync
  exact ⟨(congrArg Lane.front h).trans rfl, (congrArg Lane.resync h).trans rfl⟩

theorem countIdle_deliverUnit (t : FrameTable) (bits : List Bool) (a b : Nat) (ln : Lane) (i : Bool) :
    (deliverUnit t bits a b ln).countIdle i = deliverUnit t bits a b (ln.countIdle i) := by
  obtain ⟨hfront, hresync⟩ := deliverUnit_front t bits a b ln
  refine Eq.trans ?_ (deliverUnit_with_front t bits a b ln (ln.front.countIdle i) ln.resync).symm
  rw [Lane.countIdle, hfront, ← hresync]

theorem countIdle_endFrame (t : FrameTable) (l : LaneId) (tick : Nat) (a off r : Bool) (ln : Lane) (i : Bool) :
    (endFrame t l tick a off r ln).onLane (Lane.countIdle i) = endFrame t l tick a off r (ln.countIdle i) := by
  have hf : (ln.countIdle i).frame = ln.frame := rfl
  have hs : (ln.countIdle i).state = ln.state := rfl
  unfold endFrame LaneOut.onLane
  rw [hf, hs]
  cases ln.frame <;> cases off || decide (ln.state = .draining) <;> rfl

theorem countIdle_afterUnit (t : FrameTable) (l : LaneId) (tick : Nat) (ln : Lane) (i : Bool) :
    (afterUnit t l tick ln).onLane (Lane.countIdle i) = afterUnit t l tick (ln.countIdle i) := by
  unfold afterUnit
  by_cases h : ln.frame.isSome ∧ t.endOnLast ∧ t.passed ln.pos
  · rw [if_pos h, if_pos (by exact h)]
    exact countIdle_endFrame t l tick false false false ln i
  · rw [if_neg h, if_neg (by exact h)]
    rfl

section
variable {t : FrameTable} {p : StartStop} {l : LaneId} {tick : Nat} {v : Bool} {c : CharState} {ln : Lane}

theorem charTick_waits (h : tick ≠ c.start + p.offset c.taken) : charTick t p l tick v c ln = .quiet ln := if_pos h

variable (h : tick = c.start + p.offset c.taken)

include h in
theorem charTick_false_start (h0 : c.taken = 0) (hv : v = p.idle) :
    charTick t p l tick v c ln = .quiet { ln with front := { ln.front with char := none } } :=
  (if_neg (not_not_intro h)).trans ((if_pos h0).trans (if_pos hv))

include h in
theorem charTick_start (h0 : c.taken = 0) (hv : v ≠ p.idle) : charTick t p l tick v c ln =
    .quiet { (if ln.state = .hunt then openFrame t c.start ln else ln) with
      front := { (if ln.state = .hunt then openFrame t c.start ln else ln).front with
        char := some ⟨c.start, c.taken + 1, []⟩ } } :=
  (if_neg (not_not_intro h)).trans ((if_pos h0).trans (if_neg hv))

variable (h0 : 0 < c.taken)

include h h0 in
theorem charTick_bit (hb : c.taken < p.firstStop) : charTick t p l tick v c ln =
    .quiet { ln with front := { ln.front with char := some ⟨c.start, c.taken + 1, c.bits ++ [v]⟩ } } :=
  (if_neg (not_not_intro h)).trans ((if_neg (by omega)).trans (if_pos hb))

variable (h1 : p.firstStop ≤ c.taken)

include h h0 h1 in
theorem charTick_framing (hv : v ≠ p.idle) : charTick t p l tick v c ln =
    endFrame t l tick false false false
      (({ ln with front := { ln.front with char := none } } : Lane).mark fun f => { f with framing := true }) :=
  (if_neg (not_not_intro h)).trans ((if_neg (by omega)).trans ((if_neg (by omega)).trans (if_pos hv)))

include h h0 h1 in
theorem charTick_stop (hv : v = p.idle) (hb : c.taken < p.lastStop) : charTick t p l tick v c ln =
    .quiet { ln with front := { ln.front with char := some ⟨c.start, c.taken + 1, c.bits⟩ } } :=
  (if_neg (not_not_intro h)).trans ((if_neg (by omega)).trans ((if_neg (by omega)).trans
    ((if_neg (not_not_intro hv)).trans (if_pos hb))))

include h h0 h1 in
theorem charTick_unit (hv : v = p.idle) (hb : p.lastStop ≤ c.taken) : charTick t p l tick v c ln =
    afterUnit t l tick (charUnit t p c tick { ln with front := { ln.front with char := none } }) :=
  (if_neg (not_not_intro h)).trans ((if_neg (by omega)).trans ((if_neg (by omega)).trans
    ((if_neg (not_not_intro hv)).trans (if_neg (by omega)))))

end

theorem firstStop_pos (p : StartStop) : 0 < p.firstStop := by
  unfold StartStop.firstStop
  omega

/-! ## STROBED -/

theorem selected_iff (p : Strobed) (now : BitVec 32) :
    p.selected now = true ↔ ∀ k, p.select = some k → now.getLsbD k = p.active := by
  unfold Strobed.selected
  cases p.select with
  | none => exact ⟨nofun, fun _ => rfl⟩
  | some k =>
    rw [beq_iff_eq]
    exact ⟨fun h j hj => by cases hj; exact h, fun h => h k rfl⟩

/-- The resynchronising flag of a selected STROBED lane once a tick's quiet time is looked at (R124). -/
def Lane.strobedResync (ln : Lane) (p : Strobed) (gap tick : Nat) : Bool :=
  ln.resync && !(p.select.isNone && ln.front.quiet gap tick)

theorem strobedResync_iff (ln : Lane) (p : Strobed) (gap tick : Nat) : ln.strobedResync p gap tick = true ↔
    ln.resync = true ∧ ¬(p.select = none ∧ ∃ q, ln.front.quietFrom = some q ∧ q + gap ≤ tick) := by
  have hquiet : ln.front.quiet gap tick = true ↔ ∃ q, ln.front.quietFrom = some q ∧ q + gap ≤ tick := by
    unfold FrontState.quiet
    cases ln.front.quietFrom with
    | none => simp
    | some q => simp
  rw [Lane.strobedResync, Bool.and_eq_true, Bool.not_eq_true', ← Bool.not_eq_true, Bool.and_eq_true,
    Option.isNone_iff_eq_none, hquiet]

section
variable {t : FrameTable} {p : Strobed} {l : LaneId} {tick : Nat} {was now : BitVec 32} {ln : Lane}

theorem strobedTick_unselected (hsel : p.selected now = false) (hf : ln.frame = none) :
    strobedTick t p l tick was now ln = .quiet { ln with resync := false } := by
  rw [strobedTick, hsel]
  exact if_neg (show ¬ ln.frame.isSome = true by rw [hf]; decide)

theorem strobedTick_select_ends (hsel : p.selected now = false) (hf : ln.frame.isSome) :
    strobedTick t p l tick was now ln = endFrame t l tick false false false { ln with resync := false } := by
  rw [strobedTick, hsel]
  exact if_pos hf

variable (hsel : p.selected now = true)

include hsel in
theorem strobedTick_no_edge (hedge : clockEdge p.edge (was.getLsbD p.clock) (now.getLsbD p.clock) = false) :
    strobedTick t p l tick was now ln = .quiet { ln with resync := ln.strobedResync p t.gap tick } := by
  rw [strobedTick, hsel, hedge]
  rfl

variable (hedge : clockEdge p.edge (was.getLsbD p.clock) (now.getLsbD p.clock) = true)

include hsel hedge in
theorem strobedTick_ignored (hr : ln.strobedResync p t.gap tick = true) : strobedTick t p l tick was now ln =
    .quiet { ln with resync := true, front := { ln.front with quietFrom := some tick } } := by
  rw [Lane.strobedResync] at hr
  rw [strobedTick, hsel, hedge, hr]
  rfl

include hsel hedge in
theorem strobedTick_taken (hr : ln.strobedResync p t.gap tick = false) : strobedTick t p l tick was now ln =
    strobeBits t p l tick now (if ln.frame.isSome
      then { ln with resync := false, front := { ln.front with quietFrom := none } }
      else openFrame t tick { ln with resync := false, front := { ln.front with quietFrom := none } }) := by
  rw [Lane.strobedResync] at hr
  rw [strobedTick, hsel, hedge, hr]
  rfl

end

/-! ## TWO-WIRE -/

section
variable {t : FrameTable} {p : TwoWire} {l : LaneId} {tick : Nat} {was now : BitVec 32} {ln : Lane}

/-- The start condition: the data line falls while the clock line stays high (R97). -/
def TwoWire.starts (p : TwoWire) (was now : BitVec 32) : Bool :=
  was.getLsbD p.clock && now.getLsbD p.clock && was.getLsbD p.data && !now.getLsbD p.data

/-- The stop condition: the data line rises while the clock line stays high (R97). -/
def TwoWire.stops (p : TwoWire) (was now : BitVec 32) : Bool :=
  was.getLsbD p.clock && now.getLsbD p.clock && !was.getLsbD p.data && now.getLsbD p.data

theorem twoWireTick_eq : twoWireTick t p l tick was now ln =
    if p.starts was now then
      if ln.frame.isSome then
        if (endFrame t l tick false false false ln).off || (endFrame t l tick false false false ln).sync then
          endFrame t l tick false false false ln
        else { endFrame t l tick false false false ln with
          lane := openTwoWire t tick (endFrame t l tick false false false ln).lane }
      else if ln.resync then .quiet ln else .quiet (openTwoWire t tick ln)
    else if p.stops was now then
      if ln.frame.isSome then endFrame t l tick false false false ln else .quiet { ln with resync := false }
    else if !was.getLsbD p.clock && now.getLsbD p.clock && ln.frame.isSome then
      twoWireBit t p l tick (now.getLsbD p.data) ln
    else .quiet ln := rfl

theorem twoWireBit_eq {f : PartialFrame} (hf : ln.frame = some f) (b : Bool) {first : Nat}
    (hfirst : first = if ln.front.unitBits = [] ∧ f.units ≠ 0 then tick else ln.front.unitStart) :
    twoWireBit t p l tick b ln =
      if 9 ≤ (ln.front.unitBits ++ [b]).length then
        afterUnit t l tick (deliverUnit t
          (if p.keepAck then ln.front.unitBits ++ [b] else (ln.front.unitBits ++ [b]).take 8) first tick
          { ln with front := { ln.front with unitBits := [], unitStart := first, lastEdge := tick } })
      else .quiet { ln with front := { ln.front with
        unitBits := ln.front.unitBits ++ [b], unitStart := first, lastEdge := tick } } := by
  have hcond : (if (ln.front.unitBits.isEmpty && !(f.units == 0)) = true then tick else ln.front.unitStart) = first := by
    rw [hfirst]
    simp
  rw [twoWireBit, hf]
  dsimp only
  rw [hcond]

end

end Sys2Proof.Machine
end

section
/-! Section 6: LANE_START, the live lane of MONITOR and the ticks of the front ends, put together (R113, R119 to R127). -/

namespace Sys2Proof.Machine

/-! ## LANE_START -/

theorem cmdLaneStart_unknown {lane : Word} {s : State} (h : 5 < lane.toNat) :
    cmdLaneStart lane s = refuse .badArgument s := by
  rw [cmdLaneStart, laneOf_eq_none h]

section
variable {lane : Word} {l : LaneId} {s : State} (hl : lane.toNat = l.val)

include hl in
theorem cmdLaneStart_refused
    (h : (s.lanes[l]).state ≠ .off ∨ (s.tables.slots[l]).table = none ∨ s.time.mode = .state) :
    cmdLaneStart lane s = refuse .wrongState s := by
  rw [cmdLaneStart, laneOf_eq_some hl]
  by_cases h1 : (s.lanes[l]).state = .off
  · by_cases h2 : (s.tables.slots[l]).table = none
    · exact (if_neg (not_not_intro h1)).trans (if_pos (show (s.tables.slots[l]).table.isNone = true by rw [h2]; rfl))
    · have h3 : s.time.mode = .state := (h.resolve_left (not_not_intro h1)).resolve_left h2
      refine (if_neg (not_not_intro h1)).trans ((if_neg ?_).trans (if_pos h3))
      exact fun c => h2 (Option.isNone_iff_eq_none.1 c)
  · exact if_pos h1

include hl in
theorem cmdLaneStart_taken (h1 : (s.lanes[l]).state = .off) (h2 : (s.tables.slots[l]).table.isSome)
    (h3 : s.time.mode = .timing) : cmdLaneStart lane s = accept [] (setLane l Lane.started s) := by
  rw [cmdLaneStart, laneOf_eq_some hl]
  refine (if_neg (not_not_intro h1)).trans ((if_neg ?_).trans (if_neg (by rw [h3]; decide)))
  intro c
  have hnone : (s.tables.slots[l]).table = none := Option.isNone_iff_eq_none.1 c
  rw [hnone] at h2
  cases h2

end

/-! ## The front ends -/

section
variable {t : FrameTable} {l : LaneId} {tick : Nat} {levels was : BitVec 32} {ln : Lane}
  (hch : ∀ k ∈ t.front.channels, k < 32) (hprev : ln.prev = some was)

section
variable {p : StartStop} (hfront : t.front = .startStop p) {v : Bool} (hv : v = levels.getLsbD p.chan) {run : Nat}
  (hrun : run = if v = p.idle then ln.front.idleRun + 1 else 0)

include hch hprev hfront hv hrun in
/-- No character in progress: a start edge that counts begins one (R120). -/
theorem startStop_edge (hchar : ln.front.char = none) : laneTick t l tick levels ln =
    .quiet (Lane.seen (levels &&& t.channelMask) tick
      (if v ≠ p.idle ∧ was.getLsbD p.chan = p.idle ∧ (ln.resync = false ∨ p.charTime ≤ ln.front.idleRun)
        then { ln with resync := false, front := { ln.front with char := some ⟨tick, 0, []⟩, idleRun := run } }
        else { ln with front := { ln.front with char := none, idleRun := run } })) := by
  have hmask : (levels &&& t.channelMask).getLsbD p.chan = v := by
    rw [hv, masked_level hch levels (by rw [hfront]; exact List.mem_singleton_self _)]
  rw [laneTick_startStop hprev hfront, startStopTick_edge hchar, hmask, onLane_quiet, edgeTick, front_with_char hchar,
    hrun, Lane.countIdle, countIdle_eq]
  split <;> rfl

include hch hprev hfront hv in
/-- A character in progress: its tick, with the line's idle run counted (R120 to R122). -/
theorem startStop_char {c : CharState} (hchar : ln.front.char = some c) : laneTick t l tick levels ln =
    ((charTick t p l tick v c ln).onLane (Lane.countIdle (v == p.idle))).onLane
      (Lane.seen (levels &&& t.channelMask) tick) := by
  have hmask : (levels &&& t.channelMask).getLsbD p.chan = v := by
    rw [hv, masked_level hch levels (by rw [hfront]; exact List.mem_singleton_self _)]
  rw [laneTick_startStop hprev hfront, startStopTick_char hchar, hmask]

/-- The lane with the line's idle run counted and a character in progress, or none. -/
theorem countIdle_with_char (x : Lane) (c : Option CharState) (hx : x.front = ln.front)
    (hrun : run = if v = p.idle then ln.front.idleRun + 1 else 0) :
    ({ x with front := { x.front with char := c } } : Lane).countIdle (v == p.idle) =
      { x with front := { ln.front with char := c, idleRun := run } } := by
  rw [Lane.countIdle, countIdle_eq, hx, hrun]

include hch hprev hfront hv hrun in
/-- The last idle stop bit makes the data bits a unit (R95, R122). -/
theorem startStop_unit {c : CharState} (hchar : ln.front.char = some c)
    (htick : tick = c.start + (2 * c.taken + 1) * p.period / 512) (h0 : 0 < c.taken) (h1 : p.firstStop ≤ c.taken)
    (h2 : p.lastStop ≤ c.taken) (hidle : v = p.idle) {pf : PartialFrame} (hpf : ln.frame = some pf) :
    laneTick t l tick levels ln = (afterUnit t l tick (deliverUnit t
      (if p.msbFirst then (c.bits.take p.dataBits).reverse else c.bits.take p.dataBits) c.start tick
      { ln with
        front := { ln.front with char := none, idleRun := run }
        frame := some { pf with
          checkFailed := pf.checkFailed || !p.parityOk (c.bits.take p.dataBits) (c.bits.getD p.dataBits false) } })).onLane
      (Lane.seen (levels &&& t.channelMask) tick) := by
  rw [startStop_char hch hprev hfront hv hchar, charTick_unit htick h0 h1 hidle h2, countIdle_afterUnit, charUnit,
    countIdle_deliverUnit, Lane.mark, hpf]
  dsimp only [Option.map_some]
  rw [← countIdle_with_char (run := run) (p := p) (v := v) (ln := ln)
    { ln with frame := some { pf with
          checkFailed := pf.checkFailed || !p.parityOk (c.bits.take p.dataBits) (c.bits.getD p.dataBits false) } }
    none rfl hrun]

end

section
variable {p : Strobed} (hfront : t.front = .strobed p)

include hch hfront in
theorem strobed_selected (levels : BitVec 32) : p.selected (levels &&& t.channelMask) = true ↔
    ∀ k, p.select = some k → levels.getLsbD k = p.active := by
  rw [selected_iff]
  refine forall_congr' fun k => imp_congr_right fun hk => ?_
  rw [masked_level hch levels (by rw [hfront]; simp [FrontEnd.channels, hk])]

include hch hfront in
theorem strobed_clock (levels : BitVec 32) :
    (levels &&& t.channelMask).getLsbD p.clock = levels.getLsbD p.clock :=
  masked_level hch levels (by rw [hfront]; exact List.mem_cons_self)

include hch hfront in
theorem strobed_data (levels : BitVec 32) :
    p.data.map (levels &&& t.channelMask).getLsbD = p.data.map fun k => levels.getLsbD k :=
  List.map_congr_left fun k hk => masked_level hch levels (by rw [hfront]; simp [FrontEnd.channels, hk])

end

end

/-- The bits a sampling edge adds, and the unit they may complete (R124). -/
theorem strobeBits_eq (t : FrameTable) (p : Strobed) (l : LaneId) (tick : Nat) (now : BitVec 32) (ln : Lane)
    {bits : List Bool} {first : Nat} (hbits : bits = ln.front.unitBits ++ p.data.map now.getLsbD)
    (hfirst : first = if ln.front.unitBits = [] then tick else ln.front.unitStart) :
    strobeBits t p l tick now ln = if p.width ≤ bits.length then
      afterUnit t l tick (deliverUnit t bits first tick
        { ln with front := { ln.front with unitBits := [], unitStart := first, lastEdge := tick } })
      else .quiet { ln with front := { ln.front with unitBits := bits, unitStart := first, lastEdge := tick } } := by
  have hcond : (if ln.front.unitBits.isEmpty = true then tick else ln.front.unitStart) = first := by
    rw [hfirst]
    simp only [List.isEmpty_iff]
  unfold strobeBits
  dsimp only
  rw [hcond, ← hbits]

/-! ## The obligation -/

/-- Settles O39: LANE_START by its cases, the live lane by the tick of MONITOR, the front ends by their equations. -/
theorem laneStartJudgedInOrder : Obligations.LaneStartJudgedInOrder := by
  refine ⟨fun tag lane s hs => ⟨fun h => runCommand_refused tag 26 hs (cmdLaneStart_unknown h), fun l hl =>
    ⟨fun h => runCommand_refused tag 26 hs (cmdLaneStart_refused hl h), fun h1 h2 h3 =>
      runCommand_accepted tag 26 hs (cmdLaneStart_taken hl h1 h2 h3)⟩⟩, ?_, ?_⟩
  · intro trigIn l t n ln s hctl hsamp hidle hone hln hstate hlive hreplay ht hgap hfresh htick hn
    subst hln
    obtain ⟨u, hgrid, htickU, hlanes, hrpath, hevents, hidleU⟩ := gridTick_one_lane trigIn hctl hsamp hidle hone ht
      ((live_iff _).2 ⟨hstate, hlive⟩) hreplay hgap hfresh htick hn
    have htime : (gridTick trigIn s).time = u.time := by rw [hgrid]; simp only [applyLane_frame]
    have hpath := applyLane_rpath (s := u) (laneTick_of t l (n + 1) s.lanes[l] u.time.last.levels)
      (by rw [hidleU]; decide)
    rw [hrpath] at hpath
    refine ⟨_, rfl, by rw [htime]; exact htickU, fun m hm => ?_, fun out hout => ?_⟩
    · rw [hgrid, applyLane_lanes, lanes_set_ne _ hm, hlanes]
    · rw [htime] at hout
      rw [← hout] at hgrid hpath
      rw [hgrid, applyLane_lanes, lanes_set_self]
      refine ⟨rfl, hpath.1, hpath.2, fun hf hs ho => ?_⟩
      rw [applyLane_quiet hf hs ho]
      exact hevents
  · intro t l tick levels was ln out fin close hout hch hfin hclose
    obtain rfl : fin = Lane.seen (levels &&& t.channelMask) tick := funext hfin
    obtain rfl : close = LaneOut.onLane (Lane.seen (levels &&& t.channelMask) tick) := funext hclose
    subst hout
    refine ⟨fun k hk => ?_, fun hprev => ?_, fun x hx => afterUnit_eq t l tick hx, fun x n => rfl, ?_, ?_, ?_⟩
    · rw [FrameTable.channelMask, getLsbD_maskOf _ _ hk, decide_eq_true_eq]
    · rw [laneTick_first hprev]
      exact ⟨rfl, rfl, rfl, rfl, rfl, rfl, rfl⟩
    · intro p v run fr hprev hfront hv hrun hfr
      obtain rfl : fr = fun c => { ln.front with char := c, idleRun := run } := funext hfr
      refine ⟨fun hchar h hh => ?_, fun c hchar stop1 stop2 h1 h2 => ?_⟩
      · rw [startStop_edge hch hprev hfront hv hrun hchar]
        simp only [charTime_le_iff, ← hh]
      · rw [startStop_char hch hprev hfront hv hchar]
        have hstop1 : stop1 = p.firstStop := h1
        have hstop2 : stop2 = p.lastStop := by rw [h2, hstop1]; rfl
        have hpos := firstStop_pos p
        have hfirst : p.firstStop ≤ p.lastStop := Nat.le_add_right _ _
        refine ⟨fun htick => ?_, fun htick => ⟨fun h0 hidle => ?_, fun h0 hidle => ?_, fun h0 hb => ?_, fun hb hb2 hidle => ?_,
          fun hb hidle pf data par ok hpf hdata hpar hok => ?_⟩⟩
        · rw [charTick_waits htick, onLane_quiet, onLane_quiet, Lane.countIdle, countIdle_eq, hrun, ← hchar]
        · rw [charTick_false_start htick h0 hidle, onLane_quiet, onLane_quiet, countIdle_with_char ln none rfl hrun]
        · rw [charTick_start htick h0 hidle, onLane_quiet, onLane_quiet,
            countIdle_with_char (ln := ln) (run := run) _ _ (by split <;> rfl) hrun, h0]
        · rw [charTick_bit htick h0 (hstop1 ▸ hb), onLane_quiet, onLane_quiet, countIdle_with_char ln _ rfl hrun]
        · rw [charTick_stop htick (by omega) (hstop1 ▸ hb) hidle (hstop2 ▸ hb2), onLane_quiet, onLane_quiet,
            countIdle_with_char ln _ rfl hrun]
        · have hok' : p.parityOk data par = ok := (parityOk_eq p data par).trans hok.symm
          rw [← startStop_char hch hprev hfront hv hchar, startStop_unit hch hprev hfront hv hrun hchar htick (by omega)
            (by omega) (hstop2 ▸ hb) hidle hpf, ← hdata, ← hpar, hok']
    · intro p sel edge resync hprev hfront hsel hedge hresync
      have hsel' : p.selected (levels &&& t.channelMask) = sel :=
        Bool.eq_iff_iff.2 ((strobed_selected hch hfront levels).trans hsel.symm)
      have hedge' : clockEdge p.edge (was.getLsbD p.clock) ((levels &&& t.channelMask).getLsbD p.clock) = edge := by
        rw [strobed_clock hch hfront, hedge]
        rfl
      have hresync' : ln.strobedResync p t.gap tick = resync :=
        Bool.eq_iff_iff.2 ((strobedResync_iff ln p t.gap tick).trans hresync.symm)
      rw [laneTick_strobed hprev hfront]
      refine ⟨fun h hf => ?_, fun h he => ?_, fun h he hr => ?_, fun h he hr x bits first hx hbits hfirst => ?_⟩
      · rw [strobedTick_unselected (hsel'.trans h) hf, onLane_quiet]
      · rw [strobedTick_no_edge (hsel'.trans h) (hedge'.trans he), onLane_quiet, hresync']
      · rw [strobedTick_ignored (hsel'.trans h) (hedge'.trans he) (hresync'.trans hr), onLane_quiet]
      · have hlane : (if ln.frame.isSome then
            { ln with resync := false, front := { ln.front with quietFrom := none } }
            else openFrame t tick { ln with resync := false, front := { ln.front with quietFrom := none } }) =
            { x with resync := false, front := { ln.front with quietFrom := none } } := by
          rw [hx]
          split <;> rfl
        rw [strobedTick_taken (hsel'.trans h) (hedge'.trans he) (hresync'.trans hr), hlane,
          strobeBits_eq t p l tick _ { x with resync := false, front := { ln.front with quietFrom := none } } (bits := bits)
            (first := first) (by rw [strobed_data hch hfront]; exact hbits) hfirst]
        refine ⟨fun hw => ?_, fun hw => ?_⟩
        · rw [if_neg (by omega), onLane_quiet]
        · rw [if_pos hw]
    · intro p c0 c1 d0 d1 hprev hfront hc0 hc1 hd0 hd1
      have hclock : (levels &&& t.channelMask).getLsbD p.clock = c1 := by
        rw [masked_level hch levels (by rw [hfront]; simp [FrontEnd.channels]), hc1]
      have hdata : (levels &&& t.channelMask).getLsbD p.data = d1 := by
        rw [masked_level hch levels (by rw [hfront]; simp [FrontEnd.channels]), hd1]
      rw [laneTick_twoWire hprev hfront, twoWireTick_eq, TwoWire.starts, TwoWire.stops, hclock, hdata, ← hc0, ← hd0]
      refine ⟨fun hf => ⟨fun h hr => ?_, fun h hr => ?_, fun h => ?_, fun h => ?_⟩, fun pf bits first hf hbits hfirst =>
        ⟨fun h hlen => ?_, fun h hlen => ?_, fun h hno => ?_⟩⟩
      · rw [if_pos h, if_neg (by rw [hf]; decide), if_neg (by rw [hr]; decide), onLane_quiet, openTwoWire]
      · rw [if_pos h, if_neg (by rw [hf]; decide), if_pos hr, onLane_quiet]
      · have hno : (c0 && c1 && d0 && !d1) = false := by revert h; cases d0 <;> cases d1 <;> simp
        rw [hno, if_neg (by decide), if_pos h, if_neg (by rw [hf]; decide), onLane_quiet]
      · have hno : (c0 && c1 && d0 && !d1) = false ∧ (c0 && c1 && !d0 && d1) = false := by
          revert h; cases d0 <;> cases d1 <;> simp
        rw [hno.1, hno.2, hf, Option.isSome_none, Bool.and_false]
        exact onLane_quiet _ _
      · have hno : (c0 && c1 && d0 && !d1) = false ∧ (c0 && c1 && !d0 && d1) = false := by
          revert h; cases c0 <;> simp
        rw [hno.1, hno.2, if_neg (by decide), if_neg (by decide), h, if_pos (by rw [hf]; rfl), twoWireBit_eq hf d1 hfirst,
          ← hbits, if_neg (by omega), onLane_quiet]
      · have hno : (c0 && c1 && d0 && !d1) = false ∧ (c0 && c1 && !d0 && d1) = false := by
          revert h; cases c0 <;> simp
        rw [hno.1, hno.2, if_neg (by decide), if_neg (by decide), h, if_pos (by rw [hf]; rfl), twoWireBit_eq hf d1 hfirst,
          ← hbits, if_pos hlen]
      · have hcond : (c0 && c1 && d0 && !d1) = false ∧ (c0 && c1 && !d0 && d1) = false := by
          revert hno; cases d0 <;> cases d1 <;> simp
        rw [hcond.1, hcond.2, h, Bool.false_and]
        exact onLane_quiet _ _

end Sys2Proof.Machine
end

section
/-! Section 6.2: LANE_STOP by the lane's state (R114, R115, R133). -/

namespace Sys2Proof.Machine

theorem lane_set_self (s : State) (l : LaneId) (ln : Lane) : (setLane l ln s).lanes[l] = ln :=
  Vector.getElem_set_self l.isLt

/-- The record of a lane's partial frame closed as abandoned. -/
def PartialFrame.abandonedRecord (f : PartialFrame) (l : LaneId) (replay : Bool) (e : Nat) : FrameRecord :=
  ⟨l, replay, f.tag, .abandoned, f.start, e, f.units, f.fields, f.data, f.truncated, 0⟩

section
variable {t : FrameTable} {l : LaneId} {tick : Nat} {ln : Lane} {f : PartialFrame} (hf : ln.frame = some f)

include hf in
/-- An open frame without a complete unit is discarded. -/
theorem endFrame_abandoned_discards (hend : f.lastEnd = none) (herr : ln.errors < 3) :
    endFrame t l tick true true false ln = ⟨ln.toOff, none, false, true⟩ := by
  have hsync : decide (3 ≤ ln.errors) = false := decide_eq_false (by omega)
  rw [endFrame, hf]
  simp [hend, hsync]

include hf in
/-- An open frame with a complete unit is handed over as abandoned. -/
theorem endFrame_abandoned_hands {e : Nat} (hend : f.lastEnd = some e) (herr : ln.errors < 3) :
    endFrame t l tick true true false ln =
      ⟨ln.toOff, some ⟨f.abandonedRecord l ln.isReplay e, f.address⟩, decide (ln.errors = 2), true⟩ := by
  rw [endFrame, hf]
  simp [hend, frameCode, PartialFrame.abandonedRecord]
  omega

end

section
variable {lane : Word} {l : LaneId} {s : State} (hl : lane.toNat = l.val)
  (hgap : ∀ t, (s.tables.slots[l]).table = some t → gapDue t s.lanes[l] = false)

include hl hgap in
theorem cmdLaneStopGraceful_eq : cmdLaneStopGraceful lane s =
    accept [((stopGraceful l s).lanes[l]).state.code] (stopGraceful l s) := by
  rw [cmdLaneStopGraceful, laneOf_eq_some hl]
  dsimp only
  rw [settleGap_not_due hgap]

include hl hgap in
theorem cmdLaneStopNow_eq : cmdLaneStopNow lane s = accept [((stopNow l s).lanes[l]).state.code] (stopNow l s) := by
  rw [cmdLaneStopNow, laneOf_eq_some hl]
  dsimp only
  rw [settleGap_not_due hgap]

end

/-- The event of an entry to OFF (R112). -/
def Lane.offEvent (ln : Lane) (l : LaneId) : Word := if ln.isReplay then evReplayDone l else evLaneStopped l

section
variable {l : LaneId} {s : State}

theorem stopHunting_eq :
    stopHunting l s = raise blkDecode ((s.lanes[l]).offEvent l) (setLane l (s.lanes[l]).toOff s) :=
  applyLane_no_frame rfl

theorem stopGraceful_hunt (h : (s.lanes[l]).state = .hunt) : stopGraceful l s = stopHunting l s := by
  rw [stopGraceful, h]

theorem stopNow_hunt (h : (s.lanes[l]).state = .hunt) : stopNow l s = stopHunting l s := by
  unfold stopNow
  dsimp only
  rw [h]

theorem stopNow_open {t : FrameTable} (h : (s.lanes[l]).state = .inFrame ∨ (s.lanes[l]).state = .draining)
    (ht : (s.tables.slots[l]).table = some t) : stopNow l s =
      applyLane l (logTarget l s) (endFrame t l (s.lanes[l]).lastTick true true false s.lanes[l]) s := by
  unfold stopNow
  dsimp only
  rw [tableOf, ht]
  rcases h with h | h <;> rw [h]

theorem stopped_code (ln : Lane) (h : (s.lanes[l]) = ln.toOff) : ((s.lanes[l]).state).code = 0 := by
  rw [h]
  rfl

/-- NOW of an open frame without a complete unit. -/
theorem stopNow_discards {t : FrameTable} {f : PartialFrame}
    (h : (s.lanes[l]).state = .inFrame ∨ (s.lanes[l]).state = .draining)
    (ht : (s.tables.slots[l]).table = some t) (hf : (s.lanes[l]).frame = some f) (hend : f.lastEnd = none)
    (herr : (s.lanes[l]).errors < 3) : stopNow l s = stopHunting l s := by
  rw [stopNow_open h ht, endFrame_abandoned_discards hf hend herr, applyLane_no_frame rfl, stopHunting_eq]
  rfl

/-- NOW of an open frame with a complete unit: to the record path, then the events. -/
theorem stopNow_hands {t : FrameTable} {f : PartialFrame} {e : Nat}
    (h : (s.lanes[l]).state = .inFrame ∨ (s.lanes[l]).state = .draining)
    (ht : (s.tables.slots[l]).table = some t) (hf : (s.lanes[l]).frame = some f) (hend : f.lastEnd = some e)
    (herr : (s.lanes[l]).errors < 3) : stopNow l s =
      raise blkDecode ((s.lanes[l]).offEvent l) (raiseIf (decide ((s.lanes[l]).errors = 2)) blkDecode (evSyncLost l)
        (takeFrame (logTarget l s) ⟨f.abandonedRecord l (s.lanes[l]).isReplay e, f.address⟩
          (setLane l (s.lanes[l]).toOff s))) := by
  rw [stopNow_open h ht, endFrame_abandoned_hands hf hend herr, applyLane_frame_taken rfl]
  rfl

theorem logTarget_replay {r : Replay} (h : (s.lanes[l]).replay = some r) :
    logTarget l s = if r.store then some r.seg else none := by
  rw [logTarget, h]

theorem logTarget_live (h : (s.lanes[l]).replay = none) : logTarget l s = currentSeg s := by
  rw [logTarget, h]

theorem logTarget_capturing {i : Nat} (h : (s.lanes[l]).replay = none) (hc : s.capture.ctl = .capturing i) :
    logTarget l s = some i := by
  rw [logTarget_live h, currentSeg_eq_some.2 hc]

theorem logTarget_idle (h : (s.lanes[l]).replay = none) (hc : ∀ i, s.capture.ctl ≠ .capturing i) :
    logTarget l s = none := by
  rw [logTarget_live h, currentSeg_eq_none hc]

/-- The segment of a frame as its lane's replay and the controller give it is the model's (R141, R142). -/
theorem logTarget_unique {target : Option Nat}
    (hreplay : ∀ r, (s.lanes[l]).replay = some r → target = if r.store then some r.seg else none)
    (hlive : (s.lanes[l]).replay = none → (∀ i, s.capture.ctl = .capturing i → target = some i) ∧
      ((∀ i, s.capture.ctl ≠ .capturing i) → target = none)) : logTarget l s = target := by
  cases hr : (s.lanes[l]).replay with
  | some r => rw [logTarget_replay hr, hreplay r hr]
  | none =>
    by_cases hc : ∃ i, s.capture.ctl = .capturing i
    · obtain ⟨i, hc⟩ := hc
      rw [logTarget_capturing hr hc, (hlive hr).1 i hc]
    · have hno : ∀ i, s.capture.ctl ≠ .capturing i := fun i hi => hc ⟨i, hi⟩
      rw [logTarget_idle hr hno, (hlive hr).2 hno]

end

/-- An answer of NOW whose state leaves the lane OFF. -/
theorem laneStopNow_answered {tag : Tag} {lane : Word} {l : LaneId} {s u : State} (hs : canDispatch s = true)
    (hl : lane.toNat = l.val) (hgap : ∀ t, (s.tables.slots[l]).table = some t → gapDue t s.lanes[l] = false)
    (hu : stopNow l s = u) (hcode : ((u.lanes[l]).state).code = 0) :
    exec (.laneStopNow tag lane) s = .next (answered tag 27 .ok [0] u) :=
  runCommand_accepted tag 27 hs (by rw [cmdLaneStopNow_eq hl hgap, hu, hcode])

/-- An answer of GRACEFUL. -/
theorem laneStopGraceful_answered {tag : Tag} {lane : Word} {l : LaneId} {s u : State} {code : Word}
    (hs : canDispatch s = true) (hl : lane.toNat = l.val)
    (hgap : ∀ t, (s.tables.slots[l]).table = some t → gapDue t s.lanes[l] = false)
    (hu : stopGraceful l s = u) (hcode : ((u.lanes[l]).state).code = code) :
    exec (.laneStopGraceful tag lane) s = .next (answered tag 27 .ok [code] u) :=
  runCommand_accepted tag 27 hs (by rw [cmdLaneStopGraceful_eq hl hgap, hu, hcode])

/-- Settles O40: the lane's state decides, and an open frame goes through the record path. -/
theorem laneStopByState : Obligations.LaneStopByState := by
  intro tag lane s hs
  refine ⟨fun h => ⟨runCommand_refused tag 27 hs (by rw [cmdLaneStopGraceful, laneOf_eq_none h]),
    runCommand_refused tag 27 hs (by rw [cmdLaneStopNow, laneOf_eq_none h])⟩, fun l ln ev hl hln hgap hev => ?_⟩
  subst hln
  obtain rfl : ev = (s.lanes[l]).offEvent l := hev
  have hhunting : ((stopHunting l s).lanes[l]).state.code = 0 := by
    rw [stopHunting_eq]
    exact stopped_code s.lanes[l] (lane_set_self s l _)
  refine ⟨fun h => ?_, fun h => ?_, fun h => ?_, fun h => ?_, fun f hstate ht hf => ?_⟩
  · refine ⟨laneStopGraceful_answered hs hl hgap (by rw [stopGraceful, h]) (by rw [h]; rfl),
      laneStopNow_answered hs hl hgap ?_ (by rw [h]; rfl)⟩
    unfold stopNow
    dsimp only
    rw [h]
  · have hgraceful := laneStopGraceful_answered (tag := tag) hs hl hgap (stopGraceful_hunt h) hhunting
    have hnow := laneStopNow_answered (tag := tag) hs hl hgap (stopNow_hunt h) hhunting
    rw [hgraceful, hnow, stopHunting_eq]
    exact ⟨rfl, rfl⟩
  · have hset : stopGraceful l s = setLane l { s.lanes[l] with state := .draining } s := by rw [stopGraceful, h]
    exact laneStopGraceful_answered hs hl hgap hset
      (congrArg (fun x : Lane => x.state.code) (lane_set_self s l { s.lanes[l] with state := .draining }))
  · exact laneStopGraceful_answered hs hl hgap (by rw [stopGraceful, h]) (by rw [h]; rfl)
  · obtain ⟨t, ht⟩ := Option.isSome_iff_exists.1 ht
    have hnow : ∀ (e : Nat) (u : State), f.lastEnd = some e → (s.lanes[l]).errors < 3 →
        u = takeFrame (logTarget l s) ⟨f.abandonedRecord l (s.lanes[l]).isReplay e, f.address⟩
          (setLane l (s.lanes[l]).toOff s) →
        exec (.laneStopNow tag lane) s = .next (answered tag 27 .ok [0] (raise blkDecode ((s.lanes[l]).offEvent l)
          (raiseIf (decide ((s.lanes[l]).errors = 2)) blkDecode (evSyncLost l) u))) := by
      intro e u hend herr hu
      subst hu
      refine laneStopNow_answered hs hl hgap (stopNow_hands hstate ht hf hend herr) (stopped_code s.lanes[l] ?_)
      show (raiseIf _ _ _ _).lanes[l] = _
      simp only [raiseIf_frame, takeFrame_frame]
      exact lane_set_self s l _
    refine ⟨fun hend herr => ?_, fun e hend herr hreplay hstore hsome hmask hroom => ?_,
      fun e x target u hend herr hx hreplay hlive hu => ?_, fun e i hend herr hsource hi hstart hroom hmask => ?_⟩
    · rw [laneStopNow_answered hs hl hgap (stopNow_discards hstate ht hf hend herr) hhunting, stopHunting_eq]
      rfl
    · obtain ⟨r, hr⟩ := Option.isSome_iff_exists.1 hsome
      have htarget : logTarget l s = none := by rw [logTarget_replay hr, hstore r hr]; rfl
      rw [hnow e _ hend (by omega) rfl, htarget, takeFrame_eq, offered_unheard _ (Or.inr hreplay), logged,
        streamed_room (by exact hmask) (by exact hroom), decide_eq_false (by omega), raiseIf_false, Lane.offEvent, hreplay,
        Lane.toOff, hreplay]
      rfl
    · subst hx hu
      rw [hnow e _ hend herr rfl, logTarget_unique hreplay hlive]
      rfl
    · have htarget : logTarget l s = some i := by
        rcases hsource with ⟨-, hr, hc, -⟩ | ⟨-, r, hr, hstore, hseg⟩
        · exact logTarget_capturing hr hc
        · rw [logTarget_replay hr, hstore, hseg]
          rfl
      have hunheard : s.trigger.state ≠ .running ∨ (s.lanes[l]).isReplay = true := by
        rcases hsource with ⟨-, -, -, h⟩ | ⟨h, -⟩
        · exact Or.inl h
        · exact Or.inr h
      rw [hnow e _ hend (by omega) rfl, htarget, takeFrame_eq, offered_unheard _ (by exact hunheard),
        logged_room (by exact hstart) (by exact hroom), streamed_unmasked (by exact hmask), decide_eq_false (by omega),
        raiseIf_false]
      rfl

end Sys2Proof.Machine
end

section
/-! Section 6.7.1 and 6.8: a frame's end, by the line or by the gap (R123, R125, R127, R131, R132). -/

namespace Sys2Proof.Machine

theorem finished_iff (t : FrameTable) (x : Extract) : t.finished x = true ↔
    t.entries.length ≤ x.entry ∨ (x.entry + 1 = t.entries.length ∧ x.left = none) := by
  simp [FrameTable.finished, FrameTable.passed]

theorem unitInProgress_iff (ln : Lane) : ln.unitInProgress = true ↔ ln.front.unitBits ≠ [] := by
  simp [Lane.unitInProgress]

/-! ## The condition code -/

section
variable {t : FrameTable} {ln : Lane} {f : PartialFrame}

theorem frameCode_framing (h : f.framing = true) : frameCode t ln f false = .framing := by
  simp [frameCode, h]

theorem frameCode_timeout (h1 : f.framing = false) (h2 : f.timeout = true) : frameCode t ln f false = .timeout := by
  simp [frameCode, h1, h2]

variable (h1 : f.framing = false) (h2 : f.timeout = false)

include h1 h2 in
theorem frameCode_check (h3 : f.checkFailed = true) : frameCode t ln f false = .check := by
  simp [frameCode, h1, h2, h3]

variable (h3 : f.checkFailed = false)

include h1 h2 h3 in
theorem frameCode_long (h : f.long = true ∨ ln.front.unitBits ≠ [] ∨ ln.gatherer ≠ []) :
    frameCode t ln f false = .long := by
  have hlong : (f.long || ln.unitInProgress || !ln.gatherer.isEmpty) = true := by
    rcases h with h | h | h
    · rw [h, Bool.true_or, Bool.true_or]
    · rw [(unitInProgress_iff ln).2 h, Bool.or_true, Bool.true_or]
    · rw [show ln.gatherer.isEmpty = false by simpa using h, Bool.not_false, Bool.or_true]
  simp [frameCode, h1, h2, h3, hlong]

include h1 h2 h3 in
theorem frameCode_judged (h4 : f.long = false) (h5 : ln.front.unitBits = []) (h6 : ln.gatherer = []) :
    frameCode t ln f false = if t.finished ln.pos then .good else .short := by
  cases h : t.finished ln.pos <;> simp [frameCode, Lane.unitInProgress, h1, h2, h3, h4, h5, h6, h]

end

/-! ## The end of an open frame -/

/-- The record of a frame that ends at `tick` by another cause than a command. -/
def endedRecord (t : FrameTable) (l : LaneId) (tick : Nat) (ln : Lane) (f : PartialFrame) : FrameRecord :=
  ⟨l, ln.isReplay, f.tag, frameCode t ln f false, f.start, f.lastEnd.getD tick, f.units, f.fields, f.data, f.truncated, 0⟩

/-- The error count that a frame of a condition code leaves (R132). -/
def countAfter (c : FrameCode) (errors : Nat) : Nat := if c = .good then 0 else errors + 1

section
variable {t : FrameTable} {l : LaneId} {tick : Nat} {ln : Lane} {f : PartialFrame} (hf : ln.frame = some f)

include hf in
theorem endFrame_hands : (endFrame t l tick false false false ln).frame = some ⟨endedRecord t l tick ln f, f.address⟩ := by
  rw [endFrame, hf]
  rfl

include hf in
theorem endFrame_sync : (endFrame t l tick false false false ln).sync =
    decide (3 ≤ countAfter (frameCode t ln f false) ln.errors) := by
  rw [endFrame, hf]
  rfl

theorem endFrame_off : (endFrame t l tick false false false ln).off = decide (ln.state = .draining) := by
  rw [endFrame]
  cases ln.frame <;> cases decide (ln.state = .draining) <;> rfl

include hf in
theorem endFrame_draining (h : ln.state = .draining) : (endFrame t l tick false false false ln).lane = ln.toOff := by
  rw [endFrame, hf]
  exact if_pos (by rw [h]; rfl)

include hf in
theorem endFrame_hunts (h : ln.state ≠ .draining) : (endFrame t l tick false false false ln).lane = { ln with
    state := .hunt, frame := none, gatherer := [], pos := ⟨0, some 0⟩, acc := 0
    front := ln.front.discard
    errors := if decide (3 ≤ countAfter (frameCode t ln f false) ln.errors) then 0
      else countAfter (frameCode t ln f false) ln.errors
    resync := ln.resync || false || decide (3 ≤ countAfter (frameCode t ln f false) ln.errors) } := by
  rw [endFrame, hf]
  exact if_neg (by rw [decide_eq_false h]; decide)

theorem endFrame_isReplay : (endFrame t l tick false false false ln).lane.isReplay = ln.isReplay := by
  rw [endFrame]
  cases ln.frame <;> cases decide (ln.state = .draining) <;> rfl

include hf in
/-- What the end of an open frame leaves of the lane, by its state before (R131, R132). -/
theorem endFrame_leaves (herr : ln.errors < 3) :
    (ln.state = .draining →
      (endFrame t l tick false false false ln).lane = { Lane.reset with isReplay := ln.isReplay } ∧
      (endFrame t l tick false false false ln).off = true ∧
      (frameCode t ln f false = .good ∨ ln.errors < 2 → (endFrame t l tick false false false ln).sync = false) ∧
      (frameCode t ln f false ≠ .good → ln.errors = 2 → (endFrame t l tick false false false ln).sync = true)) ∧
    (ln.state ≠ .draining →
      (endFrame t l tick false false false ln).off = false ∧
      (endFrame t l tick false false false ln).lane.state = .hunt ∧
      (endFrame t l tick false false false ln).lane.frame = none ∧
      (endFrame t l tick false false false ln).lane.gatherer = [] ∧
      (frameCode t ln f false = .good → (endFrame t l tick false false false ln).sync = false ∧
        (endFrame t l tick false false false ln).lane.errors = 0 ∧
        (endFrame t l tick false false false ln).lane.resync = ln.resync) ∧
      (frameCode t ln f false ≠ .good → ln.errors < 2 → (endFrame t l tick false false false ln).sync = false ∧
        (endFrame t l tick false false false ln).lane.errors = ln.errors + 1 ∧
        (endFrame t l tick false false false ln).lane.resync = ln.resync) ∧
      (frameCode t ln f false ≠ .good → ln.errors = 2 → (endFrame t l tick false false false ln).sync = true ∧
        (endFrame t l tick false false false ln).lane.errors = 0 ∧
        (endFrame t l tick false false false ln).lane.resync = true)) := by
  have hgood : frameCode t ln f false = .good → countAfter (frameCode t ln f false) ln.errors = 0 := fun h => if_pos h
  have hbad : frameCode t ln f false ≠ .good → countAfter (frameCode t ln f false) ln.errors = ln.errors + 1 :=
    fun h => if_neg h
  rw [endFrame_off, endFrame_sync hf]
  refine ⟨fun h => ?_, fun h => ?_⟩
  · rw [endFrame_draining hf h, h]
    refine ⟨rfl, rfl, fun hc => decide_eq_false ?_, fun hc he => decide_eq_true (by rw [hbad hc]; omega)⟩
    by_cases hcode : frameCode t ln f false = .good
    · rw [hgood hcode]; omega
    · have := hc.resolve_left hcode
      rw [hbad hcode]; omega
  · rw [endFrame_hunts hf h]
    refine ⟨decide_eq_false h, rfl, rfl, rfl, fun hc => ?_, fun hc he => ?_, fun hc he => ?_⟩
    · rw [hgood hc]
      exact ⟨rfl, rfl, by simp⟩
    · rw [hbad hc, decide_eq_false (by omega)]
      exact ⟨rfl, rfl, by simp⟩
    · rw [hbad hc, he]
      exact ⟨rfl, rfl, by simp⟩

end

/-! ## The gap -/

section
variable {t : FrameTable} {l : LaneId} {ln : Lane} {f : PartialFrame}

theorem gapDue_iff (hf : ln.frame = some f) : gapDue t ln = true ↔ ln.front.char = none ∧
    (match t.front with
      | .startStop _ => f.lastEnd.getD f.start
      | .strobed _ => ln.front.lastEdge
      | .twoWire _ => ln.front.lastEdge) + t.gap ≤ ln.lastTick := by
  rw [gapDue, hf]
  dsimp only
  rw [Bool.and_eq_true, Option.isNone_iff_eq_none, decide_eq_true_eq]
  rfl

theorem gapTimesOut_iff : gapTimesOut t ln = true ↔ (∃ p, t.front = .twoWire p) ∨
    ∃ p, t.front = .strobed p ∧ p.select.isSome ∧ (ln.front.unitBits ≠ [] ∨ t.finished ln.pos = false) := by
  unfold gapTimesOut
  cases hfront : t.front with
  | startStop p => simp
  | twoWire p => simp
  | strobed p =>
    simp only [Bool.and_eq_true, Bool.or_eq_true, unitInProgress_iff, Bool.not_eq_true', reduceCtorEq, exists_false,
      false_or, FrontEnd.strobed.injEq, exists_eq_left']

theorem endByGap_due (hf : ln.frame = some f) (h : gapDue t ln = true) : endByGap t l ln =
    endFrame t l ln.lastTick false false false
      (if gapTimesOut t ln then { ln with frame := some { f with timeout := true } } else ln) := by
  rw [endByGap, if_pos h, Lane.mark, hf]
  rfl

end

/-- A frame that no comparator hears, no log takes and no stream carries leaves the lane and the events. -/
theorem applyLane_unrecorded {s : State} {l : LaneId} {o : LaneOut} (ho : o.Of l) (hidle : s.trigger.state ≠ .running)
    (hmask : s.rpath.mask.getLsbD l = false) (hlive : o.lane.isReplay = false) :
    applyLane l none o s = raiseIf o.off blkDecode (evLaneStopped l)
      (raiseIf o.sync blkDecode (evSyncLost l) (setLane l o.lane s)) := by
  cases he : o.frame with
  | none => rw [applyLane_no_frame he, hlive, if_neg (by decide)]
  | some e =>
    rw [applyLane_frame_taken he, takeFrame_eq, logged, offered_unheard _ (Or.inl (by exact hidle)),
      streamed_unmasked (by rw [ho e he]; exact hmask), hlive, if_neg (by decide)]

/-- Settles O41: the end of an open frame from its equations, the line's ends from the front ends' ticks, the gap's from the
row. -/
theorem frameEndJudgesAndHandsOver : Obligations.FrameEndJudgesAndHandsOver := by
  intro t l tick ln f out hf herr hout
  subst hout
  refine ⟨finished_iff t ln.pos, ⟨endedRecord t l tick ln f, endFrame_hands hf, rfl, rfl, rfl, rfl, rfl, rfl, rfl, rfl, rfl,
    frameCode_framing, frameCode_timeout, fun h1 h2 => ⟨frameCode_check h1 h2, fun h3 =>
      ⟨frameCode_long h1 h2 h3, frameCode_judged h1 h2 h3⟩⟩, endFrame_leaves hf herr⟩, ?_, gapDue_iff hf, ?_⟩
  · intro levels was got close hprev hch hgot hclose
    obtain rfl : close = LaneOut.onLane (Lane.seen (levels &&& t.channelMask) tick) := funext hclose
    subst hgot
    refine ⟨fun p c hfront hchar htick hstop hv => ?_, fun p k hfront hk hv => ?_, fun p hfront hc0 hc1 => ?_⟩
    · have h1 : p.firstStop ≤ c.taken := hstop
      have hpos := firstStop_pos p
      have hidle : (levels.getLsbD p.chan == p.idle) = false := beq_eq_false_iff_ne.2 hv
      rw [startStop_char hch hprev hfront rfl hchar, charTick_framing htick (by omega) h1 hv, countIdle_endFrame, hidle,
        Lane.mark, hf]
      rfl
    · have hsel : p.selected (levels &&& t.channelMask) = false := by
        rw [← Bool.not_eq_true, strobed_selected hch hfront]
        exact fun h => hv (h k hk)
      rw [laneTick_strobed hprev hfront, strobedTick_select_ends hsel (by rw [hf]; rfl)]
    · have hclock : (levels &&& t.channelMask).getLsbD p.clock = true := by
        rw [masked_level hch levels (by rw [hfront]; simp [FrontEnd.channels]), hc1]
      have hdata : (levels &&& t.channelMask).getLsbD p.data = levels.getLsbD p.data :=
        masked_level hch levels (by rw [hfront]; simp [FrontEnd.channels])
      rw [laneTick_twoWire hprev hfront, twoWireTick_eq, TwoWire.starts, TwoWire.stops, hclock, hdata, hc0]
      refine ⟨fun hd0 hd1 => ?_, fun hd0 hd1 => ?_⟩
      · rw [hd0, hd1, if_neg (by decide), if_pos (by decide), if_pos (by rw [hf]; rfl)]
      · rw [hd0, hd1, if_pos (by decide), if_pos (by rw [hf]; rfl)]
        refine ⟨fun h => ?_, fun ho hs => ?_⟩
        · rw [if_pos (by simpa using h)]
        · rw [if_neg (by rw [ho, hs]; decide)]
          rfl
  · intro s hln ht
    subst hln
    refine ⟨fun h => congrArg Host.Outcome.next ?_, fun late o hdue hstate hlive hreplay htick hidle hmask hctl hlate ho =>
      congrArg Host.Outcome.next ?_⟩
    · rcases h with h | h | h
      · exact settleGap_not_due fun t' ht' => by cases (ht.symm.trans ht'); exact h
      · exact settleGap_not_live (by rw [Lane.live, h, Bool.not_true, Bool.and_false])
      · exact settleGap_not_live (live_of_off h)
    · have hlate' : gapTimesOut t s.lanes[l] = late := Bool.eq_iff_iff.2 (gapTimesOut_iff.trans hlate.symm)
      have hend : endByGap t l s.lanes[l] = o := by rw [endByGap_due hf hdue, hlate', ho, ← htick]
      have hisLive : o.lane.isReplay = false := by
        rw [ho, endFrame_isReplay]
        split <;> exact hlive
      rw [settleGap_due ht ((live_iff _).2 ⟨hstate, hlive⟩) hdue, hend,
        logTarget_idle hreplay (fun i hi => by rw [hctl] at hi; cases hi),
        applyLane_unrecorded (by rw [ho]; exact endFrame_of t l tick _ _ _ _) hidle hmask hisLive]
      rfl

end Sys2Proof.Machine
end

section
/-! Sections 3.8 and 6.2: a grant to the only requester, LANE_REPLAY and the ticks of a replay (R58, R116 to R118, R142). -/

namespace Sys2Proof.Machine

/-! ## A grant to the only requester that waits -/

theorem arbiterGrant_only {r : Requester} {s : State} (hdue : postFillDue s = false) (hw : requesterWaits s r = true)
    (honly : ∀ q, requesterWaits s q = true → q = r) (hne : r ≠ .writer) :
    exec .arbiterGrant s = serve r (setRotation r s) := by
  have hqueue : s.capture.queue = [] := by
    by_contra h
    refine hne (honly .writer ?_).symm
    rw [requesterWaits, show s.capture.queue.isEmpty = false by simpa using h]
    rfl
  have hnext : nextRequester s = some r := nextRequester_eq_some hw fun q hq => by rw [honly q hq]
  have hgrant : exec .arbiterGrant s = arbitrate s := congrArg arbitrate (settlePostFill_not_due hdue)
  rw [hgrant, arbitrate, if_neg (by rw [hqueue]; decide), hnext]
  rfl

/-! ## The record a replay begins with -/

theorem replayStart_spec {s : State} {i f : Nat} (hpos : 0 < (segAt s i).retained) (h0 : (recordAt s i 0).time ≤ f)
    (hsort : ∀ a b, a < b → b < (segAt s i).retained → (recordAt s i a).time ≤ (recordAt s i b).time) :
    replayStart s i f < (segAt s i).retained ∧
    ((∃ j, j < (segAt s i).retained ∧ (recordAt s i j).time = f) →
      (recordAt s i (replayStart s i f)).time = f ∧ ∀ j, j < replayStart s i f → (recordAt s i j).time < f) ∧
    ((∀ j, j < (segAt s i).retained → (recordAt s i j).time ≠ f) →
      (recordAt s i (replayStart s i f)).time < f ∧
        ∀ j, replayStart s i f < j → j < (segAt s i).retained → f < (recordAt s i j).time) := by
  obtain ⟨hle, hbelow, hat⟩ := indexAtOrAfter_spec s i f
  have hfrom : ∀ j, indexAtOrAfter s i f ≤ j → j < (segAt s i).retained → f ≤ (recordAt s i j).time := fun j hj hlt => by
    have hfirst := hat (by omega)
    rcases Nat.eq_or_lt_of_le hj with h | h
    · rw [← h]; exact hfirst
    · exact hfirst.trans (hsort _ _ h hlt)
  by_cases hc : indexAtOrAfter s i f < (segAt s i).retained ∧ (recordAt s i (indexAtOrAfter s i f)).time = f
  · have hk : replayStart s i f = indexAtOrAfter s i f := if_pos hc
    rw [hk]
    exact ⟨hc.1, fun _ => ⟨hc.2, hbelow⟩, fun hno => absurd hc.2 (hno _ hc.1)⟩
  · have hk : replayStart s i f = indexAtOrAfter s i f - 1 := if_neg hc
    have hone : 0 < indexAtOrAfter s i f := by
      by_contra hz
      obtain hz : indexAtOrAfter s i f = 0 := by omega
      rw [hz] at hc hat
      exact hc ⟨hpos, Nat.le_antisymm h0 (hat hpos)⟩
    rw [hk]
    refine ⟨by omega, fun ⟨j, hj, hjf⟩ => absurd ?_ hc, fun hno => ⟨hbelow _ (by omega), fun j hj hlt => ?_⟩⟩
    · have hge : indexAtOrAfter s i f ≤ j := by
        by_contra hlt
        have := hbelow j (by omega)
        omega
      refine ⟨by omega, Nat.le_antisymm ?_ (hat (by omega))⟩
      rcases Nat.eq_or_lt_of_le hge with h | h
      · rw [h, hjf]
      · exact (hsort _ _ h hj).trans (Nat.le_of_eq hjf)
    · have h1 := hfrom j (by omega) hlt
      have h2 := hno j hlt
      omega

/-! ## A stored replay drops its lane's entries -/

/-- What a stored replay leaves of the record path (R142). -/
theorem dropLaneEntries_rpath {s : State} {i : Nat} {l : LaneId} {p : RecordPath}
    (hp : p = (dropLaneEntries i l s).rpath) {log : List FrameRecord} (hlog : log = s.rpath.logs.getD i []) :
    p = { s.rpath with
      logs := s.rpath.logs.set i (log.filter fun r => r.lane ≠ l)
      logQueue := s.rpath.logQueue.filter fun q => q.2.lane ≠ l
      readout := p.readout } ∧
    (∀ r, s.rpath.readout = some r →
      (r.seg ≠ i → p.readout = some r) ∧
      (r.seg = i → ∀ pos, pos = r.pos - ((log.take r.pos).filter fun x => x.lane = l).length →
        p.readout = some { r with
          pos := pos
          ended := r.ended || decide ((log.filter fun x => x.lane ≠ l).length ≤ pos) })) ∧
    (s.rpath.readout = none → p.readout = none) := by
  have hreadout : p.readout = s.rpath.readout.map fun r => if r.seg = i then
      r.afterRemoval ((log.take r.pos).filter (fun e => !decide (e.lane ≠ l))).length
        (log.filter fun r => decide (r.lane ≠ l)).length else r := by
    rw [hp, hlog]
    rfl
  subst hlog
  refine ⟨by rw [hp]; rfl, fun r hr => ⟨fun hne => ?_, fun heq pos hpos => ?_⟩, fun hnone => ?_⟩
  · rw [hreadout, hr, Option.map_some, if_neg hne]
  · have hgone : (fun e : FrameRecord => !decide (e.lane ≠ l)) = fun e => decide (e.lane = l) := by
      funext e
      simp
    rw [hreadout, hr, Option.map_some, if_pos heq, hgone, hpos]
    rfl
  · rw [hreadout, hnone]
    rfl

/-! ## LANE_REPLAY -/

theorem isStartStop_iff (f : FrontEnd) : f.isStartStop = true ↔ f.code = 0 := by
  cases f <;> simp [FrontEnd.isStartStop, FrontEnd.code]

theorem coversTable_iff (d : Segment) (t : FrameTable) : coversTable d t = true ↔ t.channelMask &&& ~~~d.mask = 0 :=
  beq_iff_eq

section
variable {lane seg store : Word} {fromT toT : DWord} {l : LaneId} {s : State} (hl : lane.toNat = l.val)

theorem cmdLaneReplay_unknown (h : 5 < lane.toNat ∨ s.capture.layout ≤ seg.toNat) :
    cmdLaneReplay lane seg fromT toT store s = refuse .badArgument s := by
  by_cases hlane : 5 < lane.toNat
  · rw [cmdLaneReplay, laneOf_eq_none hlane]
  · rw [cmdLaneReplay, laneOf_eq_some (l := ⟨lane.toNat, by omega⟩) rfl]
    exact if_pos (h.resolve_left hlane)

variable (hseg : seg.toNat < s.capture.layout)

include hl hseg in
theorem cmdLaneReplay_wrong (h : (s.lanes[l]).state ≠ .off ∨ (s.tables.slots[l]).table = none ∨
    ((segAt s seg.toNat).state ≠ .done ∧ (segAt s seg.toNat).state ≠ .stopped)) :
    cmdLaneReplay lane seg fromT toT store s = refuse .wrongState s := by
  rw [cmdLaneReplay, laneOf_eq_some hl]
  refine (if_neg (by omega)).trans ?_
  by_cases h1 : (s.lanes[l]).state = .off
  · refine (if_neg (not_not_intro h1)).trans ?_
    rw [tableOf]
    cases h2 : (s.tables.slots[l]).table with
    | none => rfl
    | some t =>
      have h3 := (h.resolve_left (not_not_intro h1)).resolve_left (by rw [h2]; nofun)
      have hopen : (segAt s seg.toNat).closed = false := by
        rw [← Bool.not_eq_true, closed_iff]
        exact fun c => c.elim h3.1 h3.2
      exact if_pos (by rw [hopen]; rfl)
  · exact if_pos h1

include hl hseg in
theorem cmdLaneReplay_from (hoff : (s.lanes[l]).state = .off) {t : FrameTable}
    (ht : (s.tables.slots[l]).table = some t)
    (hclosed : (segAt s seg.toNat).state = .done ∨ (segAt s seg.toNat).state = .stopped) :
    cmdLaneReplay lane seg fromT toT store s =
      replayFrom l t seg.toNat fromT.toNat toT.toNat (store.getLsbD 0) s := by
  rw [cmdLaneReplay, laneOf_eq_some hl]
  refine (if_neg (by omega)).trans ((if_neg (not_not_intro hoff)).trans ?_)
  rw [tableOf, ht]
  exact if_neg (by rw [(closed_iff _).2 hclosed]; decide)

end

section
variable {l : LaneId} {t : FrameTable} {i fromT toT oldest last f e : Nat} {store : Bool} {s : State}
  (hold : (segAt s i).oldest = some oldest) (hend : (segAt s i).endTime = some last) (hf : f = max fromT oldest)
  (he : e = min toT last)

include hold hend hf he in
theorem replayFrom_eq : replayFrom l t i fromT toT store s =
    if !coversTable (segAt s i) t then refuse .badArgument s
    else if t.front.isStartStop && decide ((segAt s i).mode = .state) then refuse .badArgument s
    else if e < f then refuse .badArgument s
    else accept (timeWords f ++ timeWords e) (if store then dropLaneEntries i l (setLane l (replayLane s i f e store) s)
      else setLane l (replayLane s i f e store) s) := by
  rw [replayFrom, hold, hend, hf, he]
  rfl

include hold hend hf he in
theorem replayFrom_refused (h : t.channelMask &&& ~~~(segAt s i).mask ≠ 0 ∨
    (t.front.code = 0 ∧ (segAt s i).mode = .state) ∨ e < f) : replayFrom l t i fromT toT store s = refuse .badArgument s := by
  rw [replayFrom_eq hold hend hf he]
  by_cases h1 : coversTable (segAt s i) t = true
  · rw [if_neg (by rw [h1]; decide)]
    have h := h.resolve_left (not_not_intro ((coversTable_iff _ _).1 h1))
    by_cases h2 : t.front.code = 0 ∧ (segAt s i).mode = .state
    · rw [if_pos (by rw [(isStartStop_iff _).2 h2.1, h2.2]; rfl)]
    · rw [if_pos (h.resolve_left h2), ite_self]
  · rw [if_pos (by simpa using h1)]

include hold hend hf he in
theorem replayFrom_taken (h1 : t.channelMask &&& ~~~(segAt s i).mask = 0)
    (h2 : t.front.code ≠ 0 ∨ (segAt s i).mode = .timing) (h3 : f ≤ e) : replayFrom l t i fromT toT store s =
      accept (timeWords f ++ timeWords e) (if store then dropLaneEntries i l (setLane l (replayLane s i f e store) s)
        else setLane l (replayLane s i f e store) s) := by
  have hstate : ¬ (t.front.isStartStop && decide ((segAt s i).mode = .state)) = true := by
    rw [Bool.and_eq_true, isStartStop_iff, decide_eq_true_eq]
    rintro ⟨hc, hm⟩
    rcases h2 with h2 | h2
    · exact h2 hc
    · cases (hm.symm.trans h2)
  rw [replayFrom_eq hold hend hf he, if_neg (by rw [(coversTable_iff _ _).2 h1]; decide), if_neg hstate,
    if_neg (by omega)]

end

/-! ## The ticks of a replay -/

theorem replays_iff (ln : Lane) : ln.replays = true ↔ ln.state ≠ .off ∧ ln.isReplay = true := by simp [Lane.replays]

theorem setLane_setLane (l : LaneId) (x y : Lane) (s : State) : setLane l x (setLane l y s) = setLane l x s := by
  simp [setLane]

section
variable {t : FrameTable} {l : LaneId} {s : State}

/-- A lane without an open frame enters OFF. -/
theorem applyLane_toOff (seg : Option Nat) (ln : Lane) (h : ln.isReplay = true) :
    applyLane l seg ⟨ln.toOff, none, false, true⟩ s =
      raise blkDecode (evReplayDone l) (setLane l { Lane.reset with isReplay := true } s) := by
  rw [applyLane_no_frame rfl, Lane.toOff, h]
  rfl

theorem replayEnd_no_frame {ln : Lane} (hln : s.lanes[l] = ln) (h : ln.replays = true) (hf : ln.frame = none)
    (tick : Nat) : replayEnd t l tick s =
      raise blkDecode (evReplayDone l) (setLane l { Lane.reset with isReplay := true } s) := by
  rw [replayEnd, hln]
  dsimp only
  rw [if_pos h, endFrame_off_of_none t l tick true false ln hf, applyLane_toOff _ ln ((replays_iff _).1 h).2]

/-- An OVERRUN's tick on a lane with no complete unit: what is left of it. -/
theorem endFrame_overrun {ln : Lane} (tick : Nat) (hstate : ln.state ≠ .draining) :
    (ln.frame = none → endFrame t l tick true false true ln =
      .quiet { ln with state := .hunt, front := ln.front.discard, resync := true }) ∧
    (∀ f, ln.frame = some f → f.lastEnd = none → ln.errors < 3 → endFrame t l tick true false true ln =
      .quiet { ln with
        state := .hunt, front := ln.front.discard, resync := true, frame := none, gatherer := [], pos := ⟨0, some 0⟩
        acc := 0 }) := by
  refine ⟨fun hf => ?_, fun f hf hend herr => ?_⟩
  · rw [endFrame, hf]
    simp [hstate]
  · have hsync : decide (3 ≤ ln.errors) = false := decide_eq_false (by omega)
    rw [endFrame, hf]
    simp [hstate, hend, hsync, LaneOut.quiet]

theorem endFrame_overrun_draining {ln : Lane} (tick : Nat) (hstate : ln.state = .draining) (herr : ln.errors < 3)
    (hf : ∀ f, ln.frame = some f → f.lastEnd = none) :
    endFrame t l tick true false true ln = ⟨ln.toOff, none, false, true⟩ := by
  cases hfr : ln.frame with
  | none =>
    rw [endFrame, hfr]
    simp [hstate]
  | some f =>
    have hsync : decide (3 ≤ ln.errors) = false := decide_eq_false (by omega)
    rw [endFrame, hfr]
    simp [hstate, hf f hfr, hsync]

/-- A tick of a replay once an OVERRUN record's effect is past: the lane stands as `x`. -/
theorem replayTick_taken {ln x : Lane} {r : Replay} {out : LaneOut} (hln : s.lanes[l] = ln) (hr : ln.replay = some r)
    (hover : (if r.overrunAt = some r.nextTick then replayOverrun t l r.nextTick s else s) = setLane l x s)
    (hx : x.replays = true) (hxr : x.replay = some r) (hout : out = laneTick t l r.nextTick r.levels x)
    (hframe : out.frame = none) (hsync : out.sync = false) (hoff : out.off = false)
    (hgap : gapDue t out.lane = false) : replayTick t l s = setLane l { out.lane with
      replay := some { r with nextTick := r.nextTick + 1, overrunAt := none } } s := by
  obtain ⟨hstate, hreplay⟩ := (replays_iff x).1 hx
  obtain ⟨hkreplay, hkctx, hkstate⟩ := hout ▸ laneTick_keeps t l r.nextTick r.levels x (by rw [← hout]; exact hoff)
  have hlane : out.lane.replays = true := (replays_iff _).2 ⟨hkstate hstate, hkreplay.trans hreplay⟩
  have hnext : out.lane.nextReplayTick = { out.lane with
      replay := some { r with nextTick := r.nextTick + 1, overrunAt := none } } := by
    rw [Lane.nextReplayTick, hkctx, hxr]
    rfl
  have hgapped : replayGap t l (setLane l out.lane s) = setLane l out.lane s := by
    rw [replayGap, lane_set_self]
    exact if_neg (by rw [hgap, Bool.and_false]; decide)
  rw [replayTick, hln, hr]
  dsimp only
  rw [hover, lane_set_self, if_pos hx, ← hout, applyLane_quiet hframe hsync hoff, setLane_setLane, hgapped, lane_set_self,
    if_pos hlane, hnext, setLane_setLane]

theorem replayTicks_succ {ln : Lane} (hln : s.lanes[l] = ln) (h : ln.replays = true) (n : Nat) :
    replayTicks t l (n + 1) s = replayTicks t l n (replayTick t l s) := by
  rw [replayTicks, hln, if_pos h]

end

/-! ## The grants of a replay -/

section
variable {t : FrameTable} {l : LaneId} {s s2 : State} {ln2 : Lane} {r : Replay} {record : Record} {n : Nat}
  (ht : (s.tables.slots[l]).table = some t) (hr : (s.lanes[l]).replay = some r)
  (hrecord : record = recordAt s r.seg r.nextIndex) (hs2 : s2 = replayTicks t l n s) (hln2 : ln2 = s2.lanes[l])

include ht hr hrecord hs2 in
/-- A record after the to tick: the ticks up to it, then the end. -/
theorem replayRead_after (hlate : r.toTick < record.time) (hn : n = r.toTick + 1 - r.nextTick) :
    replayRead l s = replayEnd t l r.toTick s2 := by
  rw [replayRead, tableOf, ht, hr]
  dsimp only
  rw [← hrecord, if_pos hlate, hs2, hn]

variable (htime : record.time ≤ r.toTick) (hn : n = record.time - r.nextTick) (hrep : ln2.replays = true)

include ht hr hrecord hs2 hln2 htime hn hrep in
/-- A record up to the to tick: the ticks before it, then its levels; the last one lets the replay end. -/
theorem replayRead_upTo : replayRead l s =
    if (segAt s r.seg).retained ≤ r.nextIndex + 1 then
      replayEnd t l r.toTick (replayTicks t l (r.toTick + 1 - max r.nextTick record.time)
        (setLane l { ln2 with replay := ln2.replay.map fun q => q.take record } s2))
    else setLane l { ln2 with replay := ln2.replay.map fun q => q.take record } s2 := by
  rw [replayRead, tableOf, ht, hr]
  dsimp only
  rw [← hrecord, if_neg (by omega), ← hn, ← hs2, ← hln2, if_pos hrep]

end

/-- A grant to a lane that is the only requester. -/
theorem arbiterGrant_replays {l : LaneId} {s : State} {ln : Lane} (hln : s.lanes[l] = ln) (h : ln.replays = true)
    (hdue : postFillDue s = false) (honly : ∀ q, requesterWaits s q = true → q = .lane l) :
    exec .arbiterGrant s = .next (replayRead l (setRotation (.lane l) s)) :=
  arbiterGrant_only hdue (by rw [requesterWaits, hln]; exact h) honly nofun

/-- Settles O42: the command in the order of its cases, a tick by what the OVERRUN leaves, a grant by the record read. -/
theorem laneReplayJudgedInOrder : Obligations.LaneReplayJudgedInOrder := by
  refine ⟨fun tag lane seg fromT toT store s hs => ⟨fun h => runCommand_refused tag 28 hs (cmdLaneReplay_unknown h),
    fun l i d hl hi hlayout hd => ⟨fun h => ?_, fun t oldest last f e hoff ht hclosed hold hend hf he => ?_⟩⟩, ?_⟩
  · subst hi hd
    exact runCommand_refused tag 28 hs (cmdLaneReplay_wrong hl hlayout h)
  · subst hi hd
    refine ⟨fun h => runCommand_refused tag 28 hs ?_, fun h1 h2 h3 => ?_⟩
    · rw [cmdLaneReplay_from hl hlayout hoff ht hclosed, replayFrom_refused hold hend hf he h]
    · have hcmd := (cmdLaneReplay_from (fromT := fromT) (toT := toT) (store := store) hl hlayout hoff ht hclosed).trans
        (replayFrom_taken hold hend hf he h1 h2 h3)
      refine ⟨replayStart s seg.toNat f, (if store.getLsbD 0 then
        dropLaneEntries seg.toNat l (setLane l (replayLane s seg.toNat f e (store.getLsbD 0)) s) else s).rpath,
        (runCommand_accepted tag 28 hs hcmd).trans ?_, replayStart_spec, fun h => ?_, fun h _ log hlog => ?_⟩
      · cases store.getLsbD 0 <;> rfl
      · rw [h]
        rfl
      · rw [if_pos h]
        exact dropLaneEntries_rpath (s := setLane l (replayLane s seg.toNat f e (store.getLsbD 0)) s) rfl hlog
  · intro l t s ln r hln ht hstate hreplay hr
    have hrep : ln.replays = true := (replays_iff ln).2 ⟨hstate, hreplay⟩
    refine ⟨fun x out hout hframe hsync hoff hgap hx => ?_, fun hover hdrain herr hf => ?_, fun n =>
      ⟨rfl, replayTicks_succ hln.symm hrep n⟩, fun s1 s2 ln2 record n hdue honly hrecord hs1 hs2 hln2 h2 h2r => ?_⟩
    · rcases hx with ⟨hno, rfl⟩ | ⟨hover, hdrain, hx⟩
      · refine replayTick_taken hln.symm hr ?_ hrep hr hout hframe hsync hoff hgap
        rw [if_neg hno, hln, setLane_self]
      · have hend := endFrame_overrun (t := t) (l := l) r.nextTick hdrain
        have hset : replayOverrun t l r.nextTick s = setLane l x s := by
          rw [replayOverrun, ← hln]
          rcases hx with ⟨hf, rfl⟩ | ⟨f, hf, hlast, herr, rfl⟩
          · rw [hend.1 hf]
            exact applyLane_quiet rfl rfl rfl
          · rw [hend.2 f hf hlast herr]
            exact applyLane_quiet rfl rfl rfl
        have hxrep : x.replays = true ∧ x.replay = some r := by
          rcases hx with ⟨-, rfl⟩ | ⟨f, -, -, -, rfl⟩
          · exact ⟨(replays_iff _).2 ⟨nofun, hreplay⟩, hr⟩
          · exact ⟨(replays_iff _).2 ⟨nofun, hreplay⟩, hr⟩
        exact replayTick_taken hln.symm hr (by rw [if_pos hover, hset]) hxrep.1 hxrep.2 hout hframe hsync hoff hgap
    · have hoff : replayOverrun t l r.nextTick s =
          raise blkDecode (evReplayDone l) (setLane l { Lane.reset with isReplay := true } s) := by
        rw [replayOverrun, ← hln, endFrame_overrun_draining r.nextTick hdrain herr hf, applyLane_toOff _ ln hreplay]
      have hlane : ((replayOverrun t l r.nextTick s).lanes[l]).replays = false := by
        rw [hoff]
        exact congrArg Lane.replays (lane_set_self s l { Lane.reset with isReplay := true })
      rw [replayTick, ← hln, hr]
      dsimp only
      rw [if_pos hover, hlane, if_neg Bool.false_ne_true, hoff]
      rfl
    · have hgrant := arbiterGrant_replays hln.symm hrep hdue honly
      obtain rfl : s1 = setRotation (.lane l) s := hs1
      have hr1 : ((setRotation (.lane l) s).lanes[l]).replay = some r := by
        show (s.lanes[l]).replay = some r
        rw [← hln, hr]
      have ht1 : ((setRotation (.lane l) s).tables.slots[l]).table = some t := ht
      have hrecord1 : record = recordAt (setRotation (.lane l) s) r.seg r.nextIndex :=
        hrecord.trans (recordAt_congr rfl rfl rfl rfl r.nextIndex).symm
      have hrep2 : ln2.replays = true := (replays_iff ln2).2 ⟨h2, h2r⟩
      refine ⟨fun htime hn taken s3 s4 htaken => ⟨fun hmore => ?_, fun hlast hs3 h3 h3r hf3 hs4 => ?_⟩,
        fun hlate hn hf2 => ?_⟩
      · rw [hgrant, replayRead_upTo ht1 hr1 hrecord1 hs2 hln2 htime hn hrep2, if_neg (by exact Nat.not_le.2 hmore), htaken]
        rfl
      · rw [hgrant, replayRead_upTo ht1 hr1 hrecord1 hs2 hln2 htime hn hrep2, if_pos (by exact hlast)]
        have hs3' : s3 = replayTicks t l (r.toTick + 1 - max r.nextTick record.time)
          (setLane l { ln2 with replay := ln2.replay.map fun q => q.take record } s2) := by
          rw [hs3, htaken]
          rfl
        rw [← hs3', replayEnd_no_frame rfl ((replays_iff _).2 ⟨h3, h3r⟩) hf3, hs4]
        rfl
      · rw [hgrant, replayRead_after ht1 hr1 hrecord1 hs2 hlate hn, replayEnd_no_frame hln2.symm hrep2 hf2]
        rfl

end Sys2Proof.Machine
end

section
/-! Chapter 7: SET_STREAM, READ_FRAMES, and completed frames on their way to log and stream (R140 to R152). -/

namespace Sys2Proof.Machine

/-! ## SET_STREAM and READ_FRAMES -/

theorem truncate_six (mask : Word) : mask.truncate 6 = BitVec.ofNat 6 mask.toNat := by
  refine BitVec.eq_of_toNat_eq ?_
  rw [BitVec.truncate_eq_setWidth, BitVec.toNat_setWidth, BitVec.toNat_ofNat]

theorem getLsbD_ofNat_six (mask : Word) (l : LaneId) : (BitVec.ofNat 6 mask.toNat).getLsbD l = mask.getLsbD l := by
  rw [← truncate_six, BitVec.truncate_eq_setWidth, BitVec.getLsbD_setWidth, decide_eq_true l.isLt, Bool.true_and]

theorem matchCount_eq (mask : Word) (fromT : Nat) (log : List FrameRecord) :
    matchCount (BitVec.ofNat 6 mask.toNat) fromT log =
      (log.filter fun r => mask.getLsbD r.lane && decide (fromT ≤ r.start)).length := by
  unfold matchCount entryMatches
  simp only [getLsbD_ofNat_six]

section
variable {tag : Tag} {seg mask count : Word} {fromT : DWord} {s : State}

theorem cmdReadFrames_bad (h : s.capture.layout ≤ seg.toNat ∨ 63 < mask.toNat) :
    cmdReadFrames tag seg mask fromT count s = refuse .badArgument s := if_pos h

variable (hseg : seg.toNat < s.capture.layout) (hmask : mask.toNat ≤ 63)

include hseg hmask in
theorem cmdReadFrames_busy (h : s.rpath.readout.isSome) : cmdReadFrames tag seg mask fromT count s = refuse .busy s :=
  (if_neg (by omega)).trans (if_pos h)

variable (hfree : s.rpath.readout = none)

include hseg hmask hfree in
theorem cmdReadFrames_wrong (h1 : (segAt s seg.toNat).state ≠ .done) (h2 : (segAt s seg.toNat).state ≠ .stopped) :
    cmdReadFrames tag seg mask fromT count s = refuse .wrongState s := by
  have hopen : (segAt s seg.toNat).closed = false := by
    rw [← Bool.not_eq_true, closed_iff]
    exact fun c => c.elim h1 h2
  exact (if_neg (by omega)).trans ((if_neg (by rw [hfree]; decide)).trans (if_pos (by rw [hopen]; rfl)))

include hseg hmask hfree in
theorem cmdReadFrames_taken (h : (segAt s seg.toNat).state = .done ∨ (segAt s seg.toNat).state = .stopped) :
    cmdReadFrames tag seg mask fromT count s =
      accept [word (matchCount (BitVec.ofNat 6 mask.toNat) fromT.toNat (logAt s seg.toNat))]
        (setPath { s.rpath with
          readout := some ⟨tag, seg.toNat, BitVec.ofNat 6 mask.toNat, fromT.toNat,
            if count = 0 then none else some count.toNat, 0, 0, [], (logAt s seg.toNat).isEmpty, false⟩ } s) :=
  (if_neg (by omega)).trans ((if_neg (by rw [hfree]; decide)).trans (if_neg (by rw [(closed_iff _).2 h]; decide)))

end

/-- Settles O43, by the order of the refusals. -/
theorem streamAndFrameReadoutCommands : Obligations.StreamAndFrameReadoutCommands := by
  intro tag mask seg count fromT s hs
  refine ⟨fun h => ⟨runCommand_refused tag 30 hs (if_pos h), runCommand_refused tag 31 hs (cmdReadFrames_bad (Or.inr h))⟩,
    fun h => runCommand_refused tag 31 hs (cmdReadFrames_bad (Or.inl h)), fun hmask => ⟨?_, fun hseg => ⟨fun h => ?_,
      fun hfree => ⟨fun h1 h2 => ?_, fun h => ?_⟩⟩⟩⟩
  · rw [truncate_six]
    exact runCommand_accepted tag 30 hs (if_neg (by omega))
  · exact runCommand_refused tag 31 hs (cmdReadFrames_busy hseg hmask h)
  · exact runCommand_refused tag 31 hs (cmdReadFrames_wrong hseg hmask hfree h1 h2)
  · rw [truncate_six, ← matchCount_eq]
    exact runCommand_accepted tag 31 hs (cmdReadFrames_taken hseg hmask hfree h)

/-! ## What the taking of a frame leaves alone -/

section
variable (r : FrameRecord) (s : State)

theorem streamed_keeps : (streamed r s).trigger = s.trigger ∧ (streamed r s).capture = s.capture ∧
    (streamed r s).rpath.logQueue = s.rpath.logQueue ∧ (streamed r s).rpath.logs = s.rpath.logs ∧
    (streamed r s).events[blkRecord] = s.events[blkRecord] := by
  unfold streamed streamFrame
  split
  · split
    · exact ⟨rfl, rfl, rfl, rfl, rfl⟩
    · exact ⟨rfl, rfl, rfl, rfl, raise_events_ne (by decide) _ _⟩
  · exact ⟨rfl, rfl, rfl, rfl, rfl⟩

theorem logged_keeps (seg : Option Nat) : (logged seg r s).trigger = s.trigger ∧
    (logged seg r s).rpath = { s.rpath with logQueue := (logged seg r s).rpath.logQueue } ∧
    (logged seg r s).events[blkDecode] = s.events[blkDecode] := by
  cases seg with
  | none => exact ⟨rfl, rfl, rfl⟩
  | some i =>
    rw [logged, placeInLog]
    split
    · exact ⟨rfl, rfl, rfl⟩
    · split
      · exact ⟨rfl, rfl, rfl⟩
      · exact ⟨rfl, rfl, raise_events_ne (by decide) _ _⟩

end

section
variable {seg : Option Nat} {i : Nat} {e : Ended} {s : State}

/-- The state in which the comparators have been offered the frame. -/
def offeredTo (e : Ended) (s : State) : State := setTrigger (s.trigger.offer e.record e.address) s

theorem takeFrame_log : (takeFrame seg e s).rpath.logQueue = (logged seg e.record (offeredTo e s)).rpath.logQueue ∧
    (takeFrame seg e s).capture = (logged seg e.record (offeredTo e s)).capture ∧
    (takeFrame seg e s).events[blkRecord] = (logged seg e.record (offeredTo e s)).events[blkRecord] := by
  obtain ⟨-, hcapture, hqueue, -, hevents⟩ := streamed_keeps e.record (logged seg e.record (offeredTo e s))
  rw [takeFrame_eq]
  exact ⟨hqueue, hcapture, hevents⟩

theorem takeFrame_early (h : e.record.start < (segAt s i).oldest.getD (segAt s i).startTime) :
    (takeFrame (some i) e s).rpath.logQueue = s.rpath.logQueue ∧ (takeFrame (some i) e s).capture = s.capture := by
  obtain ⟨hqueue, hcapture, -⟩ := takeFrame_log (seg := some i) (e := e) (s := s)
  rw [hqueue, hcapture, logged_early (by exact h)]
  exact ⟨rfl, rfl⟩

variable (hstart : (segAt s i).oldest.getD (segAt s i).startTime ≤ e.record.start)

include hstart in
theorem takeFrame_queued (hroom : s.rpath.logQueue.length < 64) : (takeFrame (some i) e s).capture = s.capture ∧
    (takeFrame (some i) e s).rpath.logQueue = s.rpath.logQueue ++ [(i, logCopy e.record)] := by
  obtain ⟨hqueue, hcapture, -⟩ := takeFrame_log (seg := some i) (e := e) (s := s)
  rw [hqueue, hcapture, logged_room (by exact hstart) (by exact hroom)]
  exact ⟨rfl, rfl⟩

include hstart in
theorem takeFrame_overflows (hi : i < s.capture.segs.length) (hfull : 64 ≤ s.rpath.logQueue.length) :
    (takeFrame (some i) e s).rpath.logQueue = s.rpath.logQueue ∧
    (segAt (takeFrame (some i) e s) i).flags.logOverflow = true ∧
    (takeFrame (some i) e s).events[blkRecord] = (s.events[blkRecord]).raise 1#32 := by
  obtain ⟨hqueue, hcapture, hevents⟩ := takeFrame_log (seg := some i) (e := e) (s := s)
  have hseg : segAt (takeFrame (some i) e s) i = segAt (logged (some i) e.record (offeredTo e s)) i := by
    unfold segAt
    rw [hcapture]
  have hset : segAt (logOverflow i (offeredTo e s)) i =
      { segAt s i with flags := { (segAt s i).flags with logOverflow := true } } := segAt_of_set (s := s) rfl hi
  rw [hqueue, hseg, hevents, logged_full (by exact hstart) (by exact hfull), hset]
  exact ⟨rfl, rfl, by simp [logOverflow, offeredTo, evLogOverflow, bitMask]⟩

end

section
variable (seg : Option Nat) (e : Ended) (s : State)

/-- What the stream has after a frame (R148). -/
theorem takeFrame_stream : (s.rpath.mask.getLsbD e.record.lane = false →
      (takeFrame seg e s).rpath.stream = s.rpath.stream ∧ (takeFrame seg e s).rpath.dropped = s.rpath.dropped) ∧
    (s.rpath.mask.getLsbD e.record.lane = true →
      (s.rpath.stream.length < 512 →
        (takeFrame seg e s).rpath.stream =
          s.rpath.stream ++ [{ e.record with droppedBefore := s.rpath.dropped[e.record.lane] }] ∧
        (takeFrame seg e s).rpath.dropped = s.rpath.dropped.set e.record.lane 0) ∧
      (512 ≤ s.rpath.stream.length → (takeFrame seg e s).rpath.stream = s.rpath.stream ∧
        (takeFrame seg e s).rpath.dropped =
          s.rpath.dropped.set e.record.lane (min (s.rpath.dropped[e.record.lane] + 1) 255) ∧
        (takeFrame seg e s).events[blkDecode] = (s.events[blkDecode]).raise (evFramesDropped e.record.lane))) := by
  obtain ⟨-, hpath, hevents⟩ := logged_keeps e.record (offeredTo e s) seg
  have hmask : (logged seg e.record (offeredTo e s)).rpath.mask = s.rpath.mask := by rw [hpath]; rfl
  have hstream : (logged seg e.record (offeredTo e s)).rpath.stream = s.rpath.stream := by rw [hpath]; rfl
  have hdropped : (logged seg e.record (offeredTo e s)).rpath.dropped = s.rpath.dropped := by rw [hpath]; rfl
  have hevents : (logged seg e.record (offeredTo e s)).events[blkDecode] = s.events[blkDecode] := hevents
  have htake : takeFrame seg e s = streamed e.record (logged seg e.record (offeredTo e s)) := takeFrame_eq seg e s
  rw [htake]
  generalize logged seg e.record (offeredTo e s) = u at *
  refine ⟨fun h => ?_, fun h => ⟨fun hroom => ?_, fun hfull => ?_⟩⟩
  · rw [streamed_unmasked (by rw [hmask]; exact h)]
    exact ⟨hstream, hdropped⟩
  · rw [streamed_room (by rw [hmask]; exact h) (by rw [hstream]; exact hroom), hstream, hdropped]
    exact ⟨rfl, rfl⟩
  · rw [streamed_full (by rw [hmask]; exact h) (by rw [hstream]; exact hfull), hdropped, raise_events]
    refine ⟨hstream, rfl, ?_⟩
    rw [← hevents]
    simp

end

end Sys2Proof.Machine
end

section
/-! Chapter 7: frames closed by STOP, the writer's grant to a log, and the obligation on completed frames (R134, R140 to
R144, R148). -/

namespace Sys2Proof.Machine

/-! ## A segment's start test while it closes -/

/-- The number of segments and the start test of segment `i` are kept. -/
structure KeepsStart (i : Nat) (s t : State) : Prop where
  length : t.capture.segs.length = s.capture.segs.length
  start : (segAt t i).oldest.getD (segAt t i).startTime = (segAt s i).oldest.getD (segAt s i).startTime

theorem KeepsStart.refl (i : Nat) (s : State) : KeepsStart i s s := ⟨rfl, rfl⟩

theorem KeepsStart.trans {i : Nat} {s t u : State} (h : KeepsStart i s t) (g : KeepsStart i t u) : KeepsStart i s u :=
  ⟨g.length.trans h.length, g.start.trans h.start⟩

theorem KeepsStart.of_segs {i : Nat} {s t : State} (h : t.capture.segs = s.capture.segs)
    (hl : t.capture.layout = s.capture.layout) : KeepsStart i s t :=
  ⟨by rw [h], by simp only [segAt, h, hl]⟩

theorem keepsStart_modSeg {i : Nat} {f : Segment → Segment} {s : State} (hi : i < s.capture.segs.length)
    (hf : ∀ d, (f d).oldest = d.oldest ∧ (f d).startTime = d.startTime) : KeepsStart i s (modSeg i f s) := by
  have hseg : segAt (modSeg i f s) i = f (segAt s i) := segAt_of_set rfl hi
  refine ⟨List.length_set, ?_⟩
  rw [hseg, (hf _).1, (hf _).2]

theorem keepsStart_enqueue {i : Nat} {r : Record} {post : Bool} {s : State} (hi : i < s.capture.segs.length) :
    KeepsStart i s (enqueue i r post s) :=
  (KeepsStart.of_segs (s := s) (t := setCapture { s.capture with queue := s.capture.queue ++ [⟨i, r, post⟩] } s) rfl rfl).trans
    (keepsStart_modSeg (f := fun d => { d with produced := d.produced + 1 }) (by exact hi) fun _ => ⟨rfl, rfl⟩)

theorem keepsStart_placeOverrun {i : Nat} {o : Overrun} {r : Record} {post : Bool} {s : State}
    (hi : i < s.capture.segs.length) : KeepsStart i s (placeOverrun i o r post s) :=
  (keepsStart_enqueue hi).trans
    (keepsStart_modSeg (by rw [(keepsStart_enqueue hi).length]; exact hi) fun _ => ⟨rfl, rfl⟩)

theorem keepsStart_closeSegment {i : Nat} {stopped : Bool} {s : State} (hi : i < s.capture.segs.length) :
    KeepsStart i s (closeSegment i stopped s) := by
  have hclose : ∀ u : State, KeepsStart i s u → KeepsStart i s
      (modSeg i (fun d => { d with state := .closing, closeStopped := stopped, endTime := some (endRecord i s).time })
        (enqueue i (endRecord i s) false (setCapture { u.capture with needStart := false } u))) := by
    intro u hu
    have hlen : i < u.capture.segs.length := by rw [hu.length]; exact hi
    have henq : KeepsStart i u (enqueue i (endRecord i s) false (setCapture { u.capture with needStart := false } u)) :=
      (KeepsStart.of_segs (s := u) (t := setCapture { u.capture with needStart := false } u) rfl rfl).trans
        (keepsStart_enqueue (by exact hlen))
    exact (hu.trans henq).trans (keepsStart_modSeg (by rw [henq.length]; exact hlen) fun _ => ⟨rfl, rfl⟩)
  unfold closeSegment
  dsimp only
  split
  · exact hclose s (.refl i s)
  · exact hclose _ (keepsStart_placeOverrun hi)

/-! ## STOP with one lane live -/

theorem laneSampleStop_not_live {l : LaneId} {s : State} (seg : Option Nat) (h : (s.lanes[l]).live = false) :
    laneSampleStop seg l s = s := by
  unfold laneSampleStop
  split
  · rfl
  · exact if_neg (by rw [h, Bool.false_and]; decide)

theorem laneSampleStop_open {l : LaneId} {s : State} {t : FrameTable} {f : PartialFrame} (seg : Option Nat)
    (ht : (s.tables.slots[l]).table = some t) (hlive : (s.lanes[l]).live = true) (hf : (s.lanes[l]).frame = some f) :
    laneSampleStop seg l s = applyLane l seg (endFrame t l (s.lanes[l]).lastTick true false false s.lanes[l]) s := by
  rw [laneSampleStop, tableOf, ht]
  exact if_pos (by rw [hlive, hf]; rfl)

theorem lanesStop_one {l : LaneId} {s : State} {t : FrameTable} {f : PartialFrame} (seg : Option Nat)
    (hone : OnlyLane l s) (ht : (s.tables.slots[l]).table = some t) (hlive : (s.lanes[l]).live = true)
    (hf : (s.lanes[l]).frame = some f) :
    lanesStop seg s = applyLane l seg (endFrame t l (s.lanes[l]).lastTick true false false s.lanes[l]) s := by
  rw [lanesStop, ← laneSampleStop_open seg ht hlive hf]
  refine forLanes_one l (fun m hm => laneSampleStop_not_live seg (live_of_off (hone m hm))) fun m hm =>
    laneSampleStop_not_live seg (live_of_off ?_)
  rw [laneSampleStop_open seg ht hlive hf]
  exact hone.of_lanes applyLane_lanes m hm

/-- A stop of sampling hands over an open frame with a complete unit as abandoned (R134). -/
theorem endFrame_stop_hands {t : FrameTable} {l : LaneId} {tick : Nat} {ln : Lane} {f : PartialFrame} {e : Nat}
    (hf : ln.frame = some f) (hend : f.lastEnd = some e) (herr : ln.errors < 2) :
    (endFrame t l tick true false false ln).frame = some ⟨f.abandonedRecord l ln.isReplay e, f.address⟩ ∧
    (endFrame t l tick true false false ln).sync = false := by
  rw [endFrame, hf]
  simp [hend, frameCode, PartialFrame.abandonedRecord]
  omega

/-- What STOP in CAPTURING leaves of the log write queue where one live lane has a frame with a complete unit. -/
theorem stopCapture_logs {l : LaneId} {i e : Nat} {s : State} {t : FrameTable} {f : PartialFrame}
    (hc : s.capture.ctl = .capturing i) (hi : i < s.capture.segs.length) (hone : OnlyLane l s)
    (hlive : (s.lanes[l]).live = true) (hf : (s.lanes[l]).frame = some f) (hend : f.lastEnd = some e)
    (herr : (s.lanes[l]).errors < 2) (ht : (s.tables.slots[l]).table = some t) (hgap : gapDue t s.lanes[l] = false)
    (hstart : (segAt s i).oldest.getD (segAt s i).startTime ≤ f.start) (hroom : s.rpath.logQueue.length < 64) :
    (stopCapture s).rpath.logQueue =
      s.rpath.logQueue ++ [(i, logCopy (f.abandonedRecord l (s.lanes[l]).isReplay e))] := by
  have hgaps : settleGaps s = s := settleGaps_one hone fun t' ht' => by cases (ht.symm.trans ht'); exact hgap
  have hstop : stopCapture s = endCapture i true s := by
    rw [stopCapture, hgaps, hc]
  have hframe := closeSegment_frame i true s
  have hkeep := keepsStart_closeSegment (stopped := true) hi
  rw [hstop, endCapture, stopSampling]
  dsimp only [setTrigger_time, setCapture_time]
  generalize hu : closeSegment i true s = u at *
  obtain ⟨-, -, -, htime, htrigger, htables, hlanes, hrpath, -⟩ := hframe
  generalize hw : ({ setTrigger u.trigger.toIdle (setCapture { u.capture with ctl := .closing } u) with
    time := { u.time with sampling := false, fresh := false } } : State) = w
  have hwl : w.lanes = s.lanes := by rw [← hw]; exact hlanes
  have hwt : w.tables = s.tables := by rw [← hw]; exact htables
  have hwr : w.rpath = s.rpath := by rw [← hw]; exact hrpath
  have hws : KeepsStart i u w := by rw [← hw]; exact .of_segs rfl rfl
  have hwi : w.trigger.state = .idle := by rw [← hw]; rfl
  rw [lanesStop_one (l := l) (t := t) (f := f) (some i)
    (show OnlyLane l w by unfold OnlyLane; rw [hwl]; exact hone)
    (show (w.tables.slots[l]).table = some t by rw [hwt]; exact ht) (show (w.lanes[l]).live = true by rw [hwl]; exact hlive)
    (show (w.lanes[l]).frame = some f by rw [hwl]; exact hf)]
  have hln : w.lanes[l] = s.lanes[l] := by rw [hwl]
  obtain ⟨hhanded, hsync⟩ := endFrame_stop_hands (t := t) (l := l) (tick := (s.lanes[l]).lastTick) hf hend herr
  simp only [hln]
  rw [applyLane_frame_taken hhanded]
  simp only [raiseIf_frame]
  refine (takeFrame_queued ?_ ?_).2.trans ?_
  · exact ((hkeep.trans hws).start.trans_le hstart)
  · show w.rpath.logQueue.length < 64
    rw [hwr]
    exact hroom
  · show w.rpath.logQueue ++ _ = _
    rw [hwr]

/-! ## A writer grant to a log -/

theorem arbiterGrant_writesLog {s : State} (hq : s.capture.queue = []) (hwait : s.rpath.logQueue ≠ [])
    (hrot : s.capture.rotation = .lane 5) (hdue : postFillDue s = false) :
    exec .arbiterGrant s = .next (writeLogEntry (setRotation .writer s)) := by
  have hw : requesterWaits s .writer = true := by
    rw [requesterWaits, show s.rpath.logQueue.isEmpty = false by simpa using hwait, Bool.not_false, Bool.or_true]
  have hgrant : exec .arbiterGrant s = arbitrate s := congrArg arbitrate (settlePostFill_not_due hdue)
  have hqueue : (setRotation .writer s).capture.queue = [] := hq
  rw [hgrant, arbitrate, if_neg (by rw [hq]; decide), nextRequester_after_lane5 hrot hw]
  show writerAccess (setRotation .writer s) = _
  rw [writerAccess, hqueue]

theorem logAt_set {s : State} {i : Nat} {p : RecordPath} {log : List FrameRecord}
    (hp : p.logs = s.rpath.logs.set i log) (hi : i < s.rpath.logs.length) (j : Nat) :
    p.logs.getD j [] = if j = i then log else logAt s j := by
  rw [hp, List.getD_eq_getElem?_getD]
  by_cases hj : j = i
  · rw [hj, List.getElem?_set_self hi, if_pos rfl]
    rfl
  · rw [List.getElem?_set_ne (Ne.symm hj), if_neg hj, logAt, List.getD_eq_getElem?_getD]

section
variable {s : State} {i : Nat} {r : FrameRecord} {rest : List (Nat × FrameRecord)}
  (hqueue : s.rpath.logQueue = (i, r) :: rest)

/-- The head of the log write queue taken from it. -/
def unqueued (rest : List (Nat × FrameRecord)) (s : State) : State := setPath { s.rpath with logQueue := rest } s

include hqueue in
theorem writeLogEntry_early (h : r.start < (segAt s i).oldest.getD (segAt s i).startTime) :
    writeLogEntry s = unqueued rest s := by
  have hl : (segAt (unqueued rest s) i).logs r = false := decide_eq_false (Nat.not_le.2 (by exact h))
  rw [writeLogEntry, hqueue]
  exact if_neg (show ¬ (segAt (unqueued rest s) i).logs r = true by rw [hl]; decide)

variable (hstart : (segAt s i).oldest.getD (segAt s i).startTime ≤ r.start)

include hqueue hstart in
theorem writeLogEntry_joins : writeLogEntry s = joinLog i r (unqueued rest s) := by
  have hl : (segAt (unqueued rest s) i).logs r = true := decide_eq_true hstart
  rw [writeLogEntry, hqueue]
  exact if_pos hl

end

theorem joinLog_room {s : State} {i : Nat} {r : FrameRecord} (h : (logAt s i).length < logRoom s) :
    joinLog i r s = setPath { s.rpath with logs := s.rpath.logs.set i (logAt s i ++ [r]) } s := by
  rw [joinLog, if_neg (Nat.not_le.2 h)]

/-- A full log gives up its oldest entry (R144). -/
theorem joinLog_full {s : State} {i : Nat} {r : FrameRecord} (h : logRoom s ≤ (logAt s i).length)
    (hi : i < s.rpath.logs.length) : ∃ p : RecordPath,
      joinLog i r s = logOverflow i (setPath p s) ∧ p.logQueue = s.rpath.logQueue ∧
      p.logs = s.rpath.logs.set i ((logAt s i).tail ++ [r]) := by
  have htail : logAt (dropOldestEntry i s) i = (logAt s i).tail :=
    (logAt_set (p := (dropOldestEntry i s).rpath) rfl hi i).trans (if_pos rfl)
  rw [joinLog, if_pos h]
  refine ⟨{ (dropOldestEntry i s).rpath with
    logs := (dropOldestEntry i s).rpath.logs.set i (logAt (dropOldestEntry i s) i ++ [r]) }, rfl, rfl, ?_⟩
  rw [htail]
  exact List.set_set ..

/-- Settles O44: the record path's taking by its parts, the segment by the lane's source, the writer's grant by the log's
room. -/
theorem completedFramesReachLogAndStream : Obligations.CompletedFramesReachLogAndStream := by
  refine ⟨fun seg i e r s t hr ht => ?_, fun l i s => ⟨fun h => ⟨logTarget_capturing h, logTarget_idle h⟩,
    fun r hr => logTarget_replay hr, fun t o e ht hdue hstate hlive hreplay hc ho hframe hsync hoff => ?_,
    fun tag t f e hs hc htick hi hone hstate hlive hf hend herr ht hgap hstart hroom => ?_⟩,
    fun i r rest s hi hq hqueue hlog hrot hdue hpos hlayout => ?_⟩
  · subst hr ht
    have htrigger : (takeFrame seg e s).trigger = s.trigger.offer e.record e.address := by
      rw [takeFrame_eq, (streamed_keeps _ _).1, (logged_keeps _ _ _).1]
      rfl
    have hlogs : (takeFrame seg e s).rpath.logs = s.rpath.logs := by
      rw [takeFrame_eq, (streamed_keeps _ _).2.2.2.1, (logged_keeps _ _ _).2.1]
      rfl
    obtain ⟨hunmasked, hmasked⟩ := takeFrame_stream seg e s
    refine ⟨htrigger, fun h => by rw [htrigger, offer_not _ _ _ h], fun h => ?_, fun h hi => ?_, hunmasked, hmasked,
      hlogs, by simp, by simp, by simp, by simp, by simp, by simp, by simp⟩
    · subst h
      obtain ⟨hqueue, hcapture, -⟩ := takeFrame_log (seg := none) (e := e) (s := s)
      exact ⟨hqueue, hcapture⟩
    · subst h
      exact ⟨takeFrame_early, fun hstart => ⟨takeFrame_queued hstart, takeFrame_overflows hstart hi⟩⟩
  · refine congrArg Host.Outcome.next ?_
    rw [settleGap_due ht ((live_iff _).2 ⟨hstate, hlive⟩) hdue, ← ho, logTarget_capturing hreplay hc,
      applyLane_frame_taken hframe, hsync, hoff]
    rfl
  · have hlimit : timeLimitDue s = false := by
      rw [← Bool.not_eq_true, timeLimitDue_iff]
      exact fun h => htick h.2.2
    refine ⟨stopCapture s, _, runCommand_accepted tag 14 hs ?_, stopCapture_logs hc hi hone
      ((live_iff _).2 ⟨hstate, hlive⟩) hf hend herr ht hgap hstart hroom, rfl, rfl, rfl, rfl, rfl, rfl⟩
    rw [cmdStop_not_due hlimit, hc]
    rfl
  · have hgrant := arbiterGrant_writesLog hq (by rw [hqueue]; nofun) hrot hdue
    have hqueue' : (setRotation .writer s).rpath.logQueue = (i, r) :: rest := hqueue
    refine ⟨_, hgrant, ?_⟩
    by_cases hstart : (segAt s i).oldest.getD (segAt s i).startTime ≤ r.start
    · rw [writeLogEntry_joins hqueue' (by exact hstart)]
      rcases Nat.lt_or_ge (logAt s i).length (65536 / s.capture.layout) with hroom | hfull
      · rw [joinLog_room (by exact hroom)]
        have hset := logAt_set (s := s) (p := { s.rpath with
          logQueue := rest, logs := s.rpath.logs.set i (logAt s i ++ [r]) }) rfl hlog
        exact ⟨rfl, fun j hj => (hset j).trans (if_neg hj), fun h => absurd hstart (Nat.not_le.2 h), fun _ =>
          ⟨fun _ => ⟨(hset i).trans (if_pos rfl), rfl, rfl⟩, fun h => absurd hroom (by omega)⟩⟩
      · obtain ⟨p, hjoin, hpq, hpl⟩ := joinLog_full (s := unqueued rest (setRotation .writer s)) (i := i) (r := r)
          (by exact hfull) (by exact hlog)
        rw [hjoin]
        have hset := logAt_set (s := s) hpl hlog
        refine ⟨hpq, fun j hj => (hset j).trans (if_neg hj), fun h => absurd hstart (Nat.not_le.2 h), fun _ =>
          ⟨fun h => absurd hfull (by omega), fun _ => ⟨(hset i).trans (if_pos rfl), ?_, rfl⟩⟩⟩
        have hseg : segAt (logOverflow i (setPath p (unqueued rest (setRotation .writer s)))) i =
            { segAt s i with flags := { (segAt s i).flags with logOverflow := true } } := segAt_of_set (s := s) rfl hi
        rw [hseg]
    · rw [writeLogEntry_early hqueue' (by exact Nat.not_le.1 hstart)]
      exact ⟨rfl, fun j _ => rfl, fun _ => ⟨rfl, rfl⟩, fun h => absurd h hstart⟩

end Sys2Proof.Machine
end

section
/-! Sections 8.1, 8.3 and 8.4: the arithmetic of columns and the viewport commands (R156, R157, R161 to R169). -/

namespace Sys2Proof.Machine

/-! ## Columns -/

theorem columnStart_eq (t0 q c : Nat) : columnStart t0 q c = t0 + c * q / 256 := rfl

/-- `c` is at or below the floor of `columnOf` exactly when column `c` starts at or below the time. -/
theorem le_column_iff {q : Nat} (hq : 0 < q) (n c : Nat) : c ≤ (256 * (n + 1) - 1) / q ↔ c * q / 256 ≤ n := by
  rw [Nat.le_div_iff_mul_le hq]
  omega

theorem columnOf_eq_some_iff {t0 q : Nat} (hq : 0 < q) (t c : Nat) :
    columnOf t0 q t = some c ↔ c < 720 ∧ columnStart t0 q c ≤ t ∧ t < columnStart t0 q (c + 1) := by
  have hcol : columnOf t0 q t = if t < t0 ∨ 720 ≤ (256 * (t - t0 + 1) - 1) / q then none
      else some ((256 * (t - t0 + 1) - 1) / q) := rfl
  rw [hcol, columnStart_eq, columnStart_eq]
  rcases Nat.lt_or_ge t t0 with ht | ht
  · rw [if_pos (Or.inl ht)]
    exact ⟨nofun, fun h => absurd h.2.1 (by omega)⟩
  · have hlow := le_column_iff hq (t - t0) c
    have hhigh := le_column_iff hq (t - t0) (c + 1)
    split
    · refine ⟨nofun, fun ⟨hc, h1, h2⟩ => absurd ?_ (show ¬ c = (256 * (t - t0 + 1) - 1) / q by omega)⟩
      omega
    · rw [Option.some_inj]
      omega

theorem columnOf_eq_none_iff {t0 q : Nat} (hq : 0 < q) (t : Nat) :
    t < t0 ∨ columnStart t0 q 720 ≤ t ↔ columnOf t0 q t = none := by
  have hcol : columnOf t0 q t = if t < t0 ∨ 720 ≤ (256 * (t - t0 + 1) - 1) / q then none
      else some ((256 * (t - t0 + 1) - 1) / q) := rfl
  have hlast := le_column_iff hq (t - t0) 720
  rw [hcol, columnStart_eq]
  split
  · exact ⟨fun _ => rfl, fun _ => by omega⟩
  · exact ⟨fun h => by omega, nofun⟩

/-! ## Clamps and shifts -/

theorem clampT0_of_range {x : Int} (h0 : 0 ≤ x) (h1 : x ≤ 281474976710655) : (clampT0 x : Int) = x := by
  unfold clampT0
  simp only [Config.lastTick]
  omega

theorem clampT0_natCast (n : Nat) : clampT0 (n : Int) = min n 281474976710655 := by
  rw [clampT0, Int.toNat_natCast]

theorem clampT0_sub (a b : Nat) : clampT0 ((a : Int) - (b : Nat)) = min (a - b) 281474976710655 := by
  rw [clampT0, Int.toNat_sub]

theorem clampQ_eq (n : Nat) : clampQ n = max 1 (min n 1099511627776) := rfl

theorem panShift_neg (d : Int) (q : Nat) : panShift (-d) q = -panShift d q := by
  unfold panShift
  rw [Int.natAbs_neg]
  rcases Int.lt_trichotomy d 0 with h | h | h
  · rw [if_pos (by omega), if_neg (by omega), Int.neg_neg]
  · subst h
    simp
  · rw [if_neg (by omega), if_pos (by omega)]

/-- Settles O46: each part is the floor's own inequality. -/
theorem columnsPartitionTime : Obligations.ColumnsPartitionTime := by
  intro t0 q hq
  refine ⟨columnOf_eq_some_iff hq, columnOf_eq_none_iff hq, fun hbig c => ?_, fun p w h0 h1 => ?_, fun limit hl => ?_,
    fun d h0 h1 ht => ?_⟩
  · rw [columnStart_eq, columnStart_eq, Nat.add_mul]
    omega
  · rw [clampT0_sub, Nat.min_eq_left h1, columnStart_eq]
    omega
  · rw [columnStart_eq]
    omega
  · rw [panShift_neg, clampT0_of_range h0 h1, Int.add_neg_cancel_right, clampT0_natCast, Nat.min_eq_left ht]

/-! ## The viewport commands -/

/-- A command that changes the viewport and makes a view request answers with its words. -/
theorem viewCommand_taken {tag : Tag} {code : BitVec 8} {f : Command} {ws : List Word} {s : State} {n : Snapshot}
    (hs : canDispatch s = true) (hf : f s = accept ws (viewRequest (setView { s.view with
      seg := n.seg, t0 := n.t0, q := n.q, roll := n.roll, cursorA := n.cursorA, cursorB := n.cursorB } s))) :
    ∃ u : State, runCommand tag typeCommand code f s =
      .next { u with uplink := (answered tag code .ok ws s).uplink } ∧ viewRequested n s u := by
  refine ⟨_, (runCommand_accepted tag code hs hf).trans ?_, viewRequest_requested n.seg n.t0 n.q n.roll n.cursorA n.cursorB s⟩
  simp only [answered, viewRequest_frame, setView_uplink]

theorem signed_eq (w : Word) :
    signed w = if w.toNat < 2147483648 then (w.toNat : Int) else (w.toNat : Int) - 4294967296 := by
  have h := w.isLt
  rw [signed, BitVec.toInt_eq_toNat_cond]
  norm_num
  split <;> split <;> omega

/-- The T0 of a PAN by the count of a word. -/
theorem clampT0_pan (w : Word) (t0 q : Nat) : clampT0 (t0 + panShift (signed w) q) =
    min (if w.toNat < 2147483648 then t0 + w.toNat * q / 256 else t0 - (4294967296 - w.toNat) * q / 256)
      281474976710655 := by
  rw [signed_eq]
  split
  · rw [panShift, if_pos (by omega), Int.natAbs_natCast, ← Int.natCast_add, clampT0_natCast]
  · have h := w.isLt
    have habs : ((w.toNat : Int) - 4294967296).natAbs = 4294967296 - w.toNat := by omega
    rw [panShift, if_neg (by omega), habs, ← Int.sub_eq_add_neg, clampT0_sub]

section
variable {s : State}

theorem cmdFit_none (h : (segAt s s.view.seg).oldest = none ∨ (segAt s s.view.seg).newest = none) :
    cmdFit s = refuse .wrongState s := by
  unfold cmdFit
  dsimp only
  rcases h with h | h
  · rw [h]
  · rw [Segment.viewLimit, h]
    cases (segAt s s.view.seg).oldest <;> rfl

theorem cmdFit_some {oldest newest : Nat} (h1 : (segAt s s.view.seg).oldest = some oldest)
    (h2 : (segAt s s.view.seg).newest = some newest) : cmdFit s =
      accept (timeWords (clampT0 oldest) ++ timeWords (clampQ
          ((((segAt s s.view.seg).endTime.getD newest - oldest) * 256 + 719) / 720)))
        (viewRequest (setView { s.view with
          t0 := clampT0 oldest
          q := clampQ ((((segAt s s.view.seg).endTime.getD newest - oldest) * 256 + 719) / 720) } s)) := by
  unfold cmdFit
  dsimp only
  rw [Segment.viewLimit, h1, h2]

end

/-- Settles O45: each command's refusals, and its viewport through the view request. -/
theorem viewportCommandsMakeRequests : Obligations.ViewportCommandsMakeRequests := by
  intro tag seg code pres t0 q s hs
  refine ⟨fun h => runCommand_refused tag 33 hs ?_, fun roll hroll hseg => ⟨fun h => runCommand_refused tag 33 hs ?_,
    fun h t w ht hw => viewCommand_taken hs ?_⟩, fun h => runCommand_refused tag 34 hs (if_pos h),
    fun h t w hw ht => viewCommand_taken hs ?_, fun t ht => viewCommand_taken hs ?_,
    fun h => runCommand_refused tag 36 hs (cmdFit_none h),
    fun oldest newest limit t w hold hnew hlimit ht hw => viewCommand_taken hs ?_,
    fun h => runCommand_refused tag 37 hs ?_, fun isB c hcode hc => viewCommand_taken hs ?_⟩
  · by_cases hcode : 1 < code.toNat
    · rw [cmdSetView, switchOf_eq_none hcode]
    · rw [cmdSetView, switchOf_le_one (by omega)]
      exact if_pos (h.resolve_left hcode)
  · rw [cmdSetView, hroll, switchOf_flagWord]
    exact (if_neg (by omega)).trans (if_pos h)
  · rw [cmdSetView, hroll, switchOf_flagWord, ht, hw]
    refine (if_neg (by omega)).trans ((if_neg h).trans ?_)
    dsimp only
    rw [clampT0_natCast]
    rfl
  · rw [cmdZoom, if_neg (by omega)]
    dsimp only
    rw [clampT0_sub, columnStart_eq, ht, hw]
    rfl
  · rw [cmdPan, ht]
    dsimp only
    rw [clampT0_pan]
  · rw [cmdFit_some hold hnew, ht, hw, hlimit, clampT0_natCast]
    rfl
  · rw [cmdSetCursor, switchOf_eq_none h]
  · rw [cmdSetCursor, hcode, switchOf_flagWord, hc]
    cases isB <;> rfl

end Sys2Proof.Machine
end

section
/-! Sections 8.6 and 8.7: MEASURE, READ_COLUMNS, and the records of a measurement (R175 to R178). -/

namespace Sys2Proof.Machine

/-! ## One record -/

section
variable {m : MeasureRun} {r : Record} {v : Bool} {n : Nat}

theorem take_first (hv : v = r.levels.getLsbD m.chan) (h : m.level = none) :
    m.take r = { m with next := m.next + 1, level := some v } := by
  have hcount : m.countTo r.time = m := by rw [MeasureRun.countTo, h]
  rw [MeasureRun.take, hcount, h, hv]

theorem addTicks_eq (x : MeasureResult) (was : Bool) (n : Nat) : x.addTicks was n =
    { x with high := x.high + (if was then n else 0), low := x.low + (if was then 0 else n) } := by
  cases was <;> rfl

/-- The measurement with the ticks up to a record counted and the record passed. -/
def MeasureRun.counted (m : MeasureRun) (t : Nat) (x : MeasureResult) : MeasureRun :=
  { m with next := m.next + 1, upTo := max m.upTo t, result := x }

theorem countTo_eq {was : Bool} (h : m.level = some was) (t : Nat) :
    m.countTo t = { m with upTo := max m.upTo t, result := m.result.addTicks was (t - m.upTo) } := by
  rw [MeasureRun.countTo, h]

theorem take_level {was : Bool} {x : MeasureResult} (hv : v = r.levels.getLsbD m.chan) (hn : n = r.time - m.upTo)
    (h : m.level = some was)
    (hx : x = { m.result with
      high := m.result.high + (if was then n else 0), low := m.result.low + (if was then 0 else n) }) :
    m.take r = if was = v then m.counted r.time x else if v then (m.counted r.time x).rise r.time
      else (m.counted r.time x).fall r.time := by
  have hcounted : ({ m.countTo r.time with next := m.next + 1 } : MeasureRun) = m.counted r.time x := by
    rw [countTo_eq h, addTicks_eq, hx, hn]
    rfl
  rw [MeasureRun.take, h, ← hv]
  dsimp only
  rw [hcounted]

/-- A closed pulse's length taken into the shortest and the longest, if it had a beginning. -/
def closedPulse (t : Nat) (begun : Option Nat) (p : Option (Nat × Nat)) : Option (Nat × Nat) :=
  match begun, p with
  | none, p => p
  | some f, none => some (t - f, t - f)
  | some f, some (lo, hi) => some (min lo (t - f), max hi (t - f))

theorem takePulse_eq (t f : Nat) (p : Option (Nat × Nat)) : takePulse p (t - f) = closedPulse t (some f) p := by
  cases p <;> rfl

theorem rise_eq (m : MeasureRun) (t : Nat) : m.rise t = { m with
    level := some true, lastRise := some t, lastFall := none
    result := { m.result with
      rises := m.result.rises + 1, lowPulse := closedPulse t m.lastFall m.result.lowPulse } } := by
  unfold MeasureRun.rise
  cases m.lastFall with
  | none => rfl
  | some f => simp only [takePulse_eq]

theorem fall_eq (m : MeasureRun) (t : Nat) : m.fall t = { m with
    level := some false, lastFall := some t, lastRise := none
    result := { m.result with
      falls := m.result.falls + 1, highPulse := closedPulse t m.lastRise m.result.highPulse } } := by
  unfold MeasureRun.fall
  cases m.lastRise with
  | none => rfl
  | some f => simp only [takePulse_eq]

theorem take_keeps (m : MeasureRun) (r : Record) :
    (m.take r).seg = m.seg ∧ (m.take r).tag = m.tag ∧ (m.take r).toTime = m.toTime := by
  cases h : m.level with
  | none =>
    rw [take_first rfl h]
    exact ⟨rfl, rfl, rfl⟩
  | some was =>
    rw [take_level rfl rfl h rfl]
    split
    · exact ⟨rfl, rfl, rfl⟩
    · split
      · rw [rise_eq]
        exact ⟨rfl, rfl, rfl⟩
      · rw [fall_eq]
        exact ⟨rfl, rfl, rfl⟩

end

/-! ## A grant -/

theorem finishMeasure_no_request {m : MeasureRun} {x : MeasureResult} {s : State} (h : s.view.pending = none) :
    finishMeasure m x s = raise blkView evMeasureDone (setView { s.view with meas := .waiting m.tag x } s) := by
  have hnone : (raise blkView evMeasureDone (setView { s.view with meas := .waiting m.tag x } s)).view.pending = none := h
  rw [finishMeasure, startPass, hnone]

theorem done_iff (m : MeasureRun) (s : State) : m.done s = true ↔
    m.next < (segAt s m.seg).written ∧ m.toTime ≤ (recordNumber s m.seg m.next).time := by
  simp [MeasureRun.done]

theorem arbiterGrant_measures {m : MeasureRun} {s : State} (hpass : s.view.pass = none) (hmeas : s.view.meas = .running m)
    (hmore : m.next < (segAt s m.seg).written) (honly : ∀ q, requesterWaits s q = true → q = .view)
    (hdue : postFillDue s = false) : exec .arbiterGrant s = .next (measureAccess m (setRotation .view s)) := by
  have hneeds : m.needsAccess s = true := decide_eq_true hmore
  have hw : requesterWaits s .view = true := by
    rw [requesterWaits, viewWaits, hpass, hmeas]
    exact hneeds
  have hpass' : (setRotation .view s).view.pass = none := hpass
  have hmeas' : (setRotation .view s).view.meas = .running m := hmeas
  have hserve : serve .view (setRotation .view s) = .next (viewAccess (setRotation .view s)) := rfl
  rw [arbiterGrant_only hdue hw honly nofun, hserve, viewAccess, hpass', hmeas']
  exact congrArg Host.Outcome.next (if_pos hneeds)

section
variable {m m' : MeasureRun} {s : State} (hm' : m' = m.take (recordNumber s m.seg m.next))

include hm' in
theorem measureAccess_runs
    (h : (segAt s m.seg).written ≤ m'.next ∨ (recordNumber s m.seg m'.next).time < m.toTime) :
    measureAccess m s = setView { s.view with meas := .running m' } s := by
  obtain ⟨hseg, -, hto⟩ := hm' ▸ take_keeps m (recordNumber s m.seg m.next)
  have hnot : ¬ m'.done (setView { s.view with meas := .running m' } s) = true := by
    rw [done_iff, hseg, hto]
    rintro ⟨h1, h2⟩
    have h1 : m'.next < (segAt s m.seg).written := h1
    have h2 : m.toTime ≤ (recordNumber s m.seg m'.next).time := h2
    omega
  rw [measureAccess, ← hm']
  exact if_neg hnot

include hm' in
theorem measureAccess_finishes (hpend : s.view.pending = none) (h1 : m'.next < (segAt s m.seg).written)
    (h2 : m.toTime ≤ (recordNumber s m.seg m'.next).time) {level : Bool} (hlevel : m'.level = some level) :
    measureAccess m s = raise blkView evMeasureDone (setView { s.view with meas := .waiting m.tag { m'.result with
      high := m'.result.high + (if level then m.toTime - m'.upTo else 0)
      low := m'.result.low + (if level then 0 else m.toTime - m'.upTo) } } s) := by
  obtain ⟨hseg, htag, hto⟩ := hm' ▸ take_keeps m (recordNumber s m.seg m.next)
  have hdone : m'.done (setView { s.view with meas := .running m' } s) = true := by
    rw [done_iff, hseg, hto]
    exact ⟨h1, h2⟩
  rw [measureAccess, ← hm']
  refine (if_pos hdone).trans ?_
  rw [finishMeasure_no_request (by exact hpend), countTo_eq hlevel, addTicks_eq, htag, hto]
  rfl

end

theorem measureAfterWrite_overtakes {m : MeasureRun} {s : State} (hmeas : s.view.meas = .running m)
    (hpend : s.view.pending = none) (h : m.next < (segAt s m.seg).base) : measureAfterWrite m.seg s =
      raise blkView evMeasureDone (setView { s.view with meas := .waiting m.tag { m.result with overtaken := true } } s) := by
  rw [measureAfterWrite, hmeas]
  refine (if_neg (not_not_intro rfl)).trans ((if_pos h).trans ?_)
  exact finishMeasure_no_request hpend

/-! ## MEASURE and READ_COLUMNS -/

theorem measurement_isNone_iff (m : Measurement) : m.isNone = true ↔ m = .none := by
  cases m <;> simp [Measurement.isNone]

section
variable {tag : Tag} {seg chan : Word} {fromT toT : DWord} {s : State}

theorem cmdMeasure_bad (h : s.capture.layout ≤ seg.toNat ∨ 31 < chan.toNat ∨ toT.toNat < fromT.toNat) :
    cmdMeasure tag seg chan fromT toT s = refuse .badArgument s := if_pos h

variable (h1 : seg.toNat < s.capture.layout) (h2 : chan.toNat ≤ 31) (h3 : fromT.toNat ≤ toT.toNat)

include h1 h2 h3 in
theorem cmdMeasure_busy (h : s.view.pass.isSome ∨ s.view.meas ≠ .none) :
    cmdMeasure tag seg chan fromT toT s = refuse .busy s := by
  refine (if_neg (by omega)).trans (if_pos (h.imp id fun c => ?_))
  rw [Bool.not_eq_true', ← Bool.not_eq_true, measurement_isNone_iff]
  exact c

variable (h4 : s.view.pass = none) (h5 : s.view.meas = .none)

include h1 h2 h3 h4 h5 in
theorem cmdMeasure_free : cmdMeasure tag seg chan fromT toT s =
    match (segAt s seg.toNat).oldest, (segAt s seg.toNat).viewLimit with
    | some oldest, some limit =>
      if (segAt s seg.toNat).state = .empty then refuse .wrongState s
      else if !(segAt s seg.toNat).mask.getLsbD chan.toNat then refuse .badArgument s
      else startMeasure tag seg.toNat chan.toNat (max fromT.toNat oldest) (min toT.toNat limit) s
    | _, _ => refuse .wrongState s := by
  refine (if_neg (by omega)).trans (if_neg ?_)
  rw [h4, h5]
  decide

include h1 h2 h3 h4 h5 in
theorem cmdMeasure_wrong (h : (segAt s seg.toNat).state = .empty ∨ (segAt s seg.toNat).oldest = none ∨
    (segAt s seg.toNat).newest = none) : cmdMeasure tag seg chan fromT toT s = refuse .wrongState s := by
  rw [cmdMeasure_free h1 h2 h3 h4 h5]
  split
  · next oldest limit hold hlimit =>
    refine if_pos (h.resolve_right ?_)
    rintro (c | c)
    · cases (hold.symm.trans c)
    · rw [Segment.viewLimit, c] at hlimit
      cases hlimit
  · rfl

variable {oldest newest f e : Nat} (h6 : (segAt s seg.toNat).state ≠ .empty)
  (h7 : (segAt s seg.toNat).oldest = some oldest) (h8 : (segAt s seg.toNat).newest = some newest)

include h1 h2 h3 h4 h5 h6 h7 h8 in
theorem cmdMeasure_masked (h : (segAt s seg.toNat).mask.getLsbD chan.toNat = false) :
    cmdMeasure tag seg chan fromT toT s = refuse .badArgument s := by
  rw [cmdMeasure_free h1 h2 h3 h4 h5, Segment.viewLimit, h7, h8]
  exact (if_neg h6).trans (if_pos (by rw [h]; rfl))

include h1 h2 h3 h4 h5 h6 h7 h8 in
theorem cmdMeasure_starts (h : (segAt s seg.toNat).mask.getLsbD chan.toNat = true) (hf : f = max fromT.toNat oldest)
    (he : e = min toT.toNat ((segAt s seg.toNat).endTime.getD newest)) :
    cmdMeasure tag seg chan fromT toT s = startMeasure tag seg.toNat chan.toNat f e s := by
  rw [cmdMeasure_free h1 h2 h3 h4 h5, Segment.viewLimit, h7, h8, hf, he]
  exact (if_neg h6).trans (if_neg (by rw [h]; decide))

end

/-- Settles O47: the commands by their cases, a record by the level that stood, a grant by what is written next. -/
theorem measureAndColumnReadoutJudged : Obligations.MeasureAndColumnReadoutJudged := by
  refine ⟨fun tag seg chan first count fromT toT s hs => ⟨fun h => runCommand_refused tag 38 hs (cmdMeasure_bad h),
    fun h1 h2 h3 => ⟨fun h => runCommand_refused tag 38 hs (cmdMeasure_busy h1 h2 h3 h), fun h4 h5 d hd => ?_⟩,
    fun h => runCommand_refused tag 39 hs (if_pos h), fun h1 h2 h3 => ⟨fun h => runCommand_refused tag 39 hs ?_,
      fun h n hn => runCommand_accepted tag 39 hs ?_⟩⟩, fun m r v n at_ hv hn => ⟨take_first hv, fun was hlevel hat => ?_⟩,
    fun m m' s hpass hmeas hpend hmore honly hdue hm' => ?_⟩
  · subst hd
    refine ⟨fun h => runCommand_refused tag 38 hs (cmdMeasure_wrong h1 h2 h3 h4 h5 h),
      fun oldest newest f e h6 h7 h8 hf he => ⟨fun h => runCommand_refused tag 38 hs
        (cmdMeasure_masked h1 h2 h3 h4 h5 h6 h7 h8 h), fun h hlt => ?_, fun h hle hpend => ?_⟩⟩
    · obtain ⟨j, hj, hfirst, hlast⟩ := measureFirst_spec s seg.toNat f
      refine ⟨j, runCommand_accepted tag 38 hs ?_, hfirst, hlast⟩
      rw [cmdMeasure_starts h1 h2 h3 h4 h5 h6 h7 h8 h hf he, startMeasure, if_neg (by omega), hj]
      rfl
    · refine runCommand_accepted tag 38 hs ?_
      rw [cmdMeasure_starts h1 h2 h3 h4 h5 h6 h7 h8 h hf he, startMeasure, if_pos hle,
        finishMeasure_no_request (by exact hpend)]
      rfl
  · exact (if_neg (by rintro (c | c | c); omega; exact h2 c; omega)).trans (if_pos h)
  · rw [hn]
    exact (if_neg (by rintro (c | c | c); omega; exact h2 c; omega)).trans (if_neg (by rw [h]; decide))
  · have htake := take_level hv hn hlevel hat
    refine ⟨fun h => ?_, fun ht hw => ?_, fun ht hw => ?_⟩
    · rw [htake, if_pos h.symm]
      rfl
    · rw [htake, ht, hw, if_neg (by decide), if_pos rfl, rise_eq, hat, hw]
      rfl
    · rw [htake, ht, hw, if_neg (by decide), if_neg (by decide), fall_eq, hat, hw]
      rfl
  · have hgrant := arbiterGrant_measures hpass hmeas hmore honly hdue
    refine ⟨fun h => ?_, fun h1 h2 level hlevel => ?_, fun h => measureAfterWrite_overtakes hmeas hpend h⟩
    · rw [hgrant, measureAccess_runs (s := setRotation .view s) hm' h]
      rfl
    · rw [hgrant, measureAccess_finishes (s := setRotation .view s) hm' hpend h1 h2 hlevel]
      rfl

end Sys2Proof.Machine
end

section
/-! Sections 8.2 and 8.5: the accesses of a pass, the end of its columns, and the cells (R158 to R160, R169 to R173). -/

namespace Sys2Proof.Machine

/-! ## What a column still has to read -/

theorem needsAccess_iff (p : Pass) (s : State) : p.needsAccess s = true ↔ p.noData = false ∧
    (p.needsRecord (segAt s p.snap.seg) = true ∨ p.logRead < p.columnEntries (logAt s p.snap.seg)) := by
  simp only [Pass.needsAccess, Bool.and_eq_true, Bool.not_eq_true', Bool.or_eq_true, decide_eq_true_eq]

theorem needsRecord_iff (p : Pass) (d : Segment) : p.needsRecord d = true ↔
    p.reader = .idle ∨ (∃ lo hi, p.reader = .bisect lo hi) ∨
      ∃ next last, p.reader = .reading next last ∧ next < d.written ∧
        ∀ x, last = some x → x < columnStart p.snap.t0 p.snap.q (p.col + 1) := by
  unfold Pass.needsRecord
  cases p.reader with
  | idle => simp
  | bisect lo hi => simp
  | reading next last =>
    cases last with
    | none => simp
    | some t =>
      simp only [Bool.and_eq_true, decide_eq_true_eq, reduceCtorEq, exists_const, PassReader.reading.injEq,
        ↓existsAndEq, and_true, Option.some.injEq, forall_eq', exists_eq_left', false_or, and_congr_right_iff]
      exact fun _ => Iff.rfl

section
variable {p : Pass} {s : State} {d : Segment} (hd : d = segAt s p.snap.seg)

include hd in
theorem passReadRecord_bisects {lo hi : Nat} (h : p.readerNow d = .bisect lo hi) :
    passReadRecord p s = { p with reader :=
      (if (recordNumber s p.snap.seg ((lo + hi) / 2)).time < columnStart p.snap.t0 p.snap.q p.col then
        bisectOr ((lo + hi) / 2) hi
      else bisectOr lo ((lo + hi) / 2)) } := by
  subst hd
  unfold passReadRecord
  dsimp only
  rw [h]
  by_cases hlt : (recordNumber s p.snap.seg ((lo + hi) / 2)).time < columnStart p.snap.t0 p.snap.q p.col
  · rw [if_pos hlt]
    exact if_pos hlt
  · rw [if_neg hlt]
    exact if_neg hlt

include hd in
theorem passReadRecord_reads {next : Nat} {last : Option Nat} (h : p.readerNow d = .reading next last) :
    passReadRecord p s = { p with
      reader := .reading (next + 1) (some (recordNumber s p.snap.seg next).time) } := by
  subst hd
  unfold passReadRecord
  dsimp only
  rw [h]

end

theorem readerNow_idle {p : Pass} {d : Segment} (h : p.reader = .idle) : p.readerNow d = bisectOr d.base d.written := by
  rw [Pass.readerNow, h]

theorem readerNow_bisect {p : Pass} {d : Segment} {lo hi : Nat} (h : p.reader = .bisect lo hi) (hlo : d.base ≤ lo)
    (hhi : lo + 1 < hi) : p.readerNow d = .bisect lo hi := by
  rw [Pass.readerNow, h]
  dsimp only
  rw [Nat.max_eq_left hlo, Nat.max_eq_left (by omega), bisectOr, if_neg (by omega)]

theorem readerNow_reading {p : Pass} {d : Segment} {next : Nat} {last : Option Nat} (h : p.reader = .reading next last)
    (hn : d.base ≤ next) : p.readerNow d = .reading next last := by
  rw [Pass.readerNow, h]
  dsimp only
  rw [Nat.max_eq_left hn]

/-! ## The row and the grant -/

theorem passColumnComputed_pass {p : Pass} {s : State} (hp : s.view.pass = some p) :
    exec .passColumnComputed s = .next (if p.needsAccess s then s else finishColumn p s) := by
  have h : exec .passColumnComputed s = execPassColumnComputed s := rfl
  rw [h, execPassColumnComputed, hp]

theorem arbiterGrant_passes {p : Pass} {s : State} (hp : s.view.pass = some p) (hneeds : p.needsAccess s = true)
    (honly : ∀ q, requesterWaits s q = true → q = .view) (hdue : postFillDue s = false) :
    exec .arbiterGrant s = .next (passAccess p (setRotation .view s)) := by
  have hw : requesterWaits s .view = true := by
    rw [requesterWaits, viewWaits, hp]
    exact hneeds
  have hp' : (setRotation .view s).view.pass = some p := hp
  have hserve : serve .view (setRotation .view s) = .next (viewAccess (setRotation .view s)) := rfl
  rw [arbiterGrant_only hdue hw honly nofun, hserve, viewAccess, hp']
  exact congrArg Host.Outcome.next (if_pos hneeds)

/-! ## The column's end -/

theorem columnCells_length (p : Pass) (s : State) : (columnCells p s).length = p.rows.length := by
  unfold columnCells
  dsimp only
  split <;> exact List.length_map ..

theorem startPass_none {s : State} (h : s.view.pending = none) : startPass s = s := by
  unfold startPass
  rw [h]

/-- The back buffer that a pass leaves when it finishes. -/
def Pass.picture (p : Pass) (s : State) : FrameBuffer :=
  ⟨nextPassNo s.view.passCount, some p.snap, p.rows, s.view.back.cols,
    p.snap.cursorA.bind (columnOf p.snap.t0 p.snap.q), p.snap.cursorB.bind (columnOf p.snap.t0 p.snap.q),
    p.trigTime.bind (columnOf p.snap.t0 p.snap.q)⟩

/-- The view engine when a pass has finished: the picture is ready, or with the panel OFF is the front buffer. -/
def Pass.finished (p : Pass) (s : State) : View :=
  if s.panel.running then { s.view with
    pass := none, back := p.picture s, ready := true, passCount := nextPassNo s.view.passCount }
  else { s.view with
    pass := none, front := p.picture s, back := s.view.front, ready := false
    passCount := nextPassNo s.view.passCount }

theorem finishPass_eq {p : Pass} {s : State} (hpend : s.view.pending = none) :
    finishPass p s = raise blkView evPassDone (setView (p.finished s) s) := by
  have hpend' : (p.finished s).pending = none := by
    unfold Pass.finished
    split <;> exact hpend
  have h : finishPass p s = startPass (raise blkView evPassDone (setView (p.finished s) s)) := by
    unfold Pass.finished finishPass
    dsimp only
    split <;> rfl
  exact h.trans (startPass_none hpend')

/-- The state in which a column's cells have joined the back buffer. -/
def Pass.withCells (p : Pass) (s : State) : State :=
  setView { s.view with back := { s.view.back with cols := s.view.back.cols ++ [columnCells p s] } } s

theorem finishColumn_goes_on {p : Pass} {s : State} (hpend : s.view.pending = none) (hcol : p.col < 719) :
    finishColumn p s = beginColumn { p with col := p.col + 1 } (p.withCells s) := by
  have hpend' : (p.withCells s).view.pending = none := hpend
  have h : finishColumn p s = columnBoundary p (p.withCells s) := rfl
  rw [h, columnBoundary, hpend']
  exact if_neg (show ¬ 720 ≤ p.col + 1 by omega)

theorem finishColumn_last {p : Pass} {s : State} (hpend : s.view.pending = none) (hcol : p.col = 719) :
    finishColumn p s = raise blkView evPassDone (setView (p.finished (p.withCells s)) (p.withCells s)) := by
  have hpend' : (p.withCells s).view.pending = none := hpend
  have h : finishColumn p s = columnBoundary p (p.withCells s) := rfl
  rw [h, columnBoundary, hpend']
  exact (if_pos (show 720 ≤ p.col + 1 by omega)).trans (finishPass_eq hpend')

theorem finishColumn_restarts {p : Pass} {s : State} {n : Snapshot} (hpend : s.view.pending = some n) :
    finishColumn p s = beginPass n (p.withCells s) := by
  have hpend' : (p.withCells s).view.pending = some n := hpend
  have h : finishColumn p s = columnBoundary p (p.withCells s) := rfl
  rw [h, columnBoundary, hpend']

theorem finishColumn_keeps (p : Pass) (s : State) : (finishColumn p s).capture = s.capture ∧
    (finishColumn p s).panel = s.panel ∧ (finishColumn p s).rpath = s.rpath ∧ (finishColumn p s).lanes = s.lanes ∧
    (finishColumn p s).uplink = s.uplink := by
  cases hpend : s.view.pending with
  | some n =>
    rw [finishColumn_restarts hpend]
    exact ⟨rfl, rfl, rfl, rfl, rfl⟩
  | none =>
    have h : finishColumn p s = if Config.columns ≤ p.col + 1 then finishPass p (p.withCells s)
        else beginColumn { p with col := p.col + 1 } (p.withCells s) := by
      have hpend' : (p.withCells s).view.pending = none := hpend
      have h : finishColumn p s = columnBoundary p (p.withCells s) := rfl
      rw [h, columnBoundary, hpend']
    rw [h]
    split
    · rw [finishPass_eq (s := p.withCells s) hpend]
      exact ⟨rfl, rfl, rfl, rfl, rfl⟩
    · exact ⟨rfl, rfl, rfl, rfl, rfl⟩

theorem finished_running {p : Pass} {s : State} (h : s.panel.running = true) : p.finished s = { s.view with
    pass := none, back := p.picture s, ready := true, passCount := nextPassNo s.view.passCount } := if_pos h

theorem finished_off {p : Pass} {s : State} (h : s.panel.running = false) : p.finished s = { s.view with
    pass := none, front := p.picture s, back := s.view.front, ready := false
    passCount := nextPassNo s.view.passCount } := if_neg (by rw [h]; exact Bool.false_ne_true)

/-! ## Cells -/

theorem noData_iff (d : Segment) (a : Nat) : d.noData a = true ↔
    281474976710655 < a ∨ d.oldest = none ∨ d.viewLimit = none ∨ (∃ o, d.oldest = some o ∧ a < o) ∨
      ∃ v, d.viewLimit = some v ∧ v ≤ a := by
  unfold Segment.noData
  cases d.oldest with
  | none => simp
  | some o =>
    cases d.viewLimit with
    | none => simp
    | some v => simp [Config.lastTick, or_assoc]

section
variable {p : Pass} {s : State} {d : Segment} {a b j : Nat} {row : RowEntry}

theorem columnCells_noData (hd : d = segAt s p.snap.seg) (ha : a = columnStart p.snap.t0 p.snap.q p.col)
    (hrow : p.rows[j]? = some row) (h : p.noData = true ∨ ∀ o, d.oldest = some o → a < o) :
    (columnCells p s)[j]? = some (noDataCell row.kind) := by
  subst hd ha
  have hcond : (p.noData || decide (p.snap.start p.col < (segAt s p.snap.seg).oldest.getD (p.snap.start p.col + 1)))
      = true := by
    rw [Bool.or_eq_true, decide_eq_true_eq]
    refine h.imp id fun h => ?_
    cases ho : (segAt s p.snap.seg).oldest with
    | none => exact Nat.lt_succ_self _
    | some o => exact h o ho
  unfold columnCells
  dsimp only
  rw [if_pos hcond, List.getElem?_map, hrow]
  rfl

theorem columnCells_data (hd : d = segAt s p.snap.seg) (ha : a = columnStart p.snap.t0 p.snap.q p.col)
    (hb : b = columnStart p.snap.t0 p.snap.q (p.col + 1)) (hrow : p.rows[j]? = some row) (hdata : p.noData = false)
    {o : Nat} (ho : d.oldest = some o) (hle : o ≤ a) : (columnCells p s)[j]? =
      some (rowCell d (retainedRecords s p.snap.seg) (logAt s p.snap.seg) a b row.kind) := by
  subst hd ha hb
  have hcond : ¬ (p.noData || decide (p.snap.start p.col < (segAt s p.snap.seg).oldest.getD (p.snap.start p.col + 1)))
      = true := by
    rw [hdata, ho, Bool.false_or, decide_eq_true_eq]
    exact Nat.not_lt.mpr hle
  unfold columnCells
  dsimp only
  rw [if_neg hcond, List.getElem?_map, hrow]
  rfl

theorem columnCells_blank (hrow : p.rows[j]? = some row) (hk : row.kind = .blank) :
    (columnCells p s)[j]? = some .blank := by
  unfold columnCells
  dsimp only
  split
  all_goals
    rw [List.getElem?_map, hrow, Option.map_some, hk]
    rfl

end

theorem traceClass_eq (l : Bool) (n : Nat) : traceClass l n =
    if n = 0 then (if l then .high else .low) else if n = 1 then (if l then .fall else .rise) else .busy := by
  unfold traceClass
  split
  · rfl
  · rfl
  · rename_i h0 h1
    rw [if_neg h0, if_neg h1]

theorem glitchIn_iff (rs : List Record) (a b k : Nat) : glitchIn rs a b k = true ↔
    ∃ x ∈ rs, a ≤ x.time ∧ x.time < b ∧ x.extra.getLsbD k = true ∧
      (x.kind = .start ∨ x.kind = .change ∨ x.kind = .pod) := by
  simp only [glitchIn, List.any_eq_true, Bool.and_eq_true, Bool.or_eq_true, decide_eq_true_eq, and_assoc, or_assoc]

theorem traceCell_spec {r : Record} {rs : List Record} {a b k n : Nat} {l0 : Bool} {record : Nat → Record}
    (hrec : ∀ j, record j = (r :: rs).getD j r)
    (hsort : (r :: rs).Pairwise fun x y => x.time ≤ y.time)
    (hn : n = ((List.range rs.length).filter fun j => a ≤ (record (j + 1)).time ∧ (record (j + 1)).time < b ∧
      (record (j + 1)).levels.getLsbD k ≠ (record j).levels.getLsbD k).length)
    (hlast : ∀ j, j ≤ rs.length → (record j).time < a → (∀ j', j < j' → j' ≤ rs.length → a ≤ (record j').time) →
      l0 = (record j).levels.getLsbD k)
    (hfirst : a ≤ r.time → l0 = r.levels.getLsbD k) :
    levelBefore (r :: rs) a k = l0 ∧ changeCount (r :: rs) a b k = n := by
  have hget : ∀ j (h : j < (r :: rs).length), record j = (r :: rs)[j] := fun j h => by
    rw [hrec, List.getD_eq_getElem _ _ h]
  refine ⟨?_, ?_⟩
  · by_cases h0 : a ≤ r.time
    · rw [levelBefore_oldest r rs a k h0, hfirst h0]
    · -- the last record below `a`
      have hex : ∃ j, j ≤ rs.length ∧ (record j).time < a ∧ ∀ j', j < j' → j' ≤ rs.length → a ≤ (record j').time := by
        have hzero : (record 0).time < a := by
          rw [hget 0 (Nat.succ_pos _)]
          exact Nat.not_le.mp h0
        exact ⟨Nat.findGreatest (fun j => (record j).time < a) rs.length, Nat.findGreatest_le _,
          Nat.findGreatest_spec (P := fun j => (record j).time < a) (Nat.zero_le _) hzero,
          fun j' hlt hle =>
            Nat.not_lt.mp (Nat.findGreatest_is_greatest (P := fun j => (record j).time < a) hlt hle)⟩
      obtain ⟨j, hj, hlt, habove⟩ := hex
      have hj' : j < (r :: rs).length := Nat.lt_succ_of_le hj
      rw [hlast j hj hlt habove, hget j hj']
      refine levelBefore_last (r :: rs) a k j hj' (fun i hi hij => ?_) fun h => ?_
      · have hle : ((r :: rs)[i]).time ≤ ((r :: rs)[j]).time := by
          rcases Nat.lt_or_eq_of_le hij with h | rfl
          · exact List.pairwise_iff_getElem.mp hsort i j hi hj' h
          · exact Nat.le_refl _
        rw [hget j hj'] at hlt
        exact Nat.lt_of_le_of_lt hle hlt
      · rw [← hget (j + 1) h]
        exact habove (j + 1) (Nat.lt_succ_self j) (Nat.le_of_lt_succ h)
  · have h := changesAfter_counts a b k r rs r
    have hfun : record = fun j => (r :: rs).getD j r := funext hrec
    rw [hn, hfun]
    exact h

theorem decodeCell_eq {log : List FrameRecord} {a b l : Nat} {start : Bool}
    (hstart : start = true ↔ ∃ e ∈ log, e.lane.val = l ∧ a ≤ e.start ∧ e.start < b) :
    (log.any fun e => decide (e.lane.val = l) && decide (a ≤ e.start) && decide (e.start < b)) = start := by
  rw [Bool.eq_iff_iff, hstart]
  simp only [List.any_eq_true, Bool.and_eq_true, decide_eq_true_eq, and_assoc]

theorem entriesIn_eq {log m : List FrameRecord} {a b l : Nat} (hab : a ≤ b)
    (hm : a < b → m = log.filter fun e => e.lane.val = l ∧ e.start < b ∧ a ≤ e.endTick) (hm0 : a = b → m = []) :
    entriesIn log a b l = m := by
  unfold entriesIn
  rcases Nat.lt_or_eq_of_le hab with h | h
  · rw [if_neg (Nat.ne_of_lt h), hm h]
    refine List.filter_congr fun e _ => ?_
    rw [Bool.eq_iff_iff]
    simp only [Bool.and_eq_true, decide_eq_true_eq, and_assoc]
    rw [show e.start ≤ b - 1 ↔ e.start < b by omega]
  · rw [if_pos h, hm0 h]

/-! ## The obligation -/

theorem passAccess_eq {p p' : Pass} {s s' : State} {d : Segment} (hd : d = segAt s p.snap.seg)
    (hp' : p' = if p.needsRecord d then passReadRecord p s else { p with logRead := p.logRead + 1 })
    (hs' : s' = { s with
      capture := { s.capture with rotation := .view }, view := { s.view with pass := some p' } }) :
    passAccess p (setRotation .view s) = if p'.needsAccess s' then s' else finishColumn p' s' := by
  subst hd hp' hs'
  rfl

/-- A grant to the view engine for a pass. -/
theorem arbiterGrant_pass {p p' : Pass} {s s' : State} {d : Segment} (hp : s.view.pass = some p)
    (hd : d = segAt s p.snap.seg) (hneeds : p.needsAccess s = true)
    (honly : ∀ q, requesterWaits s q = true → q = .view) (hdue : postFillDue s = false)
    (hp' : p' = if p.needsRecord d then passReadRecord p s else { p with logRead := p.logRead + 1 })
    (hs' : s' = { s with
      capture := { s.capture with rotation := .view }, view := { s.view with pass := some p' } }) :
    (p'.needsAccess s' = true → exec .arbiterGrant s = .next s') ∧
    (p'.needsAccess s' = false → exec .arbiterGrant s = exec .passColumnComputed s') := by
  have hgrant : exec .arbiterGrant s = .next (if p'.needsAccess s' then s' else finishColumn p' s') :=
    (arbiterGrant_passes hp hneeds honly hdue).trans (congrArg Host.Outcome.next (passAccess_eq hd hp' hs'))
  have hpass : s'.view.pass = some p' := by rw [hs']
  refine ⟨fun h => ?_, fun _ => ?_⟩
  · rw [hgrant, if_pos h]
  · rw [hgrant, passColumnComputed_pass hpass]

/-- The accesses of a pass and what they leave of its reader. -/
theorem pass_reads {p : Pass} {s : State} {d : Segment} {a : Nat} (hd : d = segAt s p.snap.seg)
    (ha : a = columnStart p.snap.t0 p.snap.q p.col) :
    (∀ mid, p.reader = .idle → d.base + 1 < d.written → mid = (d.base + d.written) / 2 →
      passReadRecord p s = { p with reader :=
        if (recordNumber s p.snap.seg mid).time < a then bisectOr mid d.written else bisectOr d.base mid }) ∧
    (p.reader = .idle → d.written ≤ d.base + 1 →
      passReadRecord p s = { p with
        reader := .reading (d.base + 1) (some (recordNumber s p.snap.seg d.base).time) }) ∧
    (∀ lo hi mid : Nat, p.reader = .bisect lo hi → d.base ≤ lo → lo + 1 < hi → mid = (lo + hi) / 2 →
      passReadRecord p s = { p with reader :=
        if (recordNumber s p.snap.seg mid).time < a then bisectOr mid hi else bisectOr lo mid }) ∧
    (∀ next last, p.reader = .reading next last → d.base ≤ next →
      passReadRecord p s = { p with
        reader := .reading (next + 1) (some (recordNumber s p.snap.seg next).time) }) := by
  subst ha
  refine ⟨fun mid hr hlt hmid => ?_, fun hr hle => ?_, fun lo hi mid hr hlo hhi hmid => ?_, fun next last hr hn => ?_⟩
  · subst hmid
    exact passReadRecord_bisects hd ((readerNow_idle hr).trans (if_neg (by omega)))
  · exact passReadRecord_reads (last := none) hd ((readerNow_idle hr).trans (if_pos hle))
  · subst hmid
    exact passReadRecord_bisects hd (readerNow_bisect hr hlo hhi)
  · exact passReadRecord_reads hd (readerNow_reading hr hn)

/-- Settles O48: a grant is the pass's one access followed by the end of a column that needs no other; the column's end
goes on, finishes or restarts the pass; each cell is read off its row, with the changes counted by induction over the
records. -/
theorem passColumnsAndCells : Obligations.PassColumnsAndCells := by
  unfold Obligations.PassColumnsAndCells
  refine ⟨fun s hp => ?_, fun p s hp => ⟨fun h => ?_, fun d p' s' hd hneeds honly hdue hp' hs' =>
      arbiterGrant_pass hp hd hneeds honly hdue hp' hs', fun d a hd ha => ?_, fun hneeds => ?_⟩,
    fun p s d a b j row hd ha hb hrow => ⟨noData_iff d a, fun c hc => ⟨fun hk => ?_, fun hnone => ?_, fun hdata hold => ?_⟩⟩,
    fun r rs a b k hsort hr hab n l0 record hrec hn hlast hfirst => ?_, fun log m a b l start hab hm hm0 hstart => ?_⟩
  · have h : exec .passColumnComputed s = execPassColumnComputed s := rfl
    rw [h, execPassColumnComputed, hp]
  · rw [passColumnComputed_pass hp, if_pos h]
  · obtain ⟨hidle, hshort, hbisect, hreading⟩ := pass_reads hd ha
    subst hd
    exact ⟨needsAccess_iff p s, needsRecord_iff p _, hidle, hshort, hbisect, fun _ _ => rfl, hreading⟩
  · obtain ⟨hcapture, hpanel, hrpath, hlanes, huplink⟩ := finishColumn_keeps p s
    refine ⟨finishColumn p s, ?_, columnCells_length p s, hcapture, hpanel, hrpath, hlanes, huplink,
      fun hpend hcol => ?_, fun hpend hcol => ?_, fun n hpend => ?_⟩
    · rw [passColumnComputed_pass hp, if_neg (by rw [hneeds]; exact Bool.false_ne_true)]
    · rw [finishColumn_goes_on hpend hcol]
      exact ⟨rfl, rfl, rfl, _, rfl, rfl, rfl, rfl, rfl⟩
    · rw [finishColumn_last hpend hcol]
      cases hrun : s.panel.running with
      | true =>
        rw [finished_running (s := p.withCells s) hrun]
        exact ⟨rfl, rfl, rfl, rfl, fun f hf => hf ▸ ⟨rfl, rfl, rfl, rfl, rfl⟩, fun _ => rfl⟩
      | false =>
        rw [finished_off (s := p.withCells s) hrun]
        exact ⟨rfl, rfl, rfl, rfl, fun f hf => hf ▸ ⟨rfl, rfl, rfl, rfl, rfl⟩, nofun⟩
    · rw [finishColumn_restarts hpend]
      exact ⟨rfl, rfl, rfl, rfl, rfl, _, rfl, rfl, rfl, rfl⟩
  · exact Option.some.inj (hc.symm.trans (columnCells_blank hrow hk))
  · have hcell := Option.some.inj (hc.symm.trans (columnCells_noData hd ha hrow hnone))
    exact ⟨fun k hk => by rw [hcell, hk]; rfl, fun l hk => by rw [hcell, hk]; rfl⟩
  · obtain ⟨o, ho, hle⟩ := hold
    have hcell := Option.some.inj (hc.symm.trans (columnCells_data hd ha hb hrow hdata ho hle))
    refine ⟨fun k hk hmask => ?_, fun k hk hmask => ?_, fun l hk => ?_⟩
    · rw [hcell, hk]
      exact if_neg (by rw [hmask]; exact Bool.false_ne_true)
    · rw [hcell, hk]
      exact if_pos hmask
    · rw [hcell, hk]
      rfl
  · obtain ⟨hlevel, hcount⟩ := traceCell_spec hrec hsort hn hlast hfirst
    refine ⟨glitchIn (r :: rs) a b k, ?_, glitchIn_iff _ a b k⟩
    rw [traceCell, hlevel, hcount, traceClass_eq]
  · have hentries := entriesIn_eq (l := l) hab hm hm0
    have hany := decodeCell_eq hstart
    unfold decodeCell
    dsimp only
    rw [hentries, hany]
    refine ⟨fun h => by rw [h], fun e h => by rw [h], fun hlen bad hbad => ?_⟩
    have hb : (m.any fun e => decide (e.code ≠ .good)) = bad := by
      rw [Bool.eq_iff_iff, hbad]
      simp only [List.any_eq_true, decide_eq_true_eq]
    cases m with
    | nil => exact absurd hlen (by decide)
    | cons e m =>
      cases m with
      | nil => exact absurd hlen (by simp)
      | cons e' m => exact congrArg (Cell.decode .multi · start) hb

end Sys2Proof.Machine
end

section
/-! Sections 9.1 to 9.3 and 9.7: the panel's commands, the end of a frame and the backlight (R182 to R186, R193). -/

namespace Sys2Proof.Machine

/-! ## SET_PANEL -/

theorem swapReady_eq (v : View) : v.swapReady =
    if v.ready then { v with front := v.back, back := v.front, ready := false } else v := rfl

theorem cmdSetPanel_on {s : State} (h : s.panel.running = false) : cmdSetPanel 1 s = accept [0] (panelOn s) := by
  unfold cmdSetPanel
  dsimp only
  rw [show switchOf 1 = some true from rfl, h]
  rfl

theorem cmdSetPanel_off {s : State} (h : s.panel.running = true) : cmdSetPanel 0 s = accept [1] (panelOff s) := by
  unfold cmdSetPanel
  dsimp only
  rw [show switchOf 0 = some false from rfl, h]
  rfl

theorem cmdSetPanel_same {s : State} {b : Bool} (h : s.panel.running = b) :
    cmdSetPanel (flagWord b) s = accept [flagWord b] s := by
  unfold cmdSetPanel
  dsimp only
  rw [switchOf_flagWord, h]
  cases b <;> rfl

theorem cmdSetPanel_refused {code : Word} {s : State} (h : 1 < code.toNat) :
    cmdSetPanel code s = refuse .badArgument s := by
  unfold cmdSetPanel
  dsimp only
  rw [switchOf_eq_none h]

/-! ## SET_ROW_MAP -/

/-- A word that names a row: its kind is CHANNEL, LANE or BLANK, with an index in range. -/
def namesRow (w : Word) : Prop :=
  (field w 0 2 = 0 ∧ field w 8 8 ≤ 31) ∨ (field w 0 2 = 1 ∧ field w 8 8 ≤ 5) ∨ field w 0 2 = 2

/-- The row that such a word names. -/
def rowNamed (w : Word) : RowEntry :=
  ⟨if field w 0 2 = 0 then .channel (field w 8 8) else if field w 0 2 = 1 then .lane (field w 8 8) else .blank,
    max 8 (min (field w 16 8) 32)⟩

theorem rowOf_named {w : Word} (h : namesRow w) : rowOf w = some (rowNamed w) := by
  unfold rowOf rowNamed
  dsimp only
  rcases h with ⟨h0, hi⟩ | ⟨h1, hi⟩ | h2
  · rw [h0]
    exact if_neg (Nat.not_lt.mpr hi)
  · rw [h1]
    exact if_neg (Nat.not_lt.mpr hi)
  · rw [h2]
    rfl

theorem rowOf_refused {w : Word} (h : field w 0 2 = 3 ∨ (field w 0 2 = 0 ∧ 31 < field w 8 8) ∨
    (field w 0 2 = 1 ∧ 5 < field w 8 8)) : rowOf w = none := by
  unfold rowOf
  dsimp only
  rcases h with h3 | ⟨h0, hi⟩ | ⟨h1, hi⟩
  · simp only [h3]
  · rw [h0]
    exact if_pos hi
  · rw [h1]
    exact if_pos hi

theorem rowsOf_named {ws : List Word} (h : ∀ w ∈ ws, namesRow w) : rowsOf ws = some (ws.map rowNamed) := by
  induction ws with
  | nil => rfl
  | cons w ws ih =>
    rw [rowsOf, rowOf_named (h w List.mem_cons_self), ih fun v hv => h v (List.mem_cons_of_mem w hv)]
    rfl

theorem rowsOf_refused {ws : List Word} {w : Word} (hw : w ∈ ws) (h : rowOf w = none) : rowsOf ws = none := by
  induction ws with
  | nil => exact absurd hw List.not_mem_nil
  | cons v ws ih =>
    unfold rowsOf
    rcases List.mem_cons.mp hw with rfl | hw
    · rw [h]
    · rw [ih hw]
      cases rowOf v <;> rfl

theorem setRowMap_taken {tag : Tag} {ws : List Word} {rows : List RowEntry} {s : State} (hs : canDispatch s = true)
    (hlen : ws.length ≤ 24) (hrows : rows = ws.map rowNamed) (hall : ∀ w ∈ ws, namesRow w) :
    ∃ t : State, exec (.setRowMap tag ws) s = .next { t with
        uplink := (answered tag 42 .ok [word ws.length, word (rowsAbove rows)] s).uplink } ∧
      t.panel = { s.panel with rowMap := rows } ∧
      viewRequested s.view.snapshot { s with panel := { s.panel with rowMap := rows } } t := by
  have hreq := viewRequest_requested s.view.seg s.view.t0 s.view.q s.view.roll s.view.cursorA s.view.cursorB
    (setPanel { s.panel with rowMap := rows } s)
  have hcmd : cmdSetRowMap ws s = accept [word ws.length, word (rowsAbove rows)]
      (viewRequest (setPanel { s.panel with rowMap := rows } s)) := by
    unfold cmdSetRowMap
    rw [if_neg (Nat.not_lt.mpr hlen), rowsOf_named hall, ← hrows]
    dsimp only
    rw [hrows, List.length_map]
  refine ⟨_, (runCommand_accepted tag 42 hs hcmd).trans ?_, (viewRequest_frame _).2.2.2.2.2.2.2.2.2.1, hreq⟩
  simp only [answered, viewRequest_frame]
  rfl

/-! ## SET_PALETTE -/

theorem field_truncate (w : Word) : BitVec.ofNat 16 (field w 0 16) = w.truncate 16 := by
  apply BitVec.eq_of_toNat_eq
  simp [field]

theorem storeColours_get (p : Vector (BitVec 16) 16) (first : Nat) (ws : List Word) (k : Fin 16) :
    (storeColours p first ws)[k] = if first ≤ k.val ∧ k.val < first + ws.length
      then (ws.getD (k.val - first) 0).truncate 16 else p[k] := by
  induction ws generalizing p first with
  | nil =>
    rw [if_neg (by simp only [List.length_nil]; omega)]
    rfl
  | cons w ws ih =>
    rw [storeColours, ih, field_truncate]
    by_cases heq : k.val = first
    · rw [if_neg (by omega), if_pos (by simp only [List.length_cons]; omega)]
      subst heq
      simp
    · have hget : (p.setIfInBounds first (w.truncate 16))[k] = p[k] := by
        simp [Ne.symm heq]
      rw [hget]
      by_cases hk : first + 1 ≤ k.val ∧ k.val < first + 1 + ws.length
      · rw [if_pos hk, if_pos (by simp only [List.length_cons]; omega)]
        rw [show k.val - first = k.val - (first + 1) + 1 by omega, List.getD_cons_succ]
      · rw [if_neg hk, if_neg (by simp only [List.length_cons]; omega)]

/-! ## The backlight -/

theorem backlight_partial {s : State} (h255 : s.panel.level ≠ 255) :
    backlight s = true ↔ s.panel.step.toNat < s.panel.level.toNat := by
  unfold backlight
  rw [decide_eq_false h255, Bool.false_or, decide_eq_true_eq, BitVec.lt_def]

/-! ## The obligation -/

theorem frameEnd_scanned {s : State} (hrun : s.panel.running = true) (hscan : s.panel.scan.isSome) :
    exec .frameEnd s = .next (endFrameScan s) :=
  congrArg Host.Outcome.next (if_pos (by rw [hrun, hscan]; rfl))

theorem frameEnd_idle {s : State} (h : s.panel.running = false ∨ s.panel.scan = none) : exec .frameEnd s = .next s := by
  refine congrArg Host.Outcome.next (if_neg ?_)
  rcases h with h | h
  · rw [h]
    exact Bool.false_ne_true
  · rw [h, Option.isSome_none, Bool.and_false]
    exact Bool.false_ne_true

theorem endFrameScan_eq {s : State} {v : View} (hv : v = s.view.swapReady) : endFrameScan s = { s with
    view := v
    panel := { s.panel with
      frameCount := s.panel.frameCount + 1, active := s.panel.written
      scan := some ⟨v.front, drawnRows v.front s.panel.rowMap⟩ } } := by
  subst hv
  rfl

/-- Settles O49, command by command: each branch of a panel command is that of its judgement. -/
theorem panelCommandsAndSteps : Obligations.PanelCommandsAndSteps := by
  unfold Obligations.PanelCommandsAndSteps
  intro tag code first level entries colours s
  refine ⟨fun hs => ⟨fun h => ?_, fun hc h => ?_, fun hc h => ?_, fun b hc h => ?_, fun h => ?_,
      fun hlen => ⟨?_, fun rows hall hrows => setRowMap_taken hs hlen hrows hall⟩, fun h => ?_, fun h1 h2 h3 => ?_,
      fun h => ?_, fun h => ?_⟩,
    fun hrun hscan v hv => ?_, frameEnd_idle, fun h => ⟨?_, ?_⟩, fun h => ⟨?_, ?_⟩, fun h => ?_, fun h => ?_,
    fun _ h => backlight_partial h, fun h => ⟨fun x y => ?_, fun phase => ?_⟩⟩
  · exact runCommand_refused tag 41 hs (cmdSetPanel_refused h)
  · subst hc
    exact runCommand_accepted tag 41 hs (cmdSetPanel_on h)
  · subst hc
    exact runCommand_accepted tag 41 hs (cmdSetPanel_off h)
  · subst hc
    exact runCommand_accepted tag 41 hs (cmdSetPanel_same h)
  · exact runCommand_refused tag 42 hs (if_pos h)
  · rintro ⟨w, hw, h⟩
    refine runCommand_refused tag 42 hs ?_
    unfold cmdSetRowMap
    rw [if_neg (Nat.not_lt.mpr hlen), rowsOf_refused hw (rowOf_refused h)]
  · exact runCommand_refused tag 43 hs (if_pos h)
  · refine ⟨storeColours s.panel.written first.toNat colours, ?_, storeColours_get _ _ _⟩
    refine runCommand_accepted tag 43 hs (if_neg ?_)
    rintro (h | h | h)
    · omega
    · exact h2 h
    · omega
  · exact runCommand_refused tag 45 hs (if_pos h)
  · refine runCommand_accepted tag 45 hs ((if_neg (Nat.not_lt.mpr h)).trans ?_)
    rw [show BitVec.ofNat 8 level.toNat = level.truncate 8 by apply BitVec.eq_of_toNat_eq; simp]
    rfl
  · rw [frameEnd_scanned hrun hscan, endFrameScan_eq hv]
    rfl
  · exact congrArg Host.Outcome.next (if_pos h)
  · exact congrArg Host.Outcome.next ((if_pos h).trans (if_pos h).symm)
  · exact congrArg Host.Outcome.next (if_neg h)
  · exact congrArg Host.Outcome.next (if_neg h)
  · unfold backlight
    rw [h]
    simp
  · unfold backlight
    rw [h]
    rfl
  · unfold rgb
    rw [h]
  · unfold syncOutputs
    rw [h]
    rfl

end Sys2Proof.Machine
end

section
/-! Sections 9.2 and 9.4 to 9.6: the overlay plane's rectangles and the colour of a pixel (R185, R187 to R192). -/

namespace Sys2Proof.Machine

/-! ## Painting -/

theorem paintLine_read {f : Nat → BitVec 4} {plane : Mem (BitVec 4)} (hwf : Mem.wf 0 plane = true) (a n b : Nat) :
    Mem.read 0 (paintLine f plane a n) b = if a ≤ b ∧ b < a + n then f (b - a) else Mem.read 0 plane b := by
  induction n with
  | zero =>
    rw [if_neg (by omega)]
    rfl
  | succ n ih =>
    rw [paintLine]
    by_cases heq : b = a + n
    · subst heq
      rw [Mem.read_write_self _ _ (paintLine_wf f plane a n hwf), if_pos (by omega), Nat.add_sub_cancel_left]
    · rw [Mem.read_write_ne _ _ heq, ih]
      by_cases h : a ≤ b ∧ b < a + n
      · rw [if_pos h, if_pos (by omega)]
      · rw [if_neg h, if_neg (by omega)]

/-- A rectangle that stays inside its lines is painted and every other pixel kept. -/
theorem paintRect_read {f : Nat → Nat → BitVec 4} {plane : Mem (BitVec 4)} (hwf : Mem.wf 0 plane = true)
    {x y w : Nat} (h : Nat) (hw : w = 0 ∨ x + w ≤ 800) {px : Nat} (hpx : px < 800) (py : Nat) :
    Mem.read 0 (paintRect f plane x y w h) (800 * py + px) =
      if x ≤ px ∧ px < x + w ∧ y ≤ py ∧ py < y + h then f (py - y) (px - x)
      else Mem.read 0 plane (800 * py + px) := by
  induction h with
  | zero =>
    rw [if_neg (by omega)]
    rfl
  | succ h ih =>
    rw [paintRect, paintLine_read (paintRect_wf f plane x y w h hwf), ih]
    by_cases hline : py = y + h
    · subst hline
      by_cases hin : x ≤ px ∧ px < x + w
      · rw [if_pos (by omega), if_pos (by omega), Nat.add_sub_cancel_left, Nat.add_sub_add_left]
      · rw [if_neg (by omega), if_neg (by omega), if_neg (by omega)]
    · rw [if_neg (by omega)]
      by_cases hin : x ≤ px ∧ px < x + w ∧ y ≤ py ∧ py < y + h
      · rw [if_pos hin, if_pos (by omega)]
      · rw [if_neg hin, if_neg (by omega)]

theorem paint_read {f : Nat → Nat → BitVec 4} {plane : Mem (BitVec 4)} (hwf : Mem.wf 0 plane = true) (r : Rect)
    {px py : Nat} (hpx : px < 800) (hpy : py < 480) : Mem.read 0 (r.paint f plane) (800 * py + px) =
      if r.x ≤ px ∧ px < r.x + r.w ∧ r.y ≤ py ∧ py < r.y + r.h then f (py - r.y) (px - r.x)
      else Mem.read 0 plane (800 * py + px) := by
  have hclip : r.clipW = min r.w (800 - r.x) ∧ r.clipH = min r.h (480 - r.y) := ⟨rfl, rfl⟩
  rw [Rect.paint, paintRect_read hwf r.clipH (by omega) hpx]
  by_cases hin : r.x ≤ px ∧ px < r.x + r.w ∧ r.y ≤ py ∧ py < r.y + r.h
  · rw [if_pos hin, if_pos (by omega)]
  · rw [if_neg hin, if_neg (by omega)]

theorem packedPixel_eq (ws : List Word) (j : Nat) :
    packedPixel ws j = ((ws.getD (j / 8) 0) >>> (4 * (j % 8))).truncate 4 := by
  apply BitVec.eq_of_toNat_eq
  simp [packedPixel, field]

/-! ## Rows -/

theorem rowTop_succ {rows : List RowEntry} {r : Nat} {row : RowEntry} (h : rows[r]? = some row) :
    rowTop rows (r + 1) = rowTop rows r + row.height := by
  unfold rowTop
  rw [List.take_add_one, h]
  simp

theorem rowTop_le {rows : List RowEntry} {r r' : Nat} (h : r ≤ r') : rowTop rows r ≤ rowTop rows r' := by
  induction h with
  | refl => exact Nat.le_refl _
  | @step m _ ih =>
    refine Nat.le_trans ih ?_
    cases hm : rows[m]? with
    | some row =>
      rw [rowTop_succ hm]
      exact Nat.le_add_right _ _
    | none =>
      unfold rowTop
      rw [List.take_add_one, hm]
      simp

theorem rowTop_length (rows : List RowEntry) : rowTop rows rows.length = (rows.map (·.height)).sum := by
  rw [rowTop, List.take_length]

theorem rowAtLine_row {rows : List RowEntry} {r y : Nat} {row : RowEntry} (hr : rows[r]? = some row) (hy : y < 480)
    (htop : rowTop rows r ≤ y) (hbot : y < rowTop rows r + row.height) : rowAtLine rows y = some r := by
  obtain ⟨hlt, -⟩ := List.getElem?_eq_some_iff.mp hr
  unfold rowAtLine
  rw [if_pos hy, List.find?_range_eq_some]
  refine ⟨?_, List.mem_range.mpr hlt, fun j hj => ?_⟩
  · rw [Bool.and_eq_true, decide_eq_true_eq, decide_eq_true_eq, rowTop_succ hr]
    exact ⟨htop, hbot⟩
  · have hle : rowTop rows (j + 1) ≤ rowTop rows r := rowTop_le hj
    rw [decide_eq_false (show ¬ y < rowTop rows (j + 1) by omega), Bool.and_false]
    rfl

theorem rowAtLine_below {rows : List RowEntry} {y : Nat} (h : (rows.map (·.height)).sum ≤ y) :
    rowAtLine rows y = none := by
  unfold rowAtLine
  split
  · refine List.find?_eq_none.mpr fun r hr => ?_
    have hle : rowTop rows (r + 1) ≤ rowTop rows rows.length := rowTop_le (List.mem_range.mp hr)
    rw [rowTop_length] at hle
    rw [decide_eq_false (show ¬ y < rowTop rows (r + 1) by omega), Bool.and_false]
    exact Bool.false_ne_true
  · rfl

/-! ## The colour of a pixel -/

section
variable {s : State} {n : Scan} {x y : Nat} {colour : Nat → BitVec 16} (hn : s.panel.scan = some n)
  (hcol : ∀ k, colour k = s.panel.active.toList.getD k 0)

include hn hcol

theorem rgb_scanned : rgb s x y = colour (pixelEntry n s.panel.overlay x y) := by
  rw [rgb, hn, hcol]

theorem rgb_overlay {o : BitVec 4} (ho : o = Mem.read 0 s.panel.overlay (800 * y + x)) (h : o ≠ 0) :
    rgb s x y = colour o.toNat := by
  subst ho
  rw [rgb_scanned hn hcol, pixelEntry]
  exact congrArg colour (if_pos h)

theorem rgb_clear (ho : Mem.read 0 s.panel.overlay (800 * y + x) = 0) (h : x < 80 ∨ (n.rows.map (·.height)).sum ≤ y) :
    rgb s x y = colour 0 := by
  rw [rgb_scanned hn hcol, pixelEntry]
  refine congrArg colour ((if_neg (not_not.mpr ho)).trans ?_)
  by_cases hx : x < 80
  · exact if_pos hx
  · rw [if_neg hx, rowAtLine_below (h.resolve_left hx)]

theorem rgb_traced (ho : Mem.read 0 s.panel.overlay (800 * y + x) = 0) {c r : Nat} (hx : x = 80 + c)
    (hr : rowAtLine n.rows y = some r) : rgb s x y = colour (n.tracePixel c y r) := by
  rw [rgb_scanned hn hcol, pixelEntry]
  refine congrArg colour ((if_neg (not_not.mpr ho)).trans ?_)
  rw [if_neg (by omega), hr, hx, Nat.add_sub_cancel_left]

end

theorem tracePixel_line {n : Scan} {c y r e : Nat} (h : lineEntry n.front c = some e) : n.tracePixel c y r = e := by
  rw [Scan.tracePixel, h]

theorem tracePixel_cell {n : Scan} {c y r line : Nat} {row : RowEntry} (h : lineEntry n.front c = none)
    (hr : n.rows[r]? = some row) (hy : y = rowTop n.rows r + line) :
    n.tracePixel c y r = cellEntry (n.cell r c row) row.height line := by
  rw [Scan.tracePixel, h, hr]
  dsimp only
  rw [hy, Nat.add_sub_cancel_left]

theorem scanCell_eq (n : Scan) (r c : Nat) (row : RowEntry) :
    n.cell r c row = ((n.front.cols[c]?).bind (fun cells => cells[r]?)).getD (noDataCell row.kind) := by
  rw [Scan.cell]
  cases n.front.cols[c]? with
  | none => rfl
  | some cells =>
    dsimp only [Option.bind_some]
    rw [List.getD_eq_getElem?_getD]

section
variable {f : FrameBuffer} {c : Nat}

theorem lineEntry_a (h : f.colA = some c) : lineEntry f c = some 13 := if_pos h

theorem lineEntry_b (ha : f.colA ≠ some c) (h : f.colB = some c) : lineEntry f c = some 14 :=
  (if_neg ha).trans (if_pos h)

theorem lineEntry_trig (ha : f.colA ≠ some c) (hb : f.colB ≠ some c) (h : f.colTrig = some c) :
    lineEntry f c = some 15 := (if_neg ha).trans ((if_neg hb).trans (if_pos h))

theorem lineEntry_none (ha : f.colA ≠ some c) (hb : f.colB ≠ some c) (h : f.colTrig ≠ some c) :
    lineEntry f c = none := (if_neg ha).trans ((if_neg hb).trans (if_neg h))

end

/-! ## The drawing of a cell in a row of height 8 or more -/

theorem traceEntry_glitch (cls : TraceClass) (density h : Nat) : traceEntry cls density true h 0 = 8 := rfl

theorem traceEntry_class {cls : TraceClass} {density h y : Nat} {glitch : Bool} (hh : 8 ≤ h)
    (hg : glitch = false ∨ y ≠ 0) : traceEntry cls density glitch h y = match cls with
      | .noData => if y = h / 2 then 1 else 0
      | .low => if y + 2 = h then 2 else 0
      | .high => if y = 1 then 3 else 0
      | .rise => if 1 ≤ y ∧ y + 2 ≤ h then 4 else 0
      | .fall => if 1 ≤ y ∧ y + 2 ≤ h then 4 else 0
      | .busy => if 1 ≤ y ∧ y + 2 ≤ h then (if density ≤ 3 then 5 else if density ≤ 15 then 6 else 7) else 0 := by
  have hcond : ¬ (glitch && y == 0) = true := by
    rw [Bool.and_eq_true, beq_iff_eq]
    rintro ⟨h1, h2⟩
    exact hg.elim (fun h => Bool.false_ne_true (h.symm.trans h1)) fun h => h h2
  unfold traceEntry
  rw [if_neg hcond]
  have hlow : y = h - 2 ↔ y + 2 = h := by omega
  have hband : (1 ≤ y ∧ y ≤ h - 2) ↔ (1 ≤ y ∧ y + 2 ≤ h) := by omega
  cases cls with
  | noData => rfl
  | low => simp only [hlow]
  | high => rfl
  | rise => simp only [hband]
  | fall => simp only [hband]
  | busy => simp only [hband, busyEntry, Nat.lt_succ_iff]

theorem decodeEntry_class {cls : DecodeClass} {error : Bool} {h y : Nat} (hh : 8 ≤ h) :
    decodeEntry cls error false h y = match cls with
      | .noData => if y = h / 2 then 1 else 0
      | .none => 0
      | .good => if 2 ≤ y ∧ y + 3 ≤ h then 9 else 0
      | .error => if 2 ≤ y ∧ y + 3 ≤ h then 10 else 0
      | .multi => if 2 ≤ y ∧ y + 3 ≤ h then (if error && (y == 2 || y + 3 == h) then 10 else 11) else 0 := by
  have hband : (2 ≤ y ∧ y ≤ h - 3) ↔ (2 ≤ y ∧ y + 3 ≤ h) := by omega
  have hedge : (y == h - 3) = (y + 3 == h) := by
    rw [Bool.eq_iff_iff, beq_iff_eq, beq_iff_eq]
    omega
  unfold decodeEntry
  rw [if_neg Bool.false_ne_true]
  cases cls with
  | noData => rfl
  | none => rfl
  | good => simp only [hband]
  | error => simp only [hband]
  | multi => simp only [hband, hedge]

/-! ## The obligation -/

/-- The colours of the trace area on a drawn row. -/
theorem rgb_row {s : State} {n : Scan} {y r c line : Nat} {row : RowEntry} {colour : Nat → BitVec 16}
    (hn : s.panel.scan = some n) (hcol : ∀ k, colour k = s.panel.active.toList.getD k 0)
    (ho : Mem.read 0 s.panel.overlay (800 * y + (80 + c)) = 0) (hr : n.rows[r]? = some row) (hy : y < 480)
    (htop : y = rowTop n.rows r + line) (hline : line < row.height) :
    (n.front.colA = some c → rgb s (80 + c) y = colour 13) ∧
    (n.front.colA ≠ some c → n.front.colB = some c → rgb s (80 + c) y = colour 14) ∧
    (n.front.colA ≠ some c → n.front.colB ≠ some c → n.front.colTrig = some c → rgb s (80 + c) y = colour 15) ∧
    (n.front.colA ≠ some c → n.front.colB ≠ some c → n.front.colTrig ≠ some c →
      rgb s (80 + c) y = colour (cellEntry (n.cell r c row) row.height line)) := by
  have hat : rowAtLine n.rows y = some r := rowAtLine_row hr hy (by omega) (by omega)
  have hpix := rgb_traced hn hcol ho rfl hat
  refine ⟨fun h => ?_, fun ha h => ?_, fun ha hb h => ?_, fun ha hb h => ?_⟩
  · rw [hpix, tracePixel_line (lineEntry_a h)]
  · rw [hpix, tracePixel_line (lineEntry_b ha h)]
  · rw [hpix, tracePixel_line (lineEntry_trig ha hb h)]
  · rw [hpix, tracePixel_cell (lineEntry_none ha hb h) hr htop]

/-- Settles O50: a rectangle's pixels by induction over its lines and over a line's pixels, a colour by the cases of the
pixel's entry. -/
theorem overlayWritesItsRectangle : Obligations.OverlayWritesItsRectangle := by
  unfold Obligations.OverlayWritesItsRectangle
  refine ⟨?_, ?_⟩
  · intro tag xw yw ww hw index pixels x y w h cw ch s hs hwf hx hy hw' hh hcw hch
    subst hx hy hw' hh hcw hch
    refine ⟨fun hlen => ProgramImage.take_refused tag typeOverlay 0 hs (if_pos hlen),
      fun hlen => ⟨_, ProgramImage.take_accepted tag typeOverlay 0 hs (if_neg (not_not.mpr hlen)),
        paintRect_wf _ _ _ _ _ _ hwf,
        fun px py hpx hpy => ?_⟩,
      fun hi => runCommand_refused tag 44 hs (if_pos hi),
      fun hi => ⟨_, runCommand_accepted tag 44 hs (if_neg (Nat.not_lt.mpr hi)), paintRect_wf _ _ _ _ _ _ hwf,
        fun px py hpx hpy => ?_⟩⟩
    · refine (paint_read hwf (rectOf xw yw ww hw) hpx hpy).trans ?_
      rw [packedPixel_eq]
      rfl
    · refine (paint_read hwf (rectOf xw yw ww hw) hpx hpy).trans ?_
      rw [show BitVec.ofNat 4 index.toNat = index.truncate 4 by apply BitVec.eq_of_toNat_eq; simp]
      rfl
  · intro s n x y o colour hn hx hy ho hcol
    refine ⟨rgb_overlay hn hcol ho, fun h0 => rgb_clear hn hcol (ho.symm.trans h0), ?_⟩
    intro r c top line h row cell h0 hxc hr hh htop hyt hline h8 hcell
    subst hh hxc
    obtain ⟨hA, hB, hT, hC⟩ := rgb_row hn hcol (ho.symm.trans h0) hr hy (hyt.trans (congrArg (· + line) htop)) hline
    refine ⟨hA, hB, hT, fun na nb nt => ?_⟩
    have hpix := hC na nb nt
    rw [scanCell_eq, ← hcell] at hpix
    refine ⟨fun hc => ?_, fun cls level density glitch hc => ⟨fun hg hl => ?_, fun hg => ?_⟩,
      fun cls error start hc => ⟨fun hst => ?_, fun hst => ?_⟩⟩
    · rw [hpix, hc]
      rfl
    · rw [hpix, hc, hg, hl]
      rfl
    · rw [hpix, hc]
      exact congrArg colour (traceEntry_class h8 hg)
    · rw [hpix, hc, hst]
      rfl
    · rw [hpix, hc, hst]
      exact congrArg colour (decodeEntry_class h8)

end Sys2Proof.Machine
end

section
/-! Section 10.1: packets as they arrive at the receiver (R196, R197). -/

namespace Sys2Proof.Machine

/-! ## A header word and its payload -/

section
variable {header : Word} {payload : List Word} {n : Nat} {s : State} {u : Uplink}

/-- The state once a header and its payload words have arrived. -/
def arrived (header : Word) (payload : List Word) (s : State) : State :=
  payload.foldl (fun x w => receivePayload w x) (receiveHeader header s)

theorem packetArrival_arrived (hr : s.resetN = true) : exec (.packetArrival header payload) s =
    .next (arrived header payload s) := congrArg Host.Outcome.next (if_pos hr)

/-- The words past a packet's length are stray. -/
theorem arrived_append (first rest : List Word) (h : (arrived header first s).uplink.rx = .idle) :
    arrived header (first ++ rest) s =
      if rest = [] then arrived header first s else badPacket (arrived header first s) := by
  rw [arrived, List.foldl_append]
  exact payload_at_idle rest _ h

section
variable (hn : n = headerLength header) (hu : u = s.uplink.cutShort)

include hn hu

theorem receiveHeader_slot (hroom : u.queue.length < 8) (hpos : 0 < n) :
    receiveHeader header s = setUplink { u with rx := .receiving header [] false } s := by
  subst hn hu
  exact (if_neg (Nat.not_le.mpr hroom)).trans (if_neg (Nat.ne_of_gt hpos))

theorem receiveHeader_empty (hroom : u.queue.length < 8) (hzero : n = 0) :
    receiveHeader header s = setUplink { u with rx := .idle, queue := u.queue ++ [⟨header, [], false⟩] } s := by
  subst hn hu
  exact (if_neg (Nat.not_le.mpr hroom)).trans (if_pos hzero)

theorem receiveHeader_full (hfull : 8 ≤ u.queue.length) : receiveHeader header s =
    badPacket (setUplink { u with rx := if n = 0 then .idle else .dropping n } s) := by
  subst hn hu
  exact if_pos hfull

theorem arrived_whole (hroom : u.queue.length < 8) (hlen : payload.length = n) : arrived header payload s =
    setUplink { u with rx := .idle, queue := u.queue ++ [⟨header, payload, false⟩] } s := by
  rcases Nat.eq_zero_or_pos n with hz | hpos
  · have hnil : payload = [] := List.eq_nil_of_length_eq_zero (hlen.trans hz)
    subst hnil
    exact receiveHeader_empty hn hu hroom hz
  · rw [arrived, receiveHeader_slot hn hu hroom hpos]
    exact (payload_in_reception payload header _ [] rfl (hn ▸ hpos)).2 (by rw [List.length_nil]; omega)

theorem arrived_short (hroom : u.queue.length < 8) (hlen : payload.length < n) : arrived header payload s =
    setUplink { u with rx := .receiving header payload false } s := by
  have hpos : 0 < n := by omega
  rw [arrived, receiveHeader_slot hn hu hroom hpos]
  exact (payload_in_reception payload header _ [] rfl (hn ▸ hpos)).1 (by rw [List.length_nil]; omega)

theorem arrived_long (hroom : u.queue.length < 8) (hlen : n < payload.length) : arrived header payload s =
    badPacket (setUplink { u with rx := .idle, queue := u.queue ++ [⟨header, payload.take n, false⟩] } s) := by
  have hwhole := arrived_whole (payload := payload.take n) hn hu hroom (by rw [List.length_take]; omega)
  have hrest : payload.drop n ≠ [] := fun h => by
    have := List.drop_eq_nil_iff.mp h
    omega
  have happ := arrived_append (header := header) (s := s) (payload.take n) (payload.drop n) (by rw [hwhole]; rfl)
  rw [List.take_append_drop, if_neg hrest, hwhole] at happ
  exact happ

theorem arrived_unslotted_short (hfull : 8 ≤ u.queue.length) (hlen : payload.length < n) :
    arrived header payload s = badPacket (setUplink { u with rx := .dropping (n - payload.length) } s) := by
  rw [arrived, receiveHeader_full hn hu hfull, if_neg (by omega)]
  exact (payload_dropped payload n _ rfl (by omega)).1 hlen

/-- As many payload words as the header counts leave the receiver idle, and any more raise BAD_PACKET again. -/
theorem arrived_unslotted (hfull : 8 ≤ u.queue.length) (hlen : n ≤ payload.length) :
    arrived header payload s = badPacket (setUplink { u with rx := .idle } s) := by
  have hexact : arrived header (payload.take n) s = badPacket (setUplink { u with rx := .idle } s) := by
    rw [arrived, receiveHeader_full hn hu hfull]
    rcases Nat.eq_zero_or_pos n with hz | hpos
    · rw [if_pos hz, hz]
      rfl
    · rw [if_neg (by omega)]
      exact (payload_dropped (payload.take n) n _ rfl hpos).2 (by rw [List.length_take]; omega)
  have happ := arrived_append (header := header) (s := s) (payload.take n) (payload.drop n) (by rw [hexact]; rfl)
  rw [List.take_append_drop, hexact] at happ
  rw [happ]
  split
  · rfl
  · exact raise_raise _ _ _

end
end

/-! ## What the header cuts short -/

theorem cutShort_idle {u : Uplink} (h : u.rx = .idle) : u.cutShort = { u with rx := .idle } := by
  unfold Uplink.cutShort
  rw [h]
  dsimp only
  rw [← h]

theorem setUplink_idle {s : State} (h : s.uplink.rx = .idle) : setUplink { s.uplink with rx := .idle } s = s := by
  rw [← h]
  rfl

theorem cutShort_dropping {u : Uplink} {k : Nat} (h : u.rx = .dropping k) : u.cutShort = { u with rx := .idle } := by
  unfold Uplink.cutShort
  rw [h]

theorem cutShort_receiving {u : Uplink} {h : Word} {words : List Word} (hr : u.rx = .receiving h words false) :
    u.cutShort = { u with rx := .idle, queue := u.queue ++ [⟨h, words, true⟩] } := by
  unfold Uplink.cutShort
  rw [hr]
  rfl

theorem cutShort_doomed {u : Uplink} {h : Word} {words : List Word} (hr : u.rx = .receiving h words true) :
    u.cutShort = { u with rx := .idle } := by
  unfold Uplink.cutShort
  rw [hr]
  rfl

/-! ## A payload word -/

section
variable {w : Word} {s : State} (hs : s.resetN = true)

include hs

theorem strayPayloadWord_received : exec (.strayPayloadWord w) s = .next (receivePayload w s) :=
  congrArg Host.Outcome.next (if_pos hs)

theorem strayPayloadWord_idle (h : s.uplink.rx = .idle) : exec (.strayPayloadWord w) s = .next (badPacket s) := by
  rw [strayPayloadWord_received hs, receivePayload, h]

theorem strayPayloadWord_dropping {k : Nat} (h : s.uplink.rx = .dropping (k + 1)) : exec (.strayPayloadWord w) s =
    .next { s with uplink := { s.uplink with rx := if k = 0 then .idle else .dropping k } } := by
  rw [strayPayloadWord_received hs, receivePayload, h]
  cases k <;> rfl

theorem strayPayloadWord_joins {h : Word} {words : List Word} {doomed : Bool}
    (hr : s.uplink.rx = .receiving h words doomed) (hlt : words.length + 1 < headerLength h) :
    exec (.strayPayloadWord w) s =
      .next { s with uplink := { s.uplink with rx := .receiving h (words ++ [w]) doomed } } := by
  rw [strayPayloadWord_received hs, receivePayload, hr]
  exact congrArg Host.Outcome.next (if_neg (by rw [List.length_append, List.length_singleton]; omega))

theorem strayPayloadWord_completes {h : Word} {words : List Word} {doomed : Bool}
    (hr : s.uplink.rx = .receiving h words doomed) (heq : words.length + 1 = headerLength h) :
    exec (.strayPayloadWord w) s = .next { s with uplink := { s.uplink with
      rx := .idle, queue := if doomed then s.uplink.queue else s.uplink.queue ++ [⟨h, words ++ [w], false⟩] } } := by
  rw [strayPayloadWord_received hs, receivePayload, hr]
  exact congrArg Host.Outcome.next (if_pos (by rw [List.length_append, List.length_singleton]; omega))

end

/-! ## The obligation -/

theorem readyLine_iff (s : State) : readyLine s = true ↔ s.resetN = true ∧ s.uplink.slotsHeld < 8 := by
  simp only [readyLine, Bool.and_eq_true, decide_eq_true_eq, Config.inputQueueMax]

/-- Settles O51: a header cuts short what was in reception and takes or finds no slot, then its payload words run through
the receiver. -/
theorem packetsAreReceivedIntoTheQueue : Obligations.PacketsAreReceivedIntoTheQueue := by
  unfold Obligations.PacketsAreReceivedIntoTheQueue
  intro header w payload n s bad hn hbad
  subst hbad
  refine ⟨fun hr => ⟨?_, ?_⟩, ?_, fun hr => ⟨fun hrx hroom => ⟨fun hlen => ?_, fun hlen => ?_, fun hlen => ?_⟩,
    fun hrx hfull => ⟨fun hlen => ?_, fun hlen => ?_⟩, fun h words hrx => ⟨fun hroom hlen => ?_, fun hfull hlen => ?_⟩,
    fun h words k hroom hlen hrx => ?_, strayPayloadWord_idle hr, fun k => strayPayloadWord_dropping hr,
    fun h words doomed hrx => ⟨strayPayloadWord_joins hr hrx, strayPayloadWord_completes hr hrx⟩⟩⟩
  · exact congrArg Host.Outcome.next (if_neg (by rw [hr]; exact Bool.false_ne_true))
  · exact congrArg Host.Outcome.next (if_neg (by rw [hr]; exact Bool.false_ne_true))
  · rw [readyLine_iff, Uplink.slotsHeld]
    cases s.uplink.rx <;> rfl
  · rw [packetArrival_arrived hr, arrived_whole hn (cutShort_idle hrx).symm hroom hlen]
    simp only [setUplink, hrx]
  · rw [packetArrival_arrived hr, arrived_short hn (cutShort_idle hrx).symm hroom hlen]
    rfl
  · rw [packetArrival_arrived hr, arrived_long hn (cutShort_idle hrx).symm hroom hlen]
    simp only [setUplink, hrx]
    rfl
  · rw [packetArrival_arrived hr, arrived_unslotted hn (cutShort_idle hrx).symm hfull hlen, setUplink_idle hrx]
    rfl
  · rw [packetArrival_arrived hr, arrived_unslotted_short hn (cutShort_idle hrx).symm hfull hlen]
    rfl
  · rw [packetArrival_arrived hr, arrived_whole hn (cutShort_receiving hrx).symm
      (by rw [List.length_append, List.length_singleton]; omega) hlen]
    simp only [setUplink, List.append_assoc, List.singleton_append]
  · rw [packetArrival_arrived hr, arrived_unslotted hn (cutShort_receiving hrx).symm
      (by rw [List.length_append, List.length_singleton]; omega) (by omega)]
    rfl
  · have hcut : s.uplink.cutShort = { s.uplink with rx := .idle } := hrx.elim cutShort_doomed cutShort_dropping
    rw [packetArrival_arrived hr, arrived_whole hn hcut.symm hroom hlen]
    rfl

end Sys2Proof.Machine
end

section
/-! Sections 10.4, 10.5, 11.1, 11.4 and 11.6: the transmitter's grants, their words, and the end of a packet (R201, R203). -/

namespace Sys2Proof.Machine

/-! ## Words of frame records and cells -/

/-- The longest head of a list of frame records that fits. -/
theorem fitFrames_spec (room : Nat) (rs : List FrameRecord) : ∃ n, n ≤ rs.length ∧ fitFrames room rs = rs.take n ∧
    ((rs.take n).map frameWordCount).sum ≤ room ∧
    (n < rs.length → room < ((rs.take (n + 1)).map frameWordCount).sum) := by
  induction rs generalizing room with
  | nil => exact ⟨0, Nat.le_refl _, rfl, Nat.zero_le _, fun h => absurd h (Nat.lt_irrefl _)⟩
  | cons r rs ih =>
    by_cases hfit : frameWordCount r ≤ room
    · obtain ⟨n, hle, heq, hsum, hmore⟩ := ih (room - frameWordCount r)
      refine ⟨n + 1, Nat.succ_le_succ hle, ?_, ?_, fun h => ?_⟩
      · rw [fitFrames, if_pos hfit, heq, List.take_succ_cons]
      · rw [List.take_succ_cons, List.map_cons, List.sum_cons]
        omega
      · have := hmore (Nat.lt_of_succ_lt_succ h)
        rw [List.take_succ_cons, List.map_cons, List.sum_cons]
        omega
    · refine ⟨0, Nat.zero_le _, ?_, Nat.zero_le _, fun _ => ?_⟩
      · rw [fitFrames, if_neg hfit, List.take_zero]
      · simp only [Nat.zero_add, List.take_succ_cons, List.take_zero, List.map_cons, List.map_nil, List.sum_cons,
          List.sum_nil]
        omega

/-- The bytes of a frame record from its head word to its data. -/
theorem frameBytes_eq {r : FrameRecord} {top : Nat} {byte : Nat → Nat → Byte}
    (hbyte : ∀ x k, byte x k = BitVec.ofNat 8 (x / 256 ^ k))
    (htop : top = r.lane.val + r.isReplay.toNat * 8 + r.tag % 16 * 16 + r.code.code * 256 + r.truncated.toNat * 2048 +
      r.fields.length % 32 * 4096 + r.data.length % 128 * 131072 + r.droppedBefore % 256 * 16777216) :
    frameBytes r = (List.range 4).map (byte top) ++ (List.range 6).map (byte r.start) ++
      (List.range 6).map (byte r.endTick) ++ [byte r.units 0, byte r.units 1, 0, 0] ++
      r.fields.flatMap (fun f => byte f.1 0 :: (List.range 4).map (byte f.2.toNat)) ++ r.data := by
  have hmap : ∀ n x, bytesOf n x = (List.range n).map (byte x) := fun n x => by
    rw [bytesOf_eq_map]
    exact List.map_congr_left fun k _ => (hbyte x k).symm
  have hunits : bytesOf 2 r.units ++ [0, 0] = [byte r.units 0, byte r.units 1, 0, 0] := by
    rw [hmap]
    rfl
  have hfields : r.fields.flatMap fieldBytes =
      r.fields.flatMap (fun f => byte f.1 0 :: (List.range 4).map (byte f.2.toNat)) := by
    refine List.flatMap_congr fun f _ => ?_
    rw [fieldBytes, hmap, hbyte, Nat.pow_zero, Nat.div_one]
  subst htop
  unfold frameBytes
  rw [hfields, List.append_assoc (_ ++ _ ++ _) (bytesOf 2 r.units), hunits, hmap, hmap, hmap]
  rfl

theorem cellBits_getD {cells : List Cell} {bits : Nat → Nat}
    (hbits : ∀ k, bits k = match cells[k]? with
      | some (.trace cls level density glitch) => (match cls with
          | .noData => 0
          | .low => 1
          | .high => 2
          | .rise => 3
          | .fall => 4
          | .busy => 5) + level.toNat * 8 + glitch.toNat * 16 + density % 256 * 256
      | some (.decode cls error start) => (match cls with
          | .noData => 0
          | .none => 1
          | .good => 2
          | .error => 3
          | .multi => 4) + error.toNat * 32 + start.toNat * 64
      | _ => 0) (k : Nat) : cellBits (cells.getD k .blank) = bits k := by
  rw [hbits, List.getD_eq_getElem?_getD]
  cases cells[k]? with
  | none => rfl
  | some c =>
    cases c with
    | trace cls level density glitch => cases cls <;> rfl
    | decode cls error start => cases cls <;> rfl
    | blank => rfl

/-! ## Which block's NOTICE is granted next -/

/-- The first element of a list in the order of a key that meets a test is the least that meets it. -/
theorem find?_least {α : Type} {l : List α} {key : α → Nat} {f : α → Bool} (hl : l.Pairwise fun a b => key a < key b)
    {b : α} (hb : b ∈ l) (hf : f b = true) (hmin : ∀ c, f c = true → key b ≤ key c) : l.find? f = some b := by
  induction l with
  | nil => exact absurd hb List.not_mem_nil
  | cons a l ih =>
    obtain ⟨hhead, htail⟩ := List.pairwise_cons.mp hl
    rcases List.mem_cons.mp hb with rfl | hmem
    · exact List.find?_cons_of_pos hf
    · have ha : ¬ f a = true := fun h => absurd (hmin a h) (Nat.not_le.mpr (hhead b hmem))
      rw [List.find?_cons_of_neg ha]
      exact ih htail hmem

theorem blocksAfter_pairwise (p : Fin 7) :
    (blocksAfter p).Pairwise fun b c => (b.val + 6 - p.val) % 7 < (c.val + 6 - p.val) % 7 := by decide +revert

theorem mem_blocksAfter (p b : Fin 7) : b ∈ blocksAfter p := by decide +revert

theorem nextNotice_eq_some {s : State} {b : Fin 7} (hdue : (s.events[b]).due = true)
    (hmin : ∀ c : Fin 7, (s.events[c]).due = true →
      (b.val + 6 - s.uplink.noticePtr.val) % 7 ≤ (c.val + 6 - s.uplink.noticePtr.val) % 7) : nextNotice s = some b :=
  find?_least (blocksAfter_pairwise _) (mem_blocksAfter _ b) hdue hmin

theorem nextNotice_eq_none {s : State} (h : ∀ b : Fin 7, (s.events[b]).due = false) : nextNotice s = none :=
  List.find?_eq_none.mpr fun b _ => by rw [h b]; exact Bool.false_ne_true

/-! ## The sources that are ready -/

theorem framesReady_eq_none {s : State}
    (h : ∀ r, s.rpath.readout = some r → r.packetReady (logAt s r.seg) = false) : framesReady s = none := by
  unfold framesReady
  refine Option.filter_eq_none_iff.mpr fun r hr => ?_
  rw [h r hr]
  exact Bool.false_ne_true

theorem framesReady_eq_some {s : State} {r : FrameReadout} (hr : s.rpath.readout = some r)
    (h : r.packetReady (logAt s r.seg) = true) : framesReady s = some r := by
  unfold framesReady
  rw [hr]
  exact if_pos h

theorem framePacketReady_iff (r : FrameReadout) (log : List FrameRecord) : r.packetReady log = true ↔
    r.finalSent = false ∧ (r.ended = true ∨ ∃ e, log[r.pos]? = some e ∧ r.mask.getLsbD e.lane = true ∧
      r.fromTick ≤ e.start ∧ (fitFrames 1022 (r.held ++ [e])).length ≤ r.held.length) := by
  unfold FrameReadout.packetReady FrameReadout.filled
  cases log[r.pos]? with
  | none => simp
  | some e => simp [entryMatches, and_assoc, Config.framesRoom]

theorem recordsReady_eq_some {s : State} {r : RecordReadout} (hr : s.capture.readout = some r)
    (hfinal : r.finalSent = false) (h : r.remaining = 0 ∨ 255 ≤ r.held.length) : recordsReady s = some r := by
  unfold recordsReady
  rw [hr]
  refine if_pos ?_
  rw [RecordReadout.packetReady, hfinal, Bool.not_false, Bool.true_and, Bool.or_eq_true, decide_eq_true_eq,
    decide_eq_true_eq]
  exact h

theorem recordsReady_eq_none {s : State}
    (h : ∀ r, s.capture.readout = some r → r.finalSent = true ∨ (r.remaining ≠ 0 ∧ r.held.length < 255)) :
    recordsReady s = none := by
  unfold recordsReady
  refine Option.filter_eq_none_iff.mpr fun r hr => ?_
  rw [RecordReadout.packetReady, Bool.and_eq_true, Bool.not_eq_true', Bool.or_eq_true, decide_eq_true_eq,
    decide_eq_true_eq]
  rintro ⟨hfinal, hready⟩
  rcases h r hr with h | ⟨h1, h2⟩
  · exact Bool.false_ne_true (hfinal.symm.trans h)
  · exact hready.elim h1 fun h => Nat.not_le.mpr h2 h

theorem columnsReady_eq_some {s : State} {c : ColumnReadout} (hc : s.view.columns = some c)
    (h : c.finalSent = false) : columnsReady s = some c := by
  unfold columnsReady
  rw [hc]
  exact if_pos (show (!c.finalSent) = true by rw [h]; rfl)

theorem columnsReady_eq_none {s : State} (h : ∀ c, s.view.columns = some c → c.finalSent = true) :
    columnsReady s = none := by
  unfold columnsReady
  refine Option.filter_eq_none_iff.mpr fun c hc => ?_
  rw [h c hc]
  exact Bool.false_ne_true

/-! ## The grant -/

theorem transmitGrant_silent {s : State} (h : s.resetN = false ∨ s.uplink.tx.isSome) :
    exec .transmitGrant s = .next s := by
  refine congrArg Host.Outcome.next (if_neg ?_)
  rcases h with h | h
  · rw [h]
    exact Bool.false_ne_true
  · cases htx : s.uplink.tx with
    | none => rw [htx] at h; exact absurd h Bool.false_ne_true
    | some p => rw [Option.isNone_some, Bool.and_false]; exact Bool.false_ne_true

section
variable {s : State}

theorem transmitGrant_free (hr : s.resetN = true) (htx : s.uplink.tx = none) :
    exec .transmitGrant s = .next (grantPacket s) :=
  congrArg Host.Outcome.next (if_pos (by rw [hr, htx]; rfl))

theorem grantPacket_response {r : Response} (h : s.uplink.slot = some r) :
    grantPacket s = send (packetWords typeResponse r.tag (responsePayload r)) .response s := by
  unfold grantPacket
  rw [h]

section
variable (hslot : s.uplink.slot = none)

include hslot

theorem grantPacket_notice {b : Fin 7} (h : nextNotice s = some b) : grantPacket s = grantNotice b s := by
  unfold grantPacket
  rw [hslot, h]

theorem grantPacket_frames {t : State} (h : nextNotice s = none) (hf : grantAnyFrames s = some t) :
    grantPacket s = t := by
  unfold grantPacket
  rw [hslot, h, hf]

theorem grantPacket_data (h : nextNotice s = none) (hf : grantAnyFrames s = none) : grantPacket s = grantData s := by
  unfold grantPacket
  rw [hslot, h, hf]

end

/-- The stream sends when it holds records and the readout has no packet or not the turn. -/
theorem grantAnyFrames_stream (hne : s.rpath.stream ≠ []) (h : s.rpath.turnReadout = false ∨
    ∀ r, s.rpath.readout = some r → r.packetReady (logAt s r.seg) = false) :
    grantAnyFrames s = some (grantStream s) := by
  have hempty : s.rpath.stream.isEmpty = false := by simpa using hne
  unfold grantAnyFrames
  cases hready : framesReady s with
  | none => exact if_neg (by rw [hempty]; exact Bool.false_ne_true)
  | some r =>
    rcases h with h | h
    · exact congrArg some (if_neg (by rw [hempty, h]; exact Bool.false_ne_true))
    · rw [framesReady_eq_none h] at hready
      exact nomatch hready

theorem grantAnyFrames_readout {r : FrameReadout} (hr : s.rpath.readout = some r)
    (hready : r.packetReady (logAt s r.seg) = true) (h : s.rpath.stream = [] ∨ s.rpath.turnReadout = true) :
    grantAnyFrames s = some (grantFrames r s) := by
  unfold grantAnyFrames
  rw [framesReady_eq_some hr hready]
  refine congrArg some (if_pos ?_)
  rcases h with h | h
  · rw [h]
    rfl
  · rw [h, Bool.or_true]

theorem grantAnyFrames_none (hstream : s.rpath.stream = [])
    (h : ∀ r, s.rpath.readout = some r → r.packetReady (logAt s r.seg) = false) : grantAnyFrames s = none := by
  unfold grantAnyFrames
  rw [framesReady_eq_none h, hstream]
  rfl

theorem grantData_measure {tag : Tag} {r : MeasureResult} (h : s.view.meas = .waiting tag r) :
    grantData s = send (packetWords typeMeasure tag (measureWords r)) .measure s := by
  unfold grantData
  rw [h]

section
variable (hmeas : ∀ tag r, s.view.meas ≠ .waiting tag r)

include hmeas

theorem grantData_records {r : RecordReadout} (h : recordsReady s = some r) : grantData s = grantRecords r s := by
  unfold grantData
  rw [h]
  cases hm : s.view.meas with
  | waiting tag m => exact absurd hm (hmeas tag m)
  | none => rfl
  | running m => rfl

theorem grantData_columns {c : ColumnReadout} (h : recordsReady s = none) (hc : columnsReady s = some c) :
    grantData s = grantColumns c s := by
  unfold grantData
  rw [h, hc]
  cases hm : s.view.meas with
  | waiting tag m => exact absurd hm (hmeas tag m)
  | none => rfl
  | running m => rfl

theorem grantData_none (h : recordsReady s = none) (hc : columnsReady s = none) : grantData s = s := by
  unfold grantData
  rw [h, hc]
  cases hm : s.view.meas with
  | waiting tag m => exact absurd hm (hmeas tag m)
  | none => rfl
  | running m => rfl

end
end

/-! ## The words of each packet -/

theorem grantStream_eq (s : State) {n : Nat} (hfit : fitFrames 1022 s.rpath.stream = s.rpath.stream.take n)
    (hn : n ≤ s.rpath.stream.length) : grantStream s =
      send (packetWords 11 0 (word (n % 256 * 65536) :: (s.rpath.stream.take n).flatMap frameWords)) .stream
        { s with rpath := { s.rpath with stream := s.rpath.stream.drop n, turnReadout := true } } := by
  unfold grantStream
  dsimp only [Config.framesRoom]
  rw [hfit, List.length_take_of_le hn, framesPayload, List.length_take_of_le hn]
  simp only [Bool.toNat_false, Nat.zero_mod, Nat.zero_mul, Nat.zero_add, Nat.add_zero]
  rfl

theorem grantFrames_eq (r : FrameReadout) (s : State) {n : Nat} (hfit : fitFrames 1022 r.held = r.held.take n)
    (hn : n ≤ r.held.length) : grantFrames r s =
      send (packetWords 11 r.tag (word (1 + r.seg % 256 * 256 + n % 256 * 65536 + r.ended.toNat * 2147483648) ::
          (r.held.take n).flatMap frameWords)) (.frames r.ended)
        { s with rpath := { s.rpath with
          turnReadout := false
          readout := some { r with held := r.held.drop n, sent := r.sent + n, finalSent := r.ended } } } := by
  unfold grantFrames
  dsimp only [Config.framesRoom]
  rw [hfit, List.length_take_of_le hn, framesPayload, List.length_take_of_le hn]
  rfl

/-- The payload of a column readout's next packet, from the row of the front buffer. -/
theorem columnPayload_eq {c : ColumnReadout} {f : FrameBuffer} {kind : RowKind} {cells : List Cell}
    (hnone : c.left = 0 ∨ f.rows[c.next]? = none → kind = .blank)
    (hrow : ∀ e, c.left ≠ 0 → f.rows[c.next]? = some e → kind = e.kind)
    (hcells : cells = if kind = .blank then [] else f.cols.map fun x => x.getD c.next .blank) :
    c.payload f = columnsPayload c.next kind (decide (c.left ≤ 1)) f.passNo cells := by
  unfold ColumnReadout.payload
  by_cases hleft : c.left = 0
  · rw [if_pos hleft, hcells, hnone (.inl hleft), if_pos rfl, hleft]
    rfl
  · have hlast : decide (c.left = 1) = decide (c.left ≤ 1) := by
      rw [decide_eq_decide]
      omega
    rw [if_neg hleft, columnsPacket, hlast]
    cases hr : f.rows[c.next]? with
    | none =>
      rw [hcells, hnone (.inr hr)]
      rfl
    | some e =>
      rw [hcells, hrow e hleft hr]
      dsimp only
      cases e.kind with
      | channel k =>
        rw [if_neg nofun]
        rfl
      | lane l =>
        rw [if_neg nofun]
        rfl
      | blank => exact (congrArg (columnsPayload c.next .blank (decide (c.left ≤ 1)) f.passNo) (if_pos rfl)).symm

/-! ## The end of a packet -/

theorem upstreamPacketSent_frees {s : State} {ws : List Word} {src : TxSource} (h : s.uplink.tx = some ⟨ws, src⟩) :
    exec .upstreamPacketSent s = .next (sent src (setUplink { s.uplink with tx := none } s)) := by
  have hexec : exec .upstreamPacketSent s = execUpstreamPacketSent s := rfl
  rw [hexec, execUpstreamPacketSent, h]

theorem upstreamPacketSent_idle {s : State} (h : s.uplink.tx = none) : exec .upstreamPacketSent s = .next s := by
  have hexec : exec .upstreamPacketSent s = execUpstreamPacketSent s := rfl
  rw [hexec, execUpstreamPacketSent, h]

/-- The source of a packet that is not its last stays as it was. -/
theorem sent_keeps {src : TxSource} (h : src = .notice ∨ src = .stream ∨ src = .frames false ∨ src = .records false ∨
    src = .columns false) (s : State) : sent src s = s := by
  rcases h with rfl | rfl | rfl | rfl | rfl <;> rfl

theorem sent_response {s : State} (h : s.uplink.resetPending = false) :
    sent .response s = setUplink { s.uplink with slot := none } s :=
  if_neg (by rw [show (setUplink { s.uplink with slot := none } s).uplink.resetPending = false from h]
             exact Bool.false_ne_true)

/-! ## The obligation -/

/-- Settles O53: the ready sources in their order, each with the words of its packet; then the end of a packet by its
source. -/
theorem transmitterGrantsInOrder : Obligations.TransmitterGrantsInOrder := by
  unfold Obligations.TransmitterGrantsInOrder
  intro s head hhead
  have hwords : ∀ type tag ws, head type tag ws = packetWords type tag ws :=
    fun type tag ws => (hhead type tag ws).trans rfl
  refine ⟨transmitGrant_silent, fun hr htx sends hsends => ?_, fun r => rfl, fun r top byte bytes hbyte htop hbytes => ?_,
    fun cells bits hbits => ⟨packCells_length cells, fun j hj => ?_⟩, rfl, rfl, rfl, upstreamPacketSent_idle,
    fun ws t ht => ?_⟩
  · -- a grant: what it sends is what `grantPacket` sends
    have hgrant : ∀ {type : Nat} {tag : Tag} {ws : List Word} {source : TxSource} {t : State},
        grantPacket s = send (packetWords type tag ws) source t → sends (head type tag ws) source t := by
      intro type tag ws source t h
      rw [hsends, transmitGrant_free hr htx, h, hwords]
      rfl
    refine ⟨fun r hslot => hgrant (grantPacket_response hslot), fun hslot => ⟨fun b hdue hmin => ?_, fun hquiet => ?_⟩⟩
    · exact hgrant (t := { s with
        events := s.events.set b { s.events[b] with due := false }
        uplink := { s.uplink with noticePtr := b } }) (grantPacket_notice hslot (nextNotice_eq_some hdue hmin))
    have hnotice := nextNotice_eq_none hquiet
    refine ⟨fun r => framePacketReady_iff r _, fun hne hturn => ?_, fun r hread hready hturn => ?_,
      fun hstream hnoframes => ?_⟩
    · obtain ⟨n, hle, hfit, hsum, hmore⟩ := fitFrames_spec 1022 s.rpath.stream
      exact ⟨n, hle, hsum, hmore, hgrant ((grantPacket_frames hslot hnotice (grantAnyFrames_stream hne hturn)).trans
        (grantStream_eq s hfit hle))⟩
    · obtain ⟨n, hle, hfit, hsum, hmore⟩ := fitFrames_spec 1022 r.held
      exact ⟨n, hle, hsum, hmore, hgrant ((grantPacket_frames hslot hnotice
        (grantAnyFrames_readout hread hready hturn)).trans (grantFrames_eq r s hfit hle))⟩
    have hdata := grantPacket_data hslot hnotice (grantAnyFrames_none hstream hnoframes)
    refine ⟨fun tag r hmeas => ?_, fun hmeas => ⟨fun r hread hfinal hready => ?_, fun hnorecords =>
      ⟨fun c kind cells hc hfinal hnone hrow hcells => ?_, fun hnocolumns => ?_⟩⟩⟩
    · exact hgrant (hdata.trans (grantData_measure hmeas))
    · exact hgrant (hdata.trans (grantData_records hmeas (recordsReady_eq_some hread hfinal hready)))
    · refine hgrant ((hdata.trans (grantData_columns hmeas (recordsReady_eq_none hnorecords)
        (columnsReady_eq_some hc hfinal))).trans ?_)
      unfold grantColumns
      dsimp only
      rw [columnPayload_eq hnone hrow hcells]
      rfl
    · rw [transmitGrant_free hr htx, hdata,
        grantData_none hmeas (recordsReady_eq_none hnorecords) (columnsReady_eq_none hnocolumns)]
  · have hframe : frameBytes r = bytes := (frameBytes_eq hbyte htop).trans hbytes.symm
    refine ⟨?_, frameWords_length r, fun j k hj hk => ?_⟩
    · rw [← hframe, frameBytes_length]
      rfl
    · rw [← hframe]
      exact packBytes_byte (frameBytes r) j k (by rw [← frameWords, frameWords_length]; exact hj) hk
  · rw [packCells_word cells j hj, cellBits_getD hbits, cellBits_getD hbits]
    rfl
  · subst ht
    refine ⟨fun h hpending => ?_, fun src hsrc h => ?_, fun h => ?_, fun h => ?_, fun h => ?_, fun h => ?_⟩
    · rw [upstreamPacketSent_frees h, sent_response (s := setUplink { s.uplink with tx := none } s) hpending]
      rfl
    · rw [upstreamPacketSent_frees h, sent_keeps hsrc]
      rfl
    all_goals exact upstreamPacketSent_frees h

end Sys2Proof.Machine
end

section
/-! Sections 10.7 and 10.8: SOFT_RESET, power-on reset and RESET_N (R209, R210). -/

namespace Sys2Proof.Machine

theorem canDispatch_false {s : State}
    (h : s.uplink.resetPending = true ∨ s.uplink.slot.isSome ∨ s.resetN = false) : canDispatch s = false := by
  unfold canDispatch
  rcases h with h | h | h
  · rw [h, Bool.not_true, Bool.and_false]
  · obtain ⟨r, hr⟩ := Option.isSome_iff_exists.mp h
    rw [hr, Option.isNone_some, Bool.and_false, Bool.false_and]
  · rw [h, Bool.false_and, Bool.false_and]

theorem packetDispatch_held {s : State} (h : canDispatch s = false) : exec .packetDispatch s = .next s := by
  have hexec : exec .packetDispatch s = execPacketDispatch s := rfl
  rw [hexec, execPacketDispatch]
  cases s.uplink.queue with
  | nil => rfl
  | cons p rest => exact congrArg Host.Outcome.next (if_neg (by rw [h]; exact Bool.false_ne_true))

theorem packetCommand_held {i : Instr} {p : Packet} {s : State} (h : canDispatch s = false)
    (hp : encodePacket i = some p) : exec i s = .next s := by
  rw [exec_command i s (by rw [hp]; rfl), if_neg (by rw [h]; exact Bool.false_ne_true)]

/-! ## SOFT_RESET -/

/-- A vector of four that agrees with four given elements. -/
theorem links_eq {links : Vector PodLink 4} {f : Pod → PodLink} (h : ∀ p : Pod, links[p] = f p) :
    links = #v[f 0, f 1, f 2, f 3] := by
  apply Vector.ext
  intro i hi
  have hp : links[i] = f ⟨i, hi⟩ := h ⟨i, hi⟩
  rw [hp]
  match i, hi with
  | 0, _ => rfl
  | 1, _ => rfl
  | 2, _ => rfl
  | 3, _ => rfl

theorem soften_eq {rx rx' : Receiver}
    (hrec : ∀ (h : Word) (words : List Word) (d : Bool), rx = .receiving h words d → rx' = .receiving h words true)
    (hother : (∀ (h : Word) (words : List Word) (d : Bool), rx ≠ .receiving h words d) → rx' = rx) : rx' = rx.soften := by
  cases rx with
  | idle => exact hother nofun
  | receiving h words d => exact hrec h words d rfl
  | dropping n => exact hother nofun

theorem sent_softReset {s : State} (h : s.uplink.resetPending = true) :
    sent .response s = softReset (setUplink { s.uplink with slot := none } s) := if_pos h

theorem attn_quiet {s : State} (h : s.events = Vector.replicate 7 ⟨0, 0, false⟩) : attn s = false := by
  rw [Bool.eq_false_iff, Ne, attn_iff]
  rintro ⟨-, b, k, hk, -⟩
  rw [h, Fin.getElem_fin, Vector.getElem_replicate] at hk
  simp at hk

theorem attn_in_reset {s : State} (h : s.resetN = false) : attn s = false := by
  rw [Bool.eq_false_iff, Ne, attn_iff, h]
  rintro ⟨hr, -⟩
  exact Bool.false_ne_true hr

/-! ## Power-on reset -/

theorem powerOn_eq (k : PodLink) : k.powerOn = if k.sensed
    then { PodLink.reset with sensed := true, state := .training, sending := .trainRequest } else PodLink.reset := rfl

/-- Settles O54: what is held back while the Uplink may not dispatch, then each reset's state part by part. -/
theorem resetsLeaveTheirValues : Obligations.ResetsLeaveTheirValues := by
  unfold Obligations.ResetsLeaveTheirValues
  intro tag s
  refine ⟨fun hs => runCommand_accepted tag 51 hs rfl, fun h => ?_, fun ws htx hpending links rx active hlinks hrec hother
    hactive t ht => ?_, ⟨_, rfl, fun p => ?_⟩, fun t ht => ?_⟩
  · have hheld := canDispatch_false h
    exact ⟨packetDispatch_held hheld, fun i p => packetCommand_held hheld⟩
  · have hl := links_eq hlinks
    have hrx := soften_eq hrec hother
    subst hl hrx hactive ht
    refine ⟨?_, attn_quiet rfl⟩
    rw [upstreamPacketSent_frees htx, sent_softReset (s := setUplink { s.uplink with tx := none } s) hpending]
    rfl
  · rw [← powerOn_eq]
    match p with
    | 0 => rfl
    | 1 => rfl
    | 2 => rfl
    | 3 => rfl
  · subst ht
    exact ⟨rfl, attn_in_reset rfl, rfl⟩

end Sys2Proof.Machine
end

section
/-! Sections 2.5, 3.9, 3.10, 4.8, 5.8, 6.10, 7.6, 8.8, 9.8, 10.5 and 10.6: the words of the status commands (R212). -/

namespace Sys2Proof.Machine

/-! ## The obligation's words are the model's -/

theorem flagWord_unique {flag : Bool → Word} (h : ∀ b, flag b = if b then 1 else 0) : flag = flagWord := funext h

theorem timeWords_unique {time : Nat → List Word}
    (h : ∀ n, time n = [BitVec.ofNat 32 n, BitVec.ofNat 32 (n % 2 ^ 48 / 2 ^ 32)]) : time = timeWords := funext h

theorem optWord_unique {opt : Option Nat → List Word} (h0 : opt none = [0, 0])
    (h1 : ∀ n, opt (some n) = [1, BitVec.ofNat 32 n]) : opt = fun o => optWord (o.map word) := by
  funext o
  cases o with
  | none => exact h0
  | some n => exact h1 n

theorem optTimeWords_unique {optTime : Option Nat → List Word} (h0 : optTime none = [0, 0, 0])
    (h1 : ∀ n, optTime (some n) = 1 :: timeWords n) : optTime = optTimeWords := by
  funext o
  cases o with
  | none => exact h0
  | some n => exact h1 n

/-! ## The first word of a descriptor -/

theorem word_bit {n k : Nat} (b : Bool) (hk : k < 32) (h : n / 2 ^ k % 2 = b.toNat) : (word n).getLsbD k = b := by
  rw [word, BitVec.getLsbD_ofNat, decide_eq_true hk, Bool.true_and, Nat.testBit_eq_decide_div_mod_eq, h]
  cases b <;> rfl

/-- The number of a descriptor's first word, with its flags in the order of their bits. -/
def descriptorHead (i code : Nat) (stopped wrapped overrun podFault timeLimit logOverflow trimmed state ends oldest newest
    trigger index : Bool) : Nat :=
  i % 256 + code * 2 ^ 8 + stopped.toNat * 2 ^ 11 + wrapped.toNat * 2 ^ 16 + overrun.toNat * 2 ^ 17
    + podFault.toNat * 2 ^ 18 + timeLimit.toNat * 2 ^ 19 + logOverflow.toNat * 2 ^ 20 + trimmed.toNat * 2 ^ 21
    + state.toNat * 2 ^ 24 + ends.toNat * 2 ^ 25 + oldest.toNat * 2 ^ 26 + newest.toNat * 2 ^ 27
    + trigger.toNat * 2 ^ 28 + index.toNat * 2 ^ 29

theorem descriptorHead_fields {i code : Nat} (hi : i < 256) (hc : code < 8) (b11 b16 b17 b18 b19 b20 b21 b24 b25 b26 b27
    b28 b29 : Bool) {n : Nat} (hn : n = descriptorHead i code b11 b16 b17 b18 b19 b20 b21 b24 b25 b26 b27 b28 b29) :
    field (word n) 0 8 = i ∧ field (word n) 8 3 = code ∧
    ∀ k b, (k, b) ∈ [(11, b11), (16, b16), (17, b17), (18, b18), (19, b19), (20, b20), (21, b21), (24, b24), (25, b25),
      (26, b26), (27, b27), (28, b28), (29, b29)] → (word n).getLsbD k = b := by
  have hle : ∀ b : Bool, b.toNat ≤ 1 := Bool.toNat_le
  have h11 := hle b11; have h16 := hle b16; have h17 := hle b17; have h18 := hle b18; have h19 := hle b19
  have h20 := hle b20; have h21 := hle b21; have h24 := hle b24; have h25 := hle b25; have h26 := hle b26
  have h27 := hle b27; have h28 := hle b28; have h29 := hle b29
  unfold descriptorHead at hn
  refine ⟨?_, ?_, ?_⟩
  · rw [field_word _ _ _ (by omega)]
    omega
  · rw [field_word _ _ _ (by omega)]
    omega
  · simp only [List.mem_cons, List.not_mem_nil, or_false, Prod.mk.injEq]
    rintro k b (⟨rfl, rfl⟩ | ⟨rfl, rfl⟩ | ⟨rfl, rfl⟩ | ⟨rfl, rfl⟩ | ⟨rfl, rfl⟩ | ⟨rfl, rfl⟩ | ⟨rfl, rfl⟩ | ⟨rfl, rfl⟩ |
      ⟨rfl, rfl⟩ | ⟨rfl, rfl⟩ | ⟨rfl, rfl⟩ | ⟨rfl, rfl⟩ | ⟨rfl, rfl⟩)
    all_goals exact word_bit _ (by omega) (by omega)

/-- The first word of the model's descriptor. -/
theorem descriptorWords_head (i : Nat) (d : Segment) (n : Nat) : (descriptorWords i d n).head? = some (word
    (descriptorHead i d.state.code d.closeStopped d.flags.wrapped d.flags.overrun d.flags.podFault d.flags.timeLimit
      d.flags.logOverflow d.flags.triggerTrimmed (decide (d.mode = .state)) d.endTime.isSome d.oldest.isSome
      d.newest.isSome d.trigger.isSome d.trigIndex.isSome)) := by
  have hmode : d.mode.code.toNat = (decide (d.mode = .state)).toNat := by cases d.mode <;> rfl
  unfold descriptorWords descriptorHead
  rw [← hmode]
  rfl

/-- A descriptor's words after the first. -/
theorem descriptorWords_eq (i : Nat) (d : Segment) (n : Nat) {two : Option Nat → List Word}
    (htwo : ∀ o, two o = timeWords (o.getD 0)) {trig : List Word}
    (htrig : trig = match d.trigger with
      | none => [0, 0, 0, 0, 0, 0, 0, 0]
      | some f => timeWords f.time ++ [f.cause.code, f.wall] ++ f.counters.toList) :
    ∃ w0 : Word, descriptorWords i d n = [w0, word d.size, word d.retained] ++ timeWords d.startTime ++ two d.endTime ++
      two d.oldest ++ two d.newest ++ trig ++ [word (d.trigIndex.getD 0), d.wallStart] ++ timeWords d.produced ++
      timeWords d.written ++ timeWords d.lost ++ [word d.postCount, d.mask, word d.divider, word n] ∧
      w0 = word (descriptorHead i d.state.code d.closeStopped d.flags.wrapped d.flags.overrun d.flags.podFault
        d.flags.timeLimit d.flags.logOverflow d.flags.triggerTrimmed (decide (d.mode = .state)) d.endTime.isSome
        d.oldest.isSome d.newest.isSome d.trigger.isSome d.trigIndex.isSome) := by
  have htwo' : two = optTwo := funext fun o => (htwo o).trans (by cases o <;> rfl)
  have hhead := descriptorWords_head i d n
  subst htrig htwo'
  unfold descriptorWords at hhead ⊢
  exact ⟨_, rfl, Option.some.inj hhead⟩

/-! ## The other words that are given item by item -/

theorem code_lt (c : SegState) : c.code < 8 := by cases c <;> decide

theorem slotWords_eq (x : Slot) : x.words = match x.table with
    | none => [0, 0, 0, 0, 0, 0, 0]
    | some t => [1, t.front.code, t.channelMask, t.check.kind.code, word x.charge.entries, word x.charge.branches,
        word x.charge.checks] := by
  rw [Slot.words]
  cases x.table <;> rfl

theorem comparatorWords_eq (c : Option Comparator) (latch : Option Nat) : comparatorWords c latch =
    [flagWord c.isSome, (c.map (fun c => word c.lane.val)).getD 0] ++ optTimeWords latch := by
  cases c <;> rfl

theorem laneWords_eq (ln : Lane) : ln.words = [ln.state.code, flagWord ln.isReplay, flagWord ln.resync, word ln.errors] ++
    openFrameWords ln ++ [word ln.pos.entry] ++ optWord (ln.pos.left.map word) ++ replayWords ln.replay := by
  simp only [Lane.words, positionWords, List.append_assoc, List.cons_append, List.nil_append]

theorem rowWord_eq (r : RowEntry) : rowWord r = word (r.height * 65536 + match r.kind with
    | .channel k => k * 256
    | .lane l => l * 256 + 1
    | .blank => 2) := by
  rw [rowWord]
  cases r.kind with
  | channel k => exact congrArg word (Nat.add_comm _ _)
  | lane l => exact congrArg word (show 1 + l * 2 ^ 8 + r.height * 2 ^ 16 = r.height * 65536 + (l * 256 + 1) by omega)
  | blank => exact congrArg word (Nat.add_comm _ _)

theorem cmdCaptureStatus_eq (s : State) : cmdCaptureStatus s = accept ([s.capture.ctl.code] ++
      (match s.capture.ctl with
        | .capturing k => [1, word k]
        | .idle => [0, 0]
        | .monitor => [0, 0]
        | .closing => [0, 0]) ++
      [word s.capture.layout, s.capture.stored.mask, word s.capture.stored.count, word s.capture.stored.prefill,
        word s.capture.stored.postfill, flagWord s.capture.stored.hold, flagWord s.capture.stored.auto,
        word s.capture.queue.length,
        (match s.capture.ctl with
          | .capturing k => flagWord (decide (s.capture.inForce.prefill ≤ (segAt s k).written))
          | .idle => 0
          | .monitor => 0
          | .closing => 0)] ++
      (match s.capture.readout with
        | none => [0, 0, 0, 0]
        | some r => [1, word r.seg, word r.next, word r.remaining]) ++ [word s.capture.rotation.code]) s := by
  unfold cmdCaptureStatus prefillSatisfied currentSeg recordReadoutWords
  dsimp only
  cases s.capture.ctl <;> rfl

theorem events_toList (v : Vector EventSet 7) : v.toList = [v[0], v[1], v[2], v[3], v[4], v[5], v[6]] := by
  apply List.ext_getElem (by simp)
  intro i h1 h2
  match i, h2 with
  | 0, _ => simp
  | 1, _ => simp
  | 2, _ => simp
  | 3, _ => simp
  | 4, _ => simp
  | 5, _ => simp
  | 6, _ => simp

theorem links_toList (v : Vector PodLink 4) : v.toList = [v[0], v[1], v[2], v[3]] := by
  apply List.ext_getElem (by simp)
  intro i h1 h2
  match i, h2 with
  | 0, _ => simp
  | 1, _ => simp
  | 2, _ => simp
  | 3, _ => simp

/-! ## The obligation -/

theorem cmdLaneStatus_of {w : Word} {l : LaneId} (h : w.toNat = l.val) (s : State) :
    cmdLaneStatus w s = accept (s.lanes[l]).words s := by
  unfold cmdLaneStatus
  rw [laneOf_eq_some h]

theorem cmdReadSegment_of {w : Word} {s : State} (h : w.toNat < s.capture.layout) :
    cmdReadSegment w s = accept (descriptorWords w.toNat (segAt s w.toNat) (logAt s w.toNat).length) s := by
  unfold cmdReadSegment
  rw [segIndexOf_some h]

/-- Settles O55: each command answers with the model's words, which are the ones listed. -/
theorem statusCommandsReport : Obligations.StatusCommandsReport := by
  unfold Obligations.StatusCommandsReport
  intro tag i s flag time opt optTime hs hflag htime hopt0 hopt1 hotime0 hotime1
  have htimeWords := timeWords_unique htime
  subst htimeWords
  have hflagWord := flagWord_unique hflag
  have hopt := optWord_unique hopt0 hopt1
  have hoptTime := optTimeWords_unique hotime0 hotime1
  subst hflagWord hopt hoptTime
  refine ⟨?_, runCommand_accepted tag 7 hs rfl, ?_, ?_, ?_, fun shown hshown => ?_, ?_, ?_, ?_, fun h => ?_,
    fun d two hi hd htwo => ?_, fun h => ?_, fun l ln hl hln => ?_⟩
  · exact runCommand_accepted tag 17 hs (cmdCaptureStatus_eq s)
  · refine runCommand_accepted tag 23 hs ?_
    unfold cmdTriggerStatus
    dsimp only
    simp only [comparatorWords_eq, List.flatMap_cons, List.flatMap_nil, List.append_nil, List.append_assoc]
    rfl
  · refine runCommand_accepted tag 25 hs (congrArg (accept · s) (congrArg₂ (· ++ ·) rfl ?_))
    exact List.flatMap_congr fun x _ => slotWords_eq x
  · refine runCommand_accepted tag 32 hs (congrArg (accept · s) (congrArg₂ (· ++ ·) rfl ?_))
    cases s.rpath.readout <;> rfl
  · have hshown' : shown = Snapshot.words := funext hshown
    subst hshown'
    refine runCommand_accepted tag 40 hs ?_
    unfold cmdViewStatus optSnapshotWords
    dsimp only
    rw [Option.map_map]
    cases s.view.front.snap <;> rfl
  · refine runCommand_accepted tag 46 hs ?_
    unfold cmdPanelStatus
    dsimp only
    rw [show rowWord = _ from funext rowWord_eq] <;> rfl
  · refine runCommand_accepted tag 49 hs (congrArg (accept · s) (congrArg₂ (· ++ ·) ?_ rfl))
    rw [events_toList]
    rfl
  · refine runCommand_accepted tag 50 hs ?_
    unfold cmdIdentify
    rw [links_toList]
    rfl
  · refine runCommand_refused tag 15 hs ?_
    unfold cmdReadSegment
    rw [segIndexOf_none h]
  · subst hd
    obtain ⟨w0, hwords, hw0⟩ := descriptorWords_eq i.toNat (segAt s i.toNat) (logAt s i.toNat).length htwo rfl
    exact ⟨w0, runCommand_accepted tag 15 hs ((cmdReadSegment_of hi).trans (congrArg (accept · s) hwords)),
      fun h256 => hw0 ▸ descriptorHead_fields h256 (code_lt _) _ _ _ _ _ _ _ _ _ _ _ _ _ rfl⟩
  · refine runCommand_refused tag 29 hs ?_
    unfold cmdLaneStatus
    rw [laneOf_eq_none h]
  · subst hln
    refine runCommand_accepted tag 29 hs ((cmdLaneStatus_of hl s).trans (congrArg (accept · s) ?_))
    refine (laneWords_eq _).trans ?_
    unfold openFrameWords replayWords
    cases (s.lanes[l]).frame <;> cases (s.lanes[l]).replay <;> rfl

end Sys2Proof.Machine
end

section
/-! Section 10.2: the packets of commands, how the Uplink judges them, and their dispatch (R198, R199). -/

namespace Sys2Proof.Machine

/-! ## Dispatch -/

section
variable {p : Packet} {rest : List Packet} {s : State}

theorem packetDispatch_acts (hs : canDispatch s = true) (hq : s.uplink.queue = p :: rest) :
    exec .packetDispatch s = .next (actOn p (judgePacket p) (setUplink { s.uplink with queue := rest } s)) := by
  have hexec : exec .packetDispatch s = execPacketDispatch s := rfl
  rw [hexec, execPacketDispatch, hq]
  exact congrArg Host.Outcome.next (if_pos hs)

theorem packetDispatch_discards {rc : RespCode} {type : BitVec 4} (hs : canDispatch s = true)
    (hq : s.uplink.queue = p :: rest) (htype : type = headerType p.header) (hj : judgePacket p = .discard rc) :
    exec .packetDispatch s = .next { s with
      uplink := { s.uplink with queue := rest, slot := some ⟨headerTag p.header, type, p.code, rc, []⟩ }
      events := s.events.set blkLink ((s.events[blkLink]).raise evBadPacket) } := by
  rw [packetDispatch_acts hs hq, hj, htype]
  rfl

theorem packetDispatch_empty (h : s.uplink.queue = []) : exec .packetDispatch s = .next s := by
  have hexec : exec .packetDispatch s = execPacketDispatch s := rfl
  rw [hexec, execPacketDispatch, h]

end

/-! ## The packet of a command -/

theorem takeCommand_queue (i : Instr) (s : State) : (takeCommand i s).uplink.queue = s.uplink.queue := by
  cases i <;> simp [takeCommand, take, placeResponse, cmdSoftReset, accept, setUplink]

/-- A packet carries a command: it is judged to be that command, whose RESPONSE has the packet's tag, type and code. -/
structure Carries (p : Packet) (i : Instr) : Prop where
  judged : judgePacket p = .command i
  answers : ∀ s, ∃ r : Response, (takeCommand i s).uplink.slot = some r ∧ r.tag = headerTag p.header ∧
    r.ptype = headerType p.header ∧ r.code = p.code

/-- A packet of at most 1,023 payload words reads back its tag and type. -/
theorem packetOf_header {ptype : Nat} (tag : Tag) {payload : List Word} (ht : ptype < 16) (hlen : payload.length ≤ 1023) :
    headerTag (packetOf ptype tag payload).header = tag ∧
      headerType (packetOf ptype tag payload).header = BitVec.ofNat 4 ptype :=
  ⟨headerTag_headerWord ptype tag payload.length ht, headerType_headerWord ptype tag payload.length ht (by omega)⟩

section
variable {i : Instr} {tag : Tag} {f : Command}

theorem command_carries {code : Nat} {args : List Word} (hlen : args.length ≤ 1022) (hcode : code < 256)
    (hj : judgeCommand tag code args = .command i)
    (ht : ∀ s, takeCommand i s = take tag typeCommand (BitVec.ofNat 8 code) f s) :
    Carries (commandPacket tag code args) i := by
  have hl : (word code :: args).length ≤ 1023 := Nat.succ_le_succ hlen
  obtain ⟨htag, htype⟩ := packetOf_header (ptype := 1) tag (by decide) hl
  have hfield : field (word code) 0 8 = code := field_code code hcode
  refine ⟨?_, fun s => ⟨_, congrArg (·.uplink.slot) (ht s), htag.symm, htype.symm, ?_⟩⟩
  · unfold judgePacket commandPacket
    rw [htag, htype]
    exact (congrArg (judgeCommand tag · args) hfield).trans hj
  · unfold Packet.code commandPacket
    rw [htype]
    exact (congrArg (BitVec.ofNat 8) hfield).symm

theorem table_carries {kind : Word} {ws : List Word} (hlen : ws.length ≤ 1022)
    (hj : judgeTable tag (kind :: ws) = .command i)
    (ht : ∀ s, takeCommand i s = take tag typeTable (BitVec.ofNat 8 (field kind 0 8)) f s) :
    Carries (packetOf 2 tag (kind :: ws)) i := by
  have hl : (kind :: ws).length ≤ 1023 := Nat.succ_le_succ hlen
  obtain ⟨htag, htype⟩ := packetOf_header (ptype := 2) tag (by decide) hl
  refine ⟨?_, fun s => ⟨_, congrArg (·.uplink.slot) (ht s), htag.symm, htype.symm, ?_⟩⟩
  · unfold judgePacket
    rw [htag, htype]
    exact hj
  · unfold Packet.code
    rw [htype]
    rfl

theorem overlay_carries {payload : List Word} (hlen : payload.length ≤ 1023)
    (hj : judgeOverlay tag payload = .command i) (ht : ∀ s, takeCommand i s = take tag typeOverlay 0 f s) :
    Carries (packetOf 3 tag payload) i := by
  obtain ⟨htag, htype⟩ := packetOf_header (ptype := 3) tag (by decide) hlen
  refine ⟨?_, fun s => ⟨_, congrArg (·.uplink.slot) (ht s), htag.symm, htype.symm, ?_⟩⟩
  · unfold judgePacket
    rw [htag, htype]
    exact hj
  · unfold Packet.code
    rw [htype]
    cases payload <;> rfl

end

theorem counted_length {n : Word} {values : List Word} {i : Instr} (h : n = word values.length)
    (hlen : values.length ≤ 1023) : counted n values i = .command i := by
  subst h
  refine if_pos ?_
  rw [word, BitVec.toNat_ofNat, Nat.mod_eq_of_lt (by omega)]

/-- The packet of every well-formed command carries it. -/
theorem encodePacket_carries {i : Instr} {p : Packet} (hwf : i.wf = true) (hp : encodePacket i = some p) :
    Carries p i := by
  cases i <;> simp only [encodePacket, Option.some.injEq, reduceCtorEq] at hp <;> subst hp
  case setDeskew t a vs =>
    have hlen : vs.length + 3 ≤ 1023 := of_decide_eq_true hwf
    exact command_carries (by simp only [List.length_cons]; omega) (by decide) (counted_length rfl (by omega)) fun _ => rfl
  case setRowMap t vs =>
    have hlen : vs.length + 2 ≤ 1023 := of_decide_eq_true hwf
    exact command_carries (by simp only [List.length_cons]; omega) (by decide) (counted_length rfl (by omega)) fun _ => rfl
  case setPalette t a vs =>
    have hlen : vs.length + 3 ≤ 1023 := of_decide_eq_true hwf
    exact command_carries (by simp only [List.length_cons]; omega) (by decide) (counted_length rfl (by omega)) fun _ => rfl
  case laneReplay t a b f o st =>
    exact command_carries (by simp) (by decide) (congrArg₂ (fun x y => Judged.command (.laneReplay t a b x y st))
      (dword_lowWord_highWord f) (dword_lowWord_highWord o)) fun _ => rfl
  case readFrames t a b f n =>
    exact command_carries (by simp) (by decide) (congrArg (fun x => Judged.command (.readFrames t a b x n))
      (dword_lowWord_highWord f)) fun _ => rfl
  case setView t a f o r =>
    exact command_carries (by simp) (by decide) (congrArg₂ (fun x y => Judged.command (.setView t a x y r))
      (dword_lowWord_highWord f) (dword_lowWord_highWord o)) fun _ => rfl
  case zoom t a f =>
    exact command_carries (by simp) (by decide) (congrArg (fun x => Judged.command (.zoom t a x))
      (dword_lowWord_highWord f)) fun _ => rfl
  case setCursor t a b f =>
    exact command_carries (by simp) (by decide) (congrArg (fun x => Judged.command (.setCursor t a b x))
      (dword_lowWord_highWord f)) fun _ => rfl
  case measure t a b f o =>
    exact command_carries (by simp) (by decide) (congrArg₂ (fun x y => Judged.command (.measure t a b x y))
      (dword_lowWord_highWord f) (dword_lowWord_highWord o)) fun _ => rfl
  case loadTrigger t image =>
    obtain ⟨hpos, hlen⟩ := Bool.and_eq_true_iff.mp hwf
    have hpos : 1 ≤ image.length := of_decide_eq_true hpos
    have hlen : image.length + 1 ≤ 1023 := of_decide_eq_true hlen
    have hne : image ≠ [] := List.ne_nil_of_length_pos hpos
    refine table_carries (by omega) ?_ fun _ => rfl
    exact if_neg hne
  case loadFrameTable t lane image =>
    obtain ⟨hpos, hlen⟩ := Bool.and_eq_true_iff.mp hwf
    have hpos : 11 ≤ image.length := of_decide_eq_true hpos
    have hlen : image.length + 2 ≤ 1023 := of_decide_eq_true hlen
    refine table_carries (by simp only [List.length_cons]; omega) ?_ fun _ => rfl
    exact if_neg (show ¬ image.length < 11 by omega)
  case overlay t x y w h pixels =>
    have hlen : pixels.length + 4 ≤ 1023 := of_decide_eq_true hwf
    exact overlay_carries (by simp only [List.length_cons]; omega) rfl fun _ => rfl
  -- every other command has its words one by one
  all_goals exact command_carries (by simp) (by decide) rfl fun _ => rfl

theorem packetDispatch_carried {i : Instr} {p : Packet} {rest : List Packet} {s s1 : State} (hc : Carries p i)
    (hp : encodePacket i = some p) (hs1 : s1 = { s with uplink := { s.uplink with queue := rest } })
    (hs : canDispatch s = true) (hq : s.uplink.queue = p :: rest) :
    exec .packetDispatch s = .next (takeCommand i s1) ∧ exec i s1 = .next (takeCommand i s1) ∧
      (takeCommand i s1).uplink.queue = rest := by
  subst hs1
  refine ⟨?_, ?_, takeCommand_queue i _⟩
  · rw [packetDispatch_acts hs hq, hc.judged]
    rfl
  · have hs' : canDispatch { s with uplink := { s.uplink with queue := rest } } = true := hs
    rw [exec_command i _ (by rw [hp]; rfl), if_pos hs']

/-! ## The six cases of R199 -/

section
variable {p : Packet}

theorem judgePacket_command {w : Word} {args : List Word} (ht : p.truncated = false)
    (htype : headerType p.header = 1) (hpay : p.payload = w :: args) :
    judgePacket p = judgeCommand (headerTag p.header) (field w 0 8) args := by
  unfold judgePacket
  dsimp only
  rw [if_neg (by rw [ht]; exact Bool.false_ne_true), if_pos htype, hpay]

theorem judgePacket_command_empty (ht : p.truncated = false) (htype : headerType p.header = 1)
    (hpay : p.payload = []) : judgePacket p = .discard .badLength := by
  unfold judgePacket
  dsimp only
  rw [if_neg (by rw [ht]; exact Bool.false_ne_true), if_pos htype, hpay]

theorem judgePacket_table (ht : p.truncated = false) (htype : headerType p.header = 2) :
    judgePacket p = judgeTable (headerTag p.header) p.payload := by
  unfold judgePacket
  dsimp only
  rw [if_neg (by rw [ht]; exact Bool.false_ne_true), if_neg (by rw [htype]; decide), if_pos htype]

theorem judgePacket_overlay (ht : p.truncated = false) (htype : headerType p.header = 3) :
    judgePacket p = judgeOverlay (headerTag p.header) p.payload := by
  unfold judgePacket
  dsimp only
  rw [if_neg (by rw [ht]; exact Bool.false_ne_true), if_neg (by rw [htype]; decide), if_neg (by rw [htype]; decide),
    if_pos htype]

theorem judgePacket_other (ht : p.truncated = false) (h1 : headerType p.header ≠ 1) (h2 : headerType p.header ≠ 2)
    (h3 : headerType p.header ≠ 3) : judgePacket p = .discard .unknownCommand := by
  unfold judgePacket
  dsimp only
  rw [if_neg (by rw [ht]; exact Bool.false_ne_true), if_neg h1, if_neg h2, if_neg h3]

end

/-- The number of argument words of each command code; 99 where there is no code, or where a list makes the number vary. -/
def argumentCounts : List Nat := [99, 3, 1, 99, 2, 1, 6, 0, 1, 3, 1, 6, 0, 0, 0, 1, 3, 0, 0, 2, 2, 2, 0, 0, 1, 0, 1, 2, 7, 1,
  1, 5, 0, 6, 3, 1, 0, 4, 6, 2, 0, 1, 99, 99, 5, 1, 0, 2, 2, 0, 0, 0]

/-- The codes with a fixed number of argument words other than `k`. -/
def codesNotOf (k : Nat) : List Nat :=
  (List.range 52).filter fun c => argumentCounts.getD c 99 != 99 && argumentCounts.getD c 99 != k

theorem mem_codesNotOf {c k : Nat} : c ∈ codesNotOf k ↔
    c < 52 ∧ argumentCounts.getD c 99 ≠ 99 ∧ argumentCounts.getD c 99 ≠ k := by
  simp [codesNotOf]

theorem argumentCounts_fixed : ∀ c < 52, (c ≠ 0 ∧ c ≠ 3 ∧ c ≠ 42 ∧ c ≠ 43) →
    argumentCounts.getD c 99 < 8 := by decide

/-- Each number of argument words is another than that of the codes listed for it; more than seven are too many for all. -/
theorem judgeCommand_codesNotOf (tag : Tag) (args : List Word) :
    (codesNotOf (min args.length 8)).map (judgeCommand tag · args) =
      List.replicate (codesNotOf (min args.length 8)).length (.discard .badLength) := by
  match args with
  | [] => rfl
  | [_] => rfl
  | [_, _] => rfl
  | [_, _, _] => rfl
  | [_, _, _, _] => rfl
  | [_, _, _, _, _] => rfl
  | [_, _, _, _, _, _] => rfl
  | [_, _, _, _, _, _, _] => rfl
  | _ :: _ :: _ :: _ :: _ :: _ :: _ :: _ :: rest =>
    have hlen : min (rest.length + 8) 8 = 8 := by omega
    simp only [List.length_cons, hlen]
    rfl

theorem judgeCommand_wrongCount (tag : Tag) {c : Nat} {args : List Word} (h0 : 1 ≤ c) (h51 : c ≤ 51) (h3 : c ≠ 3)
    (h42 : c ≠ 42) (h43 : c ≠ 43) (hlen : args.length ≠ argumentCounts.getD c 99) :
    judgeCommand tag c args = .discard .badLength := by
  have hlt := argumentCounts_fixed c (by omega) ⟨by omega, h3, h42, h43⟩
  have hmem : c ∈ codesNotOf (min args.length 8) := mem_codesNotOf.mpr ⟨by omega, by omega, by omega⟩
  exact (List.map_eq_replicate_iff.mp (judgeCommand_codesNotOf tag args)) c hmem

theorem judgeCommand_unknown (tag : Tag) {c : Nat} (args : List Word) (h : c = 0 ∨ 51 < c) :
    judgeCommand tag c args = .discard .unknownCommand := by
  rcases h with rfl | h
  · rfl
  · obtain ⟨k, rfl⟩ : ∃ k, c = k + 52 := ⟨c - 52, by omega⟩
    exact if_neg (t := Judged.discard .badLength) (show ¬ (1 ≤ k + 52 ∧ k + 52 ≤ 51) by omega)

theorem counted_wrong {n : Word} {values : List Word} (i : Instr) (h : values.length ≠ n.toNat) :
    counted n values i = .discard .badLength := if_neg h

/-- A command whose layout ends in a list without all of its words before the list. -/
theorem judgeCommand_noCount (tag : Tag) {c : Nat} {args : List Word}
    (h : (c = 42 ∧ args = []) ∨ ((c = 3 ∨ c = 43) ∧ args.length < 2)) :
    judgeCommand tag c args = .discard .badLength := by
  rcases h with ⟨rfl, rfl⟩ | ⟨hc, hlen⟩
  · rfl
  · match args, hlen with
    | [], _ => rcases hc with rfl | rfl <;> rfl
    | [_], _ => rcases hc with rfl | rfl <;> rfl

theorem judgeCommand_wrongList (tag : Tag) {c : Nat} {args : List Word}
    (h : (∃ (n : Word) (values : List Word), c = 42 ∧ args = n :: values ∧ values.length ≠ n.toNat) ∨
      ∃ (a n : Word) (values : List Word), (c = 3 ∨ c = 43) ∧ args = a :: n :: values ∧ values.length ≠ n.toNat) :
    judgeCommand tag c args = .discard .badLength := by
  rcases h with ⟨n, values, rfl, rfl, hlen⟩ | ⟨a, n, values, rfl | rfl, rfl, hlen⟩
  · exact counted_wrong (.setRowMap tag values) hlen
  · exact counted_wrong (.setDeskew tag a values) hlen
  · exact counted_wrong (.setPalette tag a values) hlen

theorem judgeTable_short (tag : Tag) {payload : List Word}
    (h : payload = [] ∨ payload = [0] ∨ (payload.head? = some 1 ∧ payload.length < 13)) :
    judgeTable tag payload = .discard .badLength := by
  rcases h with rfl | rfl | ⟨hhead, hlen⟩
  · rfl
  · rfl
  · match payload, hhead with
    | [_], rfl => rfl
    | _ :: _ :: image, rfl =>
      simp only [List.length_cons] at hlen
      exact if_pos (show image.length < 11 by omega)

theorem judgeTable_unknown (tag : Tag) {kind : Word} (ws : List Word) (h0 : kind ≠ 0) (h1 : kind ≠ 1) :
    judgeTable tag (kind :: ws) = .discard .unknownCommand := (if_neg h0).trans (if_neg h1)

theorem judgeOverlay_short (tag : Tag) {payload : List Word} (h : payload.length < 4) :
    judgeOverlay tag payload = .discard .badLength := by
  match payload, h with
  | [], _ => rfl
  | [_], _ => rfl
  | [_, _], _ => rfl
  | [_, _, _], _ => rfl

theorem judgeStop_other (tag : Tag) (lane : Word) {kind : Word} (h : 2 ≤ kind.toNat) :
    judgeStop tag lane kind = .refused .badArgument := by
  unfold judgeStop
  split
  · omega
  · omega
  · rfl

theorem code_truncate (w : Word) : BitVec.ofNat 8 (field w 0 8) = w.truncate 8 := by
  apply BitVec.eq_of_toNat_eq
  simp [field]

/-! ## The obligation -/

/-- Settles O56: a command's packet is judged to be that command; each case of R199 is a judgement to discard. -/
theorem packetsDispatchTheirCommands : Obligations.PacketsDispatchTheirCommands := by
  unfold Obligations.PacketsDispatchTheirCommands
  refine ⟨fun i p rest s s1 hwf hp hs1 => ?_, fun p rest rc s type counts hs hq htype hcounts hcase => ?_,
    fun p rest s w lane kind hs hq ht htype hpay hcode hkind => ?_, fun p => ?_, fun s => packetDispatch_empty⟩
  · have hc := encodePacket_carries hwf hp
    refine ⟨hc.judged, fun hs hq => ?_⟩
    obtain ⟨hdispatch, hexec, hqueue⟩ := packetDispatch_carried hc hp hs1 hs hq
    obtain ⟨r, hslot, htag, htype, hcode⟩ := hc.answers s1
    exact ⟨_, r, hdispatch, hexec, rfl, hqueue, hslot, htag, htype, hcode⟩
  · refine packetDispatch_discards hs hq htype ?_
    subst htype hcounts
    rcases hcase with ⟨ht, rfl⟩ | ⟨ht, rfl, hcase⟩ | ⟨ht, rfl, hcase⟩
    · exact if_pos ht
    · rcases hcase with ⟨h1, h2, h3⟩ | ⟨h1, w, args, hpay, hc⟩ | ⟨h2, kind, ws, hpay, hk0, hk1⟩
      · exact judgePacket_other ht h1 h2 h3
      · rw [judgePacket_command ht h1 hpay, judgeCommand_unknown _ args hc]
      · rw [judgePacket_table ht h2, hpay, judgeTable_unknown _ ws hk0 hk1]
    · rcases hcase with ⟨h1, hpay⟩ | ⟨h2, hpay⟩ | ⟨h2, hpay⟩ | ⟨h2, hpay⟩ | ⟨h3, hpay⟩ | ⟨h1, w, args, c, hpay, hc, hargs⟩
      · exact judgePacket_command_empty ht h1 hpay
      · rw [judgePacket_table ht h2, judgeTable_short _ (.inl hpay)]
      · rw [judgePacket_table ht h2, judgeTable_short _ (.inr (.inl hpay))]
      · rw [judgePacket_table ht h2, judgeTable_short _ (.inr (.inr hpay))]
      · rw [judgePacket_overlay ht h3, judgeOverlay_short _ hpay]
      · rw [judgePacket_command ht h1 hpay, ← hc]
        rcases hargs with ⟨h0, h51, n3, n42, n43, hlen⟩ | hargs | hargs | hargs | hargs
        · exact judgeCommand_wrongCount _ h0 h51 n3 n42 n43 hlen
        · exact judgeCommand_noCount _ (.inl hargs)
        · exact judgeCommand_noCount _ (.inr hargs)
        · exact judgeCommand_wrongList _ (.inl hargs)
        · exact judgeCommand_wrongList _ (.inr hargs)
  · have hj : judgePacket p = .refused .badArgument := by
      rw [judgePacket_command ht htype hpay, hcode]
      exact judgeStop_other _ lane hkind
    have hpcode : p.code = 27 := by
      unfold Packet.code
      rw [hpay]
      exact (if_pos (.inl htype)).trans (by rw [hcode]; rfl)
    rw [packetDispatch_acts hs hq, hj, actOn, hpcode, htype]
    rfl
  · unfold Packet.code
    cases p.payload with
    | nil => rfl
    | cons w ws =>
      dsimp only
      rw [code_truncate]

end Sys2Proof.Machine
end
